-- ==== Sys2Proof/Word.lean ====
section
/-!
DEFINITION. The word types of the machine and the plain list and bit operations that every layer uses.
Bit numbering and byte order are those of R1, R3 and R220: bit 0 is the least significant bit, bytes are little-endian.
-/

namespace Sys2Proof

/-- One byte. -/
abbrev Byte := BitVec 8
/-- A 32-bit word: one lane, one instruction. -/
abbrev W32 := BitVec 32
/-- A 64-bit word: a scalar register, a token header, an address. -/
abbrev W64 := BitVec 64
/-- The 512 bits of a vector register or a token payload; lane `k` is bits [32k+31:32k] (R36, R241). -/
abbrev Lanes := BitVec 512

/-- A token: a 64-bit header and 16 payload lanes (R36). -/
structure Token where
  hdr : W64
  pay : Lanes
  deriving DecidableEq, Repr

namespace Bits

/-- Bits [hi:lo] of a word as a number. -/
def nat {w : Nat} (x : BitVec w) (hi lo : Nat) : Nat := x.toNat / 2 ^ lo % 2 ^ (hi - lo + 1)

/-- Bit `i` of a word. -/
def bit {w : Nat} (x : BitVec w) (i : Nat) : Bool := x.toNat.testBit i

/-- A word with bits [lo+n-1:lo] replaced by the low `n` bits of `v`. -/
def put {w : Nat} (x : BitVec w) (lo n v : Nat) : BitVec w :=
  let m : BitVec w := BitVec.ofNat w ((2 ^ n - 1) * 2 ^ lo)
  (x &&& ~~~m) ||| (BitVec.ofNat w (v % 2 ^ n * 2 ^ lo))

/-- The bytes of a number, least significant first. -/
def bytesOf : Nat → Nat → List Byte
  | 0, _ => []
  | n + 1, v => BitVec.ofNat 8 v :: bytesOf n (v / 256)

/-- The number whose bytes, least significant first, are given. -/
def ofBytes : List Byte → Nat
  | [] => 0
  | b :: bs => b.toNat + 256 * ofBytes bs

end Bits

/-- Lane `k` of sixteen. -/
def Lanes.get (v : Lanes) (k : Nat) : W32 := v.extractLsb' (32 * k) 32

/-- The sixteen lanes, lane 0 first. -/
def Lanes.toList (v : Lanes) : List W32 := (List.range 16).map (Lanes.get v)

/-- Lanes from a list, lane 0 first; lanes past the list's end are zero. -/
def Lanes.ofList : List W32 → Lanes
  | [] => 0
  | x :: xs => (x.setWidth 512) ||| (Lanes.ofList xs <<< 32)

/-- Sixteen lanes given by a function of the lane number. -/
def Lanes.ofFn (f : Nat → W32) : Lanes := Lanes.ofList ((List.range 16).map f)

/-- A floating-point format by its exponent and fraction widths (R183). -/
structure FFmt where
  eb : Nat
  fb : Nat
  deriving DecidableEq, Repr

/-- The kinds of floating-point value (R183). -/
inductive FCls where
  | zero | fin | inf | qnan | snan
  deriving DecidableEq, Repr

/-- A floating-point value: its kind, its sign and, where finite, its magnitude `num / den`. -/
structure FVal where
  cls : FCls
  neg : Bool
  num : Nat
  den : Nat
  deriving DecidableEq, Repr

end Sys2Proof
end

