-- ==== Sys2Proof/Machine/Flags.lean ====
section
/-!
DEFINITION. hs.fp: its exception flags, rounding mode and trap enables (R188 to R191), and the rounding of an exact
value to an integer.
-/

namespace Sys2Proof.Machine

/-- Exception flags in the order of hs.fp bits [4:0]: NV DZ OF UF NX (R188). -/
abbrev Fl := BitVec 5

/-- Invalid operation. -/
def flNV : Fl := 16
/-- Division by zero. -/
def flDZ : Fl := 8
/-- Overflow. -/
def flOF : Fl := 4
/-- Underflow. -/
def flUF : Fl := 2
/-- Inexact. -/
def flNX : Fl := 1

/-- A flag where a condition holds. -/
def flIf (c : Bool) (f : Fl) : Fl := if c then f else 0

/-- RM: 0 RNE, 1 RTZ, 2 RDN, 3 RUP (R188). -/
def fpRM (fp : W64) : Nat := Bits.nat fp 7 6

/-- TEN, one enable per flag (R188). -/
def fpTEN (fp : W64) : Fl := fp.extractLsb' 8 5

/-- ORs flags into hs.fp; the hardware sets flags and never clears them (R188, R190). -/
def fpRaise (fp : W64) (f : Fl) : W64 := fp ||| f.setWidth 64

/-- The bits of hs.fp that software may write: TEN, RM and the flags (R188). -/
def fpWritable : W64 := 0x1FDF

/-- Rounds `num / den` of the given sign to an integer by RM (0 RNE, 1 RTZ, 2 RDN, 3 RUP), and whether that changed
it (R189). -/
def rint (rm : Nat) (neg : Bool) (num den : Nat) : Nat × Bool :=
  let q := num / den
  let r := num % den
  if r = 0 then (q, false)
  else
    let up :=
      if rm = 0 then decide (den < 2 * r) || (decide (2 * r = den) && decide (q % 2 = 1))
      else if rm = 1 then false
      else if rm = 2 then neg
      else !neg
    (if up then q + 1 else q, true)

end Sys2Proof.Machine
end

