-- ==== Sys2Proof/Machine/Float.lean ====
section
/-!
DEFINITION. Floating-point values and arithmetic (R183 to R197, R248 to R250): every result is the exact value,
rounded once.
-/

namespace Sys2Proof

/-- A NaN of either kind. -/
def FVal.isNaN (v : FVal) : Bool := v.cls == .qnan || v.cls == .snan
/-- A signalling NaN. -/
def FVal.isSNaN (v : FVal) : Bool := v.cls == .snan
/-- The value with its sign inverted. -/
def FVal.flip (v : FVal) : FVal := { v with neg := !v.neg }

end Sys2Proof

namespace Sys2Proof.Machine

/-- binary32. -/
def f32 : FFmt := ⟨8, 23⟩
/-- BF16, the upper half of binary32. -/
def bf16 : FFmt := ⟨8, 7⟩
/-- binary16. -/
def f16 : FFmt := ⟨5, 10⟩

/-- The exponent bias. -/
def fBias (f : FFmt) : Nat := 2 ^ (f.eb - 1) - 1
/-- The bits of +∞. -/
def fInf (f : FFmt) : Nat := (2 ^ f.eb - 1) * 2 ^ f.fb
/-- The sign bit. -/
def fSignBit (f : FFmt) : Nat := 2 ^ (f.eb + f.fb)
/-- The canonical NaN (R183). -/
def fNaN (f : FFmt) : Nat := fInf f + 2 ^ (f.fb - 1)
/-- The bits with a sign. -/
def fSigned (f : FFmt) (neg : Bool) (x : Nat) : Nat := if neg then fSignBit f + x else x

/-- The value of a bit pattern (R183). -/
def fUnpack (f : FFmt) (x : Nat) : FVal :=
  let neg := x / fSignBit f % 2 == 1
  let e := x / 2 ^ f.fb % 2 ^ f.eb
  let m := x % 2 ^ f.fb
  if e = 2 ^ f.eb - 1 then
    if m = 0 then ⟨.inf, neg, 0, 1⟩ else ⟨if m / 2 ^ (f.fb - 1) = 1 then .qnan else .snan, neg, 0, 1⟩
  else if e = 0 then
    if m = 0 then ⟨.zero, neg, 0, 1⟩ else ⟨.fin, neg, m, 2 ^ (fBias f + f.fb - 1)⟩
  else
    let s := 2 ^ f.fb + m
    if fBias f + f.fb ≤ e then ⟨.fin, neg, s * 2 ^ (e - (fBias f + f.fb)), 1⟩
    else ⟨.fin, neg, s, 2 ^ (fBias f + f.fb - e)⟩


/-- `num / den` divided by 2^q, as a fraction. -/
def fScale (num den : Nat) (q : Int) : Nat × Nat :=
  if q ≥ 0 then (num, den * 2 ^ q.toNat) else (num * 2 ^ (-q).toNat, den)

/-- ⌊log2 (num / den)⌋ of a positive fraction. -/
def fLog2 (num den : Nat) : Int :=
  let e : Int := (Nat.log2 num : Int) - (Nat.log2 den : Int)
  let t := fScale num den e
  if t.1 < t.2 then e - 1 else e

/-- Rounds a positive value to `p` significand bits in the format's exponent range and packs it: overflow by R189,
UF when tiny after rounding and inexact, NX when inexact (R190). A narrower significand than the format's also narrows
the subnormal range (R197; log 10). -/
def fRound (f : FFmt) (rm p : Nat) (neg : Bool) (num den : Nat) : Nat × Fl :=
  if num = 0 then (fSigned f neg 0, 0)
  else
    let emin : Int := 1 - (fBias f : Int)
    let e := fLog2 num den
    let q := (if e < emin then emin else e) - (p : Int) + 1
    let t := fScale num den q
    let r := rint rm neg t.1 t.2
    let tu := fScale num den (e - (p : Int) + 1)
    let ru := rint rm neg tu.1 tu.2
    let tiny := r.2 && decide (e < emin) && decide ((Nat.log2 ru.1 : Int) + (e - (p : Int) + 1) < emin)
    if r.1 = 0 then (fSigned f neg 0, flUF ||| flNX)
    else
      let big : Int := (Nat.log2 r.1 : Int) + q
      if big > (fBias f : Int) then
        let down := rm == 1 || (rm == 2 && !neg) || (rm == 3 && neg)
        (fSigned f neg (if down then fInf f - 1 else fInf f), flOF ||| flNX)
      else
        let fl := flIf r.2 flNX ||| flIf tiny flUF
        if big < emin then (fSigned f neg (r.1 * 2 ^ (q - (emin - (f.fb : Int))).toNat), fl)
        else
          let m := if q ≥ big - (f.fb : Int) then r.1 * 2 ^ (q - (big - (f.fb : Int))).toNat
            else r.1 / 2 ^ ((big - (f.fb : Int)) - q).toNat
          (fSigned f neg ((big + (fBias f : Int)).toNat * 2 ^ f.fb + (m - 2 ^ f.fb)), fl)

/-- Rounds to the full significand of the format. -/
def fPack (f : FFmt) (rm : Nat) (neg : Bool) (num den : Nat) : Nat × Fl := fRound f rm (f.fb + 1) neg num den

/-- The canonical NaN, raising NV where asked. -/
def fNaNRes (f : FFmt) (nv : Bool) : Nat × Fl := (fNaN f, flIf nv flNV)

/-- The rounded sum of two values that are not NaN: ∞ − ∞ is invalid; an exact zero sum of opposite signs is +0, or
−0 under RDN (R248). -/
def fSum (f : FFmt) (rm : Nat) (a b : FVal) : Nat × Fl :=
  match a.cls, b.cls with
  | .inf, .inf => if a.neg == b.neg then (fSigned f a.neg (fInf f), 0) else fNaNRes f true
  | .inf, _ => (fSigned f a.neg (fInf f), 0)
  | _, .inf => (fSigned f b.neg (fInf f), 0)
  | _, _ =>
    let x : Int := (a.num * b.den : Nat)
    let y : Int := (b.num * a.den : Nat)
    let s : Int := (if a.neg then -x else x) + (if b.neg then -y else y)
    if s = 0 then (fSigned f (if a.neg == b.neg then a.neg else rm == 2) 0, 0)
    else fPack f rm (decide (s < 0)) s.natAbs (a.den * b.den)

/-- The exact product of two values that are not NaN; `none` for 0 × ∞. -/
def fProd (a b : FVal) : Option FVal :=
  let neg := a.neg != b.neg
  match a.cls, b.cls with
  | .inf, .zero | .zero, .inf => none
  | .inf, _ | _, .inf => some ⟨.inf, neg, 0, 1⟩
  | .zero, _ | _, .zero => some ⟨.zero, neg, 0, 1⟩
  | _, _ => some ⟨.fin, neg, a.num * b.num, a.den * b.den⟩


/-- FADD (R248). -/
def fAdd (f : FFmt) (rm x y : Nat) : Nat × Fl :=
  let a := fUnpack f x
  let b := fUnpack f y
  if a.isNaN || b.isNaN then fNaNRes f (a.isSNaN || b.isSNaN) else fSum f rm a b

/-- FSUB (R248). -/
def fSub (f : FFmt) (rm x y : Nat) : Nat × Fl :=
  let a := fUnpack f x
  let b := fUnpack f y
  if a.isNaN || b.isNaN then fNaNRes f (a.isSNaN || b.isSNaN) else fSum f rm a b.flip

/-- The rounded form of an exact product. -/
def fOfVal (f : FFmt) (rm : Nat) (v : FVal) : Nat × Fl :=
  match v.cls with
  | .inf => (fSigned f v.neg (fInf f), 0)
  | .zero => (fSigned f v.neg 0, 0)
  | .fin => fPack f rm v.neg v.num v.den
  | _ => fNaNRes f false

/-- FMUL (R248). -/
def fMul (f : FFmt) (rm x y : Nat) : Nat × Fl :=
  let a := fUnpack f x
  let b := fUnpack f y
  if a.isNaN || b.isNaN then fNaNRes f (a.isSNaN || b.isSNaN)
  else match fProd a b with
    | none => fNaNRes f true
    | some v => fOfVal f rm v

/-- FFMA, and FFMS where the product is subtracted: one rounding; 0 × ∞ is invalid even when the addend is a NaN
(R248). -/
def fFma (f : FFmt) (rm : Nat) (sub : Bool) (x y z : Nat) : Nat × Fl :=
  let a := fUnpack f x
  let b := fUnpack f y
  let d := fUnpack f z
  let s := a.isSNaN || b.isSNaN || d.isSNaN
  if a.isNaN || b.isNaN then fNaNRes f s
  else match fProd a b with
    | none => fNaNRes f true
    | some v => if d.isNaN then fNaNRes f s else fSum f rm (if sub then v.flip else v) d

/-- FDIV (R248). -/
def fDiv (f : FFmt) (rm x y : Nat) : Nat × Fl :=
  let a := fUnpack f x
  let b := fUnpack f y
  let neg := a.neg != b.neg
  if a.isNaN || b.isNaN then fNaNRes f (a.isSNaN || b.isSNaN)
  else match a.cls, b.cls with
    | .inf, .inf | .zero, .zero => fNaNRes f true
    | .inf, _ => (fSigned f neg (fInf f), 0)
    | _, .inf => (fSigned f neg 0, 0)
    | .zero, _ => (fSigned f neg 0, 0)
    | _, .zero => (fSigned f neg (fInf f), flDZ)
    | _, _ => fPack f rm neg (a.num * b.den) (a.den * b.num)

/-- Integer square root by bits: `n` bits of result still to find. -/
def isqrtGo (x : Nat) : Nat → Nat → Nat
  | 0, r => r
  | n + 1, r => let c := r + 2 ^ n; if c * c ≤ x then isqrtGo x n c else isqrtGo x n r

/-- The integer square root. -/
def isqrt (x : Nat) : Nat := isqrtGo x (Nat.log2 x / 2 + 1) 0

/-- √(num / den) as a fraction that rounds as the exact root does: exact, or half a unit above the floor of the root at
a scale far below any rounding point. -/
def sqrtFrac (num den : Nat) : Nat × Nat :=
  let k := 80 + Nat.log2 den
  let n := num * 4 ^ k / den
  let r := isqrt n
  if r * r * den = num * 4 ^ k then (r, 2 ^ k) else (2 * r + 1, 2 ^ (k + 1))

/-- FSQRT (R248). -/
def fSqrt (f : FFmt) (rm x : Nat) : Nat × Fl :=
  let a := fUnpack f x
  if a.isNaN then fNaNRes f a.isSNaN
  else match a.cls with
    | .zero => (x, 0)
    | .inf => if a.neg then fNaNRes f true else (x, 0)
    | _ => if a.neg then fNaNRes f true else let t := sqrtFrac a.num a.den; fPack f rm false t.1 t.2

/-- Order of two values that are not NaN: whether a < b (R249). -/
def fLess (a b : FVal) : Bool :=
  let key : FVal → Int := fun v =>
    match v.cls with | .inf => if v.neg then -2 else 2 | .zero => 0 | _ => if v.neg then -1 else 1
  if key a ≠ key b then decide (key a < key b)
  else if key a = 1 then decide (a.num * b.den < b.num * a.den)
  else if key a = -1 then decide (b.num * a.den < a.num * b.den)
  else false

/-- FMIN and FMAX: −0 is less than +0; a NaN operand gives the canonical NaN (R249). -/
def fMinMax (f : FFmt) (max : Bool) (x y : Nat) : Nat × Fl :=
  let a := fUnpack f x
  let b := fUnpack f y
  if a.isNaN || b.isNaN then fNaNRes f (a.isSNaN || b.isSNaN)
  else
    let aLess := fLess a b || (!fLess b a && a.neg && !b.neg)
    (if aLess != max then x else y, 0)

/-- The compares: 0 equal, 1 less, 2 less or equal, 3 unordered (R249). -/
def fCmp (f : FFmt) (kind x y : Nat) : Bool × Fl :=
  let a := fUnpack f x
  let b := fUnpack f y
  let s := a.isSNaN || b.isSNaN
  if a.isNaN || b.isNaN then (kind == 3, flIf (s || kind == 1 || kind == 2) flNV)
  else
    (match kind with
      | 0 => !fLess a b && !fLess b a
      | 1 => fLess a b
      | 2 => !fLess b a
      | _ => false, 0)

/-- FRND (R250). -/
def fRnd (f : FFmt) (rm x : Nat) : Nat × Fl :=
  let a := fUnpack f x
  if a.isNaN then fNaNRes f a.isSNaN
  else match a.cls with
    | .fin =>
      let r := rint rm a.neg a.num a.den
      if r.1 = 0 then (fSigned f a.neg 0, flIf r.2 flNX)
      else ((fPack f rm a.neg r.1 1).1, flIf r.2 flNX)
    | _ => (x, 0)

/-- FSCL: RM(a × 2^n) (R250). -/
def fScl (f : FFmt) (rm x : Nat) (n : Int) : Nat × Fl :=
  let a := fUnpack f x
  if a.isNaN then fNaNRes f a.isSNaN
  else match a.cls with
    | .fin =>
      let lim : Int := 2 ^ f.eb + 2 * f.fb + 8
      let n := if n > lim then lim else if n < -lim then -lim else n
      if n ≥ 0 then fPack f rm a.neg (a.num * 2 ^ n.toNat) a.den
      else fPack f rm a.neg a.num (a.den * 2 ^ (-n).toNat)
    | _ => (x, 0)

/-- FCLASS: the one-hot class code (R250). -/
def fClass (f : FFmt) (x : Nat) : Nat :=
  let a := fUnpack f x
  let sub := x / 2 ^ f.fb % 2 ^ f.eb = 0
  match a.cls with
  | .inf => if a.neg then 1 else 2 ^ 7
  | .zero => if a.neg then 2 ^ 3 else 2 ^ 4
  | .snan => 2 ^ 8
  | .qnan => 2 ^ 9
  | .fin => if a.neg then (if sub then 2 ^ 2 else 2 ^ 1) else (if sub then 2 ^ 5 else 2 ^ 6)

/-! ## Estimates (R197) -/

/-- Fraction bits of the series below; far more than any result keeps. -/
def estBits : Nat := 192
/-- ln 2 in units of 2^-192, rounded down. -/
def estLn2 : Nat := 0xb17217f7d1cf79abc9e3b39803f2f6af40f343267298b62d

/-- The sum of the exponential series of y (in units of 2^-192): term k and the terms above it. -/
def expSeries (y : Nat) : Nat → Nat → Nat → Nat
  | 0, _, _ => 0
  | n + 1, k, term => term + expSeries y n (k + 1) (term * y / 2 ^ estBits / (k + 1))

/-- The sum of t^(2k+1) / (2k+1) over k (in units of 2^-192). -/
def atanhSeries (t2 : Nat) : Nat → Nat → Nat → Nat
  | 0, _, _ => 0
  | n + 1, k, pw => pw / (2 * k + 1) + atanhSeries t2 n (k + 1) (pw * t2 / 2 ^ estBits)

/-- 2^x of a finite non-zero x, rounded once to `p` bits: x = i + r with 0 ≤ r < 1. -/
def exp2Round (f : FFmt) (p : Nat) (v : FVal) : Nat × Fl :=
  let whole := v.num / v.den
  let rest := v.num % v.den
  let i : Int := if v.neg then (if rest = 0 then -(whole : Int) else -(whole : Int) - 1) else whole
  let fr := if rest = 0 then 0 else if v.neg then v.den - rest else rest
  let lim : Int := 2 ^ f.eb + 2 * f.fb + 8
  let i := if i > lim then lim else if i < -lim then -lim else i
  let m : Nat × Nat :=
    if fr = 0 then (1, 1)
    else
      let y := fr * 2 ^ estBits / v.den * estLn2 / 2 ^ estBits
      (2 * expSeries y 64 0 (2 ^ estBits) + 1, 2 ^ (estBits + 1))
  if i ≥ 0 then fRound f 0 p false (m.1 * 2 ^ i.toNat) m.2
  else fRound f 0 p false m.1 (m.2 * 2 ^ (-i).toNat)

/-- log2 of a positive finite x, rounded once to `p` bits. -/
def log2Round (f : FFmt) (p : Nat) (v : FVal) : Nat × Fl :=
  let e := fLog2 v.num v.den
  let t := fScale v.num v.den e
  if t.1 = t.2 then fRound f 0 p (decide (e < 0)) e.natAbs 1
  else
    let z := (t.1 - t.2) * 2 ^ estBits / (t.1 + t.2)
    let ln := 2 * atanhSeries (z * z / 2 ^ estBits) 80 0 z
    let l : Int := e * 2 ^ estBits + (ln * 2 ^ estBits / estLn2 : Nat)
    fRound f 0 p (decide (l < 0)) (2 * l.natAbs + 1) (2 ^ (estBits + 1))

/-- The estimates: 0 FRCPE, 1 FRSQE, 2 FEXP2, 3 FLOG2, with the special inputs of R197. -/
def fEst (f : FFmt) (kind x : Nat) : Nat × Fl :=
  let a := fUnpack f x
  let p := min (f.fb + 1) (if kind < 2 then 12 else 16)
  if a.isNaN then fNaNRes f a.isSNaN
  else match kind, a.cls with
    | 2, .zero => (fBias f * 2 ^ f.fb, 0)
    | 3, .zero => (fSigned f true (fInf f), flDZ)
    | _, .zero => (fSigned f a.neg (fInf f), flDZ)
    | 0, .inf => (fSigned f a.neg 0, 0)
    | 2, .inf => (if a.neg then 0 else fInf f, 0)
    | 1, .inf => if a.neg then fNaNRes f true else (0, 0)
    | _, .inf => if a.neg then fNaNRes f true else (fInf f, 0)
    | 0, _ => fRound f 0 p a.neg a.den a.num
    | 1, _ => if a.neg then fNaNRes f true else let t := sqrtFrac a.den a.num; fRound f 0 p false t.1 t.2
    | 2, _ => exp2Round f p a
    | _, _ => if a.neg then fNaNRes f true else log2Round f p a

/-! ## Conversions (R195, R251) -/

/-- Float to float; `sat` keeps a finite value finite (R251). -/
def fConv (dst src : FFmt) (rm : Nat) (sat : Bool) (x : Nat) : Nat × Fl :=
  let a := fUnpack src x
  if a.isNaN then fNaNRes dst a.isSNaN
  else match a.cls with
    | .inf => (fSigned dst a.neg (fInf dst), 0)
    | .zero => (fSigned dst a.neg 0, 0)
    | _ =>
      let r := fPack dst rm a.neg a.num a.den
      if sat && r.2 &&& flOF != 0 then (fSigned dst a.neg (fInf dst - 1), flOF ||| flNX) else r

/-- A number clamped to a width's range, in two's complement, and whether the clamp changed it. -/
def clampInt (w : Nat) (signed : Bool) (v : Int) : Nat × Bool :=
  let lo : Int := if signed then -(2 ^ (w - 1)) else 0
  let hi : Int := if signed then 2 ^ (w - 1) - 1 else 2 ^ w - 1
  let c := if v < lo then lo else if v > hi then hi else v
  ((c % (2 ^ w : Int)).toNat, decide (c ≠ v))

/-- Float to integer: out of range gives the nearest end and NV, a NaN gives 0 and NV (R195). -/
def fToInt (src : FFmt) (rm w : Nat) (signed : Bool) (x : Nat) : Nat × Fl :=
  let a := fUnpack src x
  if a.isNaN then (0, flNV)
  else match a.cls with
    | .zero => (0, 0)
    | .inf => ((clampInt w signed (if a.neg then -(2 ^ 70) else 2 ^ 70)).1, flNV)
    | _ =>
      let r := rint rm a.neg a.num a.den
      let c := clampInt w signed (if a.neg then -(r.1 : Int) else r.1)
      (c.1, if c.2 then flNV else flIf r.2 flNX)

/-- Integer to float, rounded once by RM (R195). -/
def fOfInt (dst : FFmt) (rm : Nat) (v : Int) : Nat × Fl := fPack dst rm (decide (v < 0)) v.natAbs 1

end Sys2Proof.Machine
end

