-- ==== Sys2Proof/Syntax.lean ====
section
/-!
DEFINITION. The abstract syntax: one constructor for each row of the opcode table (R228), and for each event and
message the table lists without a word. An encoded instruction keeps its TRIG field and the fields of its format (R220).
-/

namespace Sys2Proof

/-- A message as it arrives at a port (R15 to R17): its connection, the delivery mode the transport fixed for that
connection, the endpoint address it was sent to, its 32-byte header and its payload. -/
structure Msg where
  port : BitVec 4
  conn : Nat
  rod : Bool
  dest : BitVec 128
  hdr : BitVec 256
  payload : List Byte
  deriving DecidableEq, Repr

/-- A place in the fabric: region `r` (64 reach + 8 col + row, R4), element `e` (16 y + x, 256 for the helm core),
context `c`, and a channel, port or queue number `n`. -/
structure At where
  r : Nat
  e : Nat
  c : Nat
  n : Nat
  deriving DecidableEq, Repr

/-- Every row of the opcode table. -/
inductive Instr where
  /-- Does nothing (R245). -/
  | nop (t : BitVec 6)
  /-- Copies source A to destination D (R245). -/
  | mov (t : BitVec 6) (d : BitVec 5) (a : BitVec 5) (y : BitVec 3)
  /-- Writes a sign-extended 13-bit immediate to D (R245). -/
  | movi (t : BitVec 6) (d : BitVec 5) (i : BitVec 13)
  /-- Shifts D left by 13 bits and adds an unsigned immediate (R245). -/
  | movsh (t : BitVec 6) (d : BitVec 5) (i : BitVec 13)
  /-- Adds A and B with wrap-around (R245). -/
  | add (t : BitVec 6) (d : BitVec 5) (a : BitVec 5) (b : BitVec 5) (y : BitVec 3)
  /-- Adds a sign-extended immediate to A (R245). -/
  | addi (t : BitVec 6) (d : BitVec 5) (a : BitVec 5) (i : BitVec 8)
  /-- Subtracts B from A with wrap-around (R245). -/
  | sub (t : BitVec 6) (d : BitVec 5) (a : BitVec 5) (b : BitVec 5) (y : BitVec 3)
  /-- Adds A and B with saturation (R245). -/
  | adds (t : BitVec 6) (d : BitVec 5) (a : BitVec 5) (b : BitVec 5) (y : BitVec 3)
  /-- Subtracts B from A with saturation (R245). -/
  | subs (t : BitVec 6) (d : BitVec 5) (a : BitVec 5) (b : BitVec 5) (y : BitVec 3)
  /-- Writes the low bits of A times B (R245). -/
  | mul (t : BitVec 6) (d : BitVec 5) (a : BitVec 5) (b : BitVec 5) (y : BitVec 3)
  /-- Writes the high bits of the double-width product of A and B (R245). -/
  | mulh (t : BitVec 6) (d : BitVec 5) (a : BitVec 5) (b : BitVec 5) (y : BitVec 3)
  /-- Adds A times B to D (R245). -/
  | mad (t : BitVec 6) (d : BitVec 5) (a : BitVec 5) (b : BitVec 5) (y : BitVec 3)
  /-- Divides A by B with truncation and defined results for zero and overflow (R246). -/
  | div (t : BitVec 6) (d : BitVec 5) (a : BitVec 5) (b : BitVec 5) (y : BitVec 3)
  /-- Writes the remainder of A divided by B (R246). -/
  | rem (t : BitVec 6) (d : BitVec 5) (a : BitVec 5) (b : BitVec 5) (y : BitVec 3)
  /-- Writes the smaller of A and B (R245). -/
  | min (t : BitVec 6) (d : BitVec 5) (a : BitVec 5) (b : BitVec 5) (y : BitVec 3)
  /-- Writes the larger of A and B (R245). -/
  | max (t : BitVec 6) (d : BitVec 5) (a : BitVec 5) (b : BitVec 5) (y : BitVec 3)
  /-- Writes the absolute value of A (R245). -/
  | abs (t : BitVec 6) (d : BitVec 5) (a : BitVec 5) (y : BitVec 3)
  /-- Writes zero minus A (R245). -/
  | neg (t : BitVec 6) (d : BitVec 5) (a : BitVec 5) (y : BitVec 3)
  /-- Bitwise AND of A and B (R245). -/
  | and (t : BitVec 6) (d : BitVec 5) (a : BitVec 5) (b : BitVec 5) (y : BitVec 3)
  /-- Bitwise AND of A with a sign-extended immediate (R245). -/
  | andi (t : BitVec 6) (d : BitVec 5) (a : BitVec 5) (i : BitVec 8)
  /-- Bitwise OR of A and B (R245). -/
  | or (t : BitVec 6) (d : BitVec 5) (a : BitVec 5) (b : BitVec 5) (y : BitVec 3)
  /-- Bitwise OR of A with a sign-extended immediate (R245). -/
  | ori (t : BitVec 6) (d : BitVec 5) (a : BitVec 5) (i : BitVec 8)
  /-- Bitwise XOR of A and B (R245). -/
  | xor (t : BitVec 6) (d : BitVec 5) (a : BitVec 5) (b : BitVec 5) (y : BitVec 3)
  /-- Writes A AND NOT B (R245). -/
  | andn (t : BitVec 6) (d : BitVec 5) (a : BitVec 5) (b : BitVec 5) (y : BitVec 3)
  /-- Shifts A left by B modulo the width (R246). -/
  | shl (t : BitVec 6) (d : BitVec 5) (a : BitVec 5) (b : BitVec 5) (y : BitVec 3)
  /-- Shifts A left by an immediate count (R246). -/
  | shli (t : BitVec 6) (d : BitVec 5) (a : BitVec 5) (i : BitVec 8)
  /-- Shifts A right logically by B (R246). -/
  | shr (t : BitVec 6) (d : BitVec 5) (a : BitVec 5) (b : BitVec 5) (y : BitVec 3)
  /-- Shifts A right logically by an immediate count (R246). -/
  | shri (t : BitVec 6) (d : BitVec 5) (a : BitVec 5) (i : BitVec 8)
  /-- Shifts A right arithmetically by B (R246). -/
  | sar (t : BitVec 6) (d : BitVec 5) (a : BitVec 5) (b : BitVec 5) (y : BitVec 3)
  /-- Counts leading zero bits of A (R245). -/
  | clz (t : BitVec 6) (d : BitVec 5) (a : BitVec 5) (y : BitVec 3)
  /-- Counts set bits of A (R245). -/
  | popc (t : BitVec 6) (d : BitVec 5) (a : BitVec 5) (y : BitVec 3)
  /-- Extracts a bit field of A described by B (R246). -/
  | bfx (t : BitVec 6) (d : BitVec 5) (a : BitVec 5) (b : BitVec 5) (y : BitVec 3)
  /-- Inserts A into a bit field of D described by B (R246). -/
  | bfi (t : BitVec 6) (d : BitVec 5) (a : BitVec 5) (b : BitVec 5) (y : BitVec 3)
  /-- Selects A where D is non-zero, else B, per element (R246). -/
  | sel (t : BitVec 6) (d : BitVec 5) (a : BitVec 5) (b : BitVec 5) (y : BitVec 3)
  /-- Writes all ones where A equals B (R247). -/
  | cmpeq (t : BitVec 6) (d : BitVec 5) (a : BitVec 5) (b : BitVec 5) (y : BitVec 3)
  /-- Writes all ones where A differs from B (R247). -/
  | cmpne (t : BitVec 6) (d : BitVec 5) (a : BitVec 5) (b : BitVec 5) (y : BitVec 3)
  /-- Writes all ones where A is less than B (R247). -/
  | cmplt (t : BitVec 6) (d : BitVec 5) (a : BitVec 5) (b : BitVec 5) (y : BitVec 3)
  /-- Writes all ones where A is at most B (R247). -/
  | cmple (t : BitVec 6) (d : BitVec 5) (a : BitVec 5) (b : BitVec 5) (y : BitVec 3)
  /-- Compares A with a sign-extended immediate for equality (R247). -/
  | cmpeqi (t : BitVec 6) (d : BitVec 5) (a : BitVec 5) (i : BitVec 8)
  /-- Compares A signed less than a sign-extended immediate (R247). -/
  | cmplti (t : BitVec 6) (d : BitVec 5) (a : BitVec 5) (i : BitVec 8)
  /-- Floating-point addition rounded by RM (R248). -/
  | fadd (t : BitVec 6) (d : BitVec 5) (a : BitVec 5) (b : BitVec 5) (y : BitVec 3)
  /-- Floating-point subtraction rounded by RM (R248). -/
  | fsub (t : BitVec 6) (d : BitVec 5) (a : BitVec 5) (b : BitVec 5) (y : BitVec 3)
  /-- Floating-point multiplication rounded by RM (R248). -/
  | fmul (t : BitVec 6) (d : BitVec 5) (a : BitVec 5) (b : BitVec 5) (y : BitVec 3)
  /-- Fused multiply-add A times B plus D with one rounding (R248). -/
  | ffma (t : BitVec 6) (d : BitVec 5) (a : BitVec 5) (b : BitVec 5) (y : BitVec 3)
  /-- Fused D minus A times B with one rounding (R248). -/
  | ffms (t : BitVec 6) (d : BitVec 5) (a : BitVec 5) (b : BitVec 5) (y : BitVec 3)
  /-- Writes the smaller float operand (R249). -/
  | fmin (t : BitVec 6) (d : BitVec 5) (a : BitVec 5) (b : BitVec 5) (y : BitVec 3)
  /-- Writes the larger float operand (R249). -/
  | fmax (t : BitVec 6) (d : BitVec 5) (a : BitVec 5) (b : BitVec 5) (y : BitVec 3)
  /-- Clears the sign bit (R248). -/
  | fabs (t : BitVec 6) (d : BitVec 5) (a : BitVec 5) (y : BitVec 3)
  /-- Inverts the sign bit (R248). -/
  | fneg (t : BitVec 6) (d : BitVec 5) (a : BitVec 5) (y : BitVec 3)
  /-- Float compare for equality (R249). -/
  | fcmpeq (t : BitVec 6) (d : BitVec 5) (a : BitVec 5) (b : BitVec 5) (y : BitVec 3)
  /-- Float compare less than (R249). -/
  | fcmplt (t : BitVec 6) (d : BitVec 5) (a : BitVec 5) (b : BitVec 5) (y : BitVec 3)
  /-- Float compare less than or equal (R249). -/
  | fcmple (t : BitVec 6) (d : BitVec 5) (a : BitVec 5) (b : BitVec 5) (y : BitVec 3)
  /-- Float compare unordered (R249). -/
  | fcmpun (t : BitVec 6) (d : BitVec 5) (a : BitVec 5) (b : BitVec 5) (y : BitVec 3)
  /-- Reciprocal estimate rounded to a 12-bit significand (R197). -/
  | frcpe (t : BitVec 6) (d : BitVec 5) (a : BitVec 5) (y : BitVec 3)
  /-- Reciprocal square root estimate (R197). -/
  | frsqe (t : BitVec 6) (d : BitVec 5) (a : BitVec 5) (y : BitVec 3)
  /-- Base-2 exponential estimate (R197). -/
  | fexp2 (t : BitVec 6) (d : BitVec 5) (a : BitVec 5) (y : BitVec 3)
  /-- Base-2 logarithm estimate (R197). -/
  | flog2 (t : BitVec 6) (d : BitVec 5) (a : BitVec 5) (y : BitVec 3)
  /-- Correctly rounded floating-point division (R248). -/
  | fdiv (t : BitVec 6) (d : BitVec 5) (a : BitVec 5) (b : BitVec 5) (y : BitVec 3)
  /-- Correctly rounded square root (R248). -/
  | fsqrt (t : BitVec 6) (d : BitVec 5) (a : BitVec 5) (y : BitVec 3)
  /-- Rounds A to an integral value by RM (R250). -/
  | frnd (t : BitVec 6) (d : BitVec 5) (a : BitVec 5) (y : BitVec 3)
  /-- Writes a one-hot class code per element (R250). -/
  | fclass (t : BitVec 6) (d : BitVec 5) (a : BitVec 5) (y : BitVec 3)
  /-- Scales A by two to the power of B (R250). -/
  | fscl (t : BitVec 6) (d : BitVec 5) (a : BitVec 5) (b : BitVec 5) (y : BitVec 3)
  /-- Converts between types with the rounding rules of R195 (R251). -/
  | cvt (t : BitVec 6) (d : BitVec 5) (a : BitVec 5) (c : BitVec 3) (y : BitVec 3)
  /-- Converts between types with saturation (R251). -/
  | cvts (t : BitVec 6) (d : BitVec 5) (a : BitVec 5) (c : BitVec 3) (y : BitVec 3)
  /-- Packs element 0 of A and B lanes into packed lanes (R252). -/
  | pack (t : BitVec 6) (d : BitVec 5) (a : BitVec 5) (b : BitVec 5) (y : BitVec 3)
  /-- Unpacks the low half of packed lanes (R252). -/
  | unpkl (t : BitVec 6) (d : BitVec 5) (a : BitVec 5) (y : BitVec 3)
  /-- Unpacks the high half of packed lanes (R252). -/
  | unpkh (t : BitVec 6) (d : BitVec 5) (a : BitVec 5) (y : BitVec 3)
  /-- Quantises FP32 lanes to INT8a codes (R253). -/
  | qnt (t : BitVec 6) (d : BitVec 5) (a : BitVec 5) (b : BitVec 5) (y : BitVec 3)
  /-- Dequantises codes to FP32 (R253). -/
  | deq (t : BitVec 6) (d : BitVec 5) (a : BitVec 5) (b : BitVec 5) (y : BitVec 3)
  /-- Adds a four-byte code dot product to D (R253). -/
  | qdot (t : BitVec 6) (d : BitVec 5) (a : BitVec 5) (b : BitVec 5) (y : BitVec 3)
  /-- Derives a scale lane from a minimum and maximum (R253). -/
  | scld (t : BitVec 6) (d : BitVec 5) (a : BitVec 5) (b : BitVec 5) (y : BitVec 3)
  /-- Broadcasts one lane of A to every lane (R254). -/
  | bcast (t : BitVec 6) (d : BitVec 5) (a : BitVec 5) (b : BitVec 5) (y : BitVec 3)
  /-- Permutes lanes of A by indices in B (R254). -/
  | perm (t : BitVec 6) (d : BitVec 5) (a : BitVec 5) (b : BitVec 5) (y : BitVec 3)
  /-- Rotates lanes of A by an immediate (R254). -/
  | lrot (t : BitVec 6) (d : BitVec 5) (a : BitVec 5) (i : BitVec 8)
  /-- Sums valid elements in a pairwise tree (R255). -/
  | rsum (t : BitVec 6) (d : BitVec 5) (a : BitVec 5) (y : BitVec 3)
  /-- Maximum of valid elements by tree (R255). -/
  | rmax (t : BitVec 6) (d : BitVec 5) (a : BitVec 5) (y : BitVec 3)
  /-- Minimum of valid elements by tree (R255). -/
  | rmin (t : BitVec 6) (d : BitVec 5) (a : BitVec 5) (y : BitVec 3)
  /-- Left-to-right prefix sum of valid elements (R255). -/
  | scan (t : BitVec 6) (d : BitVec 5) (a : BitVec 5) (y : BitVec 3)
  /-- Moves valid lanes or pairs to the low positions (R256). -/
  | filter (t : BitVec 6) (d : BitVec 5) (a : BitVec 5) (y : BitVec 3)
  /-- Repacks valid lanes into full tokens across token boundaries (R257). -/
  | coal (t : BitVec 6) (d : BitVec 5) (a : BitVec 5) (y : BitVec 3)
  /-- Writes the VMASK of A's head (R258). -/
  | mskg (t : BitVec 6) (d : BitVec 5) (a : BitVec 5) (y : BitVec 3)
  /-- Moves A keeping only lanes that B allows (R258). -/
  | msks (t : BitVec 6) (d : BitVec 5) (a : BitVec 5) (b : BitVec 5) (y : BitVec 3)
  /-- Writes each lane's index (R254). -/
  | laneid (t : BitVec 6) (d : BitVec 5) (y : BitVec 3)
  /-- Inserts lane 0 of A into lane n of D (R254). -/
  | insl (t : BitVec 6) (d : BitVec 5) (a : BitVec 5) (i : BitVec 8)
  /-- Extracts lane n of A to every lane or a scalar (R254). -/
  | extl (t : BitVec 6) (d : BitVec 5) (a : BitVec 5) (i : BitVec 8)
  /-- ORs a mask into the predicates (R259). -/
  | pset (t : BitVec 6) (m : BitVec 8)
  /-- Clears predicates named by a mask (R259). -/
  | pclr (t : BitVec 6) (m : BitVec 8)
  /-- Inverts predicates named by a mask (R259). -/
  | pflip (t : BitVec 6) (m : BitVec 8)
  /-- Sets a predicate when A is non-zero (R259). -/
  | ptest (t : BitVec 6) (p : BitVec 3) (a : BitVec 5)
  /-- Sets a predicate when any valid lane of A is non-zero (R259). -/
  | pany (t : BitVec 6) (p : BitVec 3) (a : BitVec 5)
  /-- Sets a predicate when every valid lane of A is non-zero (R259). -/
  | pall (t : BitVec 6) (p : BitVec 3) (a : BitVec 5)
  /-- Writes the predicates into D (R260). -/
  | pmovRead (t : BitVec 6) (d : BitVec 5)
  /-- Loads the predicates from A (R260). -/
  | pmovWrite (t : BitVec 6) (a : BitVec 5)
  /-- Copies a header into a scalar (R264). -/
  | hdr (t : BitVec 6) (d : BitVec 5) (a : BitVec 5)
  /-- Copies a header with T replaced (R264). -/
  | hdrt (t : BitVec 6) (d : BitVec 5) (a : BitVec 5) (b : BitVec 5)
  /-- Copies a header with VMASK replaced (R264). -/
  | hdrm (t : BitVec 6) (d : BitVec 5) (a : BitVec 5) (b : BitVec 5)
  /-- Copies a header with END replaced (R264). -/
  | hdre (t : BitVec 6) (d : BitVec 5) (a : BitVec 5) (b : BitVec 5)
  /-- Copies a header with FMT and KIND replaced (R264). -/
  | hdrf (t : BitVec 6) (d : BitVec 5) (a : BitVec 5) (b : BitVec 5)
  /-- Copies a header with CTX replaced (R264). -/
  | hdrc (t : BitVec 6) (d : BitVec 5) (a : BitVec 5) (b : BitVec 5)
  /-- Writes the stream time of a head (R265). -/
  | time (t : BitVec 6) (d : BitVec 5) (a : BitVec 5) (y : BitVec 3)
  /-- Writes the END of a head (R265). -/
  | endr (t : BitVec 6) (d : BitVec 5) (a : BitVec 5)
  /-- Fires a token with header from B and payload from A (R266). -/
  | emit (t : BitVec 6) (d : BitVec 5) (a : BitVec 5) (b : BitVec 5)
  /-- Discards a head's payload, passing on any end (R267). -/
  | drop (t : BitVec 6) (d : BitVec 5) (a : BitVec 5)
  /-- Splits a head's lanes between two ports (R268). -/
  | steer (t : BitVec 6) (d : BitVec 5) (a : BitVec 5) (b : BitVec 5)
  /-- Sends a COORD head to the owner of its key (R269). -/
  | route (t : BitVec 6) (d : BitVec 5) (a : BitVec 5)
  /-- Enters a step-1 demand at the agent's own input (R270). -/
  | dmd (t : BitVec 6) (d : BitVec 5) (a : BitVec 5) (b : BitVec 5)
  /-- Enters a full demand token at an input (R270). -/
  | dmdr (t : BitVec 6) (d : BitVec 5) (a : BitVec 5) (b : BitVec 5)
  /-- Forwards a demand and retires the oldest open HELM demand (R271). -/
  | dmdk (t : BitVec 6) (d : BitVec 5) (a : BitVec 5) (b : BitVec 5)
  /-- Rewrites an input's range-transfer descriptor (R272). -/
  | rtfw (t : BitVec 6) (d : BitVec 5) (a : BitVec 5) (b : BitVec 5)
  /-- Fires a user marker token (R273). -/
  | mark (t : BitVec 6) (d : BitVec 5) (a : BitVec 5) (b : BitVec 5)
  /-- Writes a SEED checkpoint entry at the high-water mark (R274). -/
  | chkp (t : BitVec 6) (a : BitVec 5)
  /-- Loads a checkpoint named by a RELOAD token (R274). -/
  | chkl (t : BitVec 6) (a : BitVec 5)
  /-- Loads from a typed buffer (R275). -/
  | ldb (t : BitVec 6) (d : BitVec 5) (a : BitVec 5) (b : BitVec 5) (s : BitVec 3)
  /-- Stores to a typed buffer (R275). -/
  | stb (t : BitVec 6) (d : BitVec 5) (a : BitVec 5) (b : BitVec 5) (s : BitVec 3)
  /-- Gathers words from a typed buffer into lanes (R275). -/
  | ldbg (t : BitVec 6) (d : BitVec 5) (a : BitVec 5) (b : BitVec 5) (s : BitVec 3)
  /-- Scatters lanes into typed-buffer words (R275). -/
  | stbs (t : BitVec 6) (d : BitVec 5) (a : BitVec 5) (b : BitVec 5) (s : BitVec 3)
  /-- Binds a port as a demand-mode source (R277). -/
  | srd (t : BitVec 6) (d : BitVec 5) (a : BitVec 5)
  /-- Writes a data head's valid lanes through a stream block (R277). -/
  | swr (t : BitVec 6) (a : BitVec 5) (b : BitVec 5)
  /-- Gathers stream elements by index (R278). -/
  | sgath (t : BitVec 6) (d : BitVec 5) (a : BitVec 5) (b : BitVec 5)
  /-- Scatters values to stream elements by index (R278). -/
  | sscat (t : BitVec 6) (a : BitVec 5) (b : BitVec 5)
  /-- Ends a port's source binding with a rank-7 end (R277). -/
  | scls (t : BitVec 6) (d : BitVec 5)
  /-- Atomic wrapping add on a 4-byte word (R280). -/
  | atomAdd (t : BitVec 6) (d : BitVec 5) (a : BitVec 5) (s : BitVec 3)
  /-- Atomic signed minimum on a 4-byte word (R280). -/
  | atomMin (t : BitVec 6) (d : BitVec 5) (a : BitVec 5) (s : BitVec 3)
  /-- Atomic signed maximum on a 4-byte word (R280). -/
  | atomMax (t : BitVec 6) (d : BitVec 5) (a : BitVec 5) (s : BitVec 3)
  /-- Atomic exchange on a 4-byte word (R280). -/
  | atomXchg (t : BitVec 6) (d : BitVec 5) (a : BitVec 5) (s : BitVec 3)
  /-- Atomic AND on a 4-byte word (R280). -/
  | atomAnd (t : BitVec 6) (d : BitVec 5) (a : BitVec 5) (s : BitVec 3)
  /-- Atomic OR on a 4-byte word (R280). -/
  | atomOr (t : BitVec 6) (d : BitVec 5) (a : BitVec 5) (s : BitVec 3)
  /-- Atomic FP32 add rounded by RNE (R280). -/
  | atomFadd (t : BitVec 6) (d : BitVec 5) (a : BitVec 5) (s : BitVec 3)
  /-- Applies each valid COORD pair atomically within the owner range (R280). -/
  | atomPair (t : BitVec 6) (d : BitVec 5) (a : BitVec 3) (b : BitVec 5) (s : BitVec 2)
  /-- Atomic 64-bit add (R280). -/
  | atomrAdd (t : BitVec 6) (d : BitVec 5) (a : BitVec 5) (s : BitVec 3)
  /-- Atomic 64-bit signed minimum (R280). -/
  | atomrMin (t : BitVec 6) (d : BitVec 5) (a : BitVec 5) (s : BitVec 3)
  /-- Atomic 64-bit signed maximum (R280). -/
  | atomrMax (t : BitVec 6) (d : BitVec 5) (a : BitVec 5) (s : BitVec 3)
  /-- Atomic 64-bit exchange (R280). -/
  | atomrXchg (t : BitVec 6) (d : BitVec 5) (a : BitVec 5) (s : BitVec 3)
  /-- Atomic 64-bit AND (R280). -/
  | atomrAnd (t : BitVec 6) (d : BitVec 5) (a : BitVec 5) (s : BitVec 3)
  /-- Atomic 64-bit OR (R280). -/
  | atomrOr (t : BitVec 6) (d : BitVec 5) (a : BitVec 5) (s : BitVec 3)
  /-- Compares and swaps a 4-byte word (R280). -/
  | cas (t : BitVec 6) (d : BitVec 5) (a : BitVec 5) (b : BitVec 5) (s : BitVec 3)
  /-- Clears presence bits over a range (R276). -/
  | empty (t : BitVec 6) (d : BitVec 5) (a : BitVec 5) (b : BitVec 5) (s : BitVec 2)
  /-- Helm load from global memory through the window (R279). -/
  | ldg (t : BitVec 6) (d : BitVec 5) (a : BitVec 5) (b : BitVec 5)
  /-- Helm store to global memory held in the window (R279). -/
  | stg (t : BitVec 6) (d : BitVec 5) (a : BitVec 5) (b : BitVec 5)
  /-- Copies a stream block to a contiguous destination against a barrier (R283). -/
  | cpy (t : BitVec 6) (d : BitVec 5) (a : BitVec 5) (b : BitVec 5) (s : BitVec 2)
  /-- Copies a stream block to another stream block (R283). -/
  | cpys (t : BitVec 6) (d : BitVec 5) (a : BitVec 5) (b : BitVec 5) (s : BitVec 2)
  /-- Copies a typed-buffer range out against a barrier (R283). -/
  | cpyq (t : BitVec 6) (d : BitVec 5) (a : BitVec 5) (b : BitVec 5) (s : BitVec 2)
  /-- Loads a page translation into the translation cache (R279). -/
  | pref (t : BitVec 6) (a : BitVec 5) (b : BitVec 5)
  /-- Waits until earlier accesses have performed for a scope (R171). -/
  | fence (t : BitVec 6) (s : BitVec 3)
  /-- Compares a word and arms a wait released when it differs (R180). -/
  | waitne (t : BitVec 6) (d : BitVec 5) (a : BitVec 5) (b : BitVec 5) (s : BitVec 3)
  /-- Initialises a barrier object (R285). -/
  | bari (t : BitVec 6) (d : BitVec 5) (a : BitVec 5) (s : BitVec 2)
  /-- Records one arrival at a barrier (R285). -/
  | bara (t : BitVec 6) (d : BitVec 5) (s : BitVec 2)
  /-- Sets a barrier's EXPECT (R285). -/
  | barx (t : BitVec 6) (d : BitVec 5) (a : BitVec 5) (s : BitVec 2)
  /-- Waits until a barrier's phase differs (R285). -/
  | barw (t : BitVec 6) (d : BitVec 5) (a : BitVec 5) (s : BitVec 2)
  /-- Tests a barrier's phase without waiting (R285). -/
  | bart (t : BitVec 6) (d : BitVec 5) (a : BitVec 5) (b : BitVec 5) (s : BitVec 2)
  /-- Fires an MMA matrix command token (R291). -/
  | mmcmd (t : BitVec 6) (d : BitVec 5) (a : BitVec 5) (b : BitVec 5)
  /-- Fires an accumulator-read command token (R293). -/
  | accrd (t : BitVec 6) (d : BitVec 5) (a : BitVec 5)
  /-- Fires an accumulator-clear command token (R294). -/
  | accclr (t : BitVec 6) (d : BitVec 5) (a : BitVec 5)
  /-- Leaves matrix mode once the command queue drains (R296). -/
  | mxmodeLeave (t : BitVec 6)
  /-- Enters matrix mode once the region is quiet (R296). -/
  | mxmodeEnter (t : BitVec 6)
  /-- Cuts one tile in ROWS mode (R299). -/
  | cutRows (t : BitVec 6) (d : BitVec 5) (a : BitVec 5) (b : BitVec 5)
  /-- Cuts one tile in COLS mode (R299). -/
  | cutCols (t : BitVec 6) (d : BitVec 5) (a : BitVec 5) (b : BitVec 5)
  /-- Cuts one tile in CONTRACT mode (R299). -/
  | cutContract (t : BitVec 6) (d : BitVec 5) (a : BitVec 5) (b : BitVec 5)
  /-- Reads a cutter bound register after earlier cuts (R301). -/
  | cutb (t : BitVec 6) (d : BitVec 5) (s : BitVec 13)
  /-- Runs the next cut of the continuation (R302). -/
  | cutr (t : BitVec 6) (d : BitVec 5) (a : BitVec 5)
  /-- Loads and checks a sparse matrix header into a cutter slot (R298). -/
  | sphdr (t : BitVec 6) (d : BitVec 5) (a : BitVec 5) (b : BitVec 5)
  /-- Appends one position to a sequence (R151). -/
  | kvapp (t : BitVec 6) (d : BitVec 5) (a : BitVec 5)
  /-- Seals the unsealed tail block (R306). -/
  | kvseal (t : BitVec 6) (d : BitVec 5) (a : BitVec 5)
  /-- Forks a child sequence sharing sealed blocks (R307). -/
  | kvfork (t : BitVec 6) (d : BitVec 5) (a : BitVec 5) (b : BitVec 5)
  /-- Retires a span's blocks and sets NEXT to HWM (R308). -/
  | retspanKeep (t : BitVec 6) (d : BitVec 5) (g : BitVec 3)
  /-- Retires a span's blocks and rewinds NEXT to the lowest retired position (R308). -/
  | retspanRewind (t : BitVec 6) (d : BitVec 5) (g : BitVec 3)
  /-- Returns the attention mask of a block for a query (R309). -/
  | kvmask (t : BitVec 6) (d : BitVec 5) (a : BitVec 5) (b : BitVec 5)
  /-- Translates a position into a slot record along the chain (R311). -/
  | kvlook (t : BitVec 6) (d : BitVec 5) (a : BitVec 5) (b : BitVec 5)
  /-- Sets CTAG, sealing the tail if its tag differs (R306). -/
  | kvtag (t : BitVec 6) (d : BitVec 5) (g : BitVec 3)
  /-- Writes a parent table entry (R310). -/
  | kvpar (t : BitVec 6) (d : BitVec 5) (a : BitVec 5) (b : BitVec 5)
  /-- Emits or forwards a ring-attention RING token (R313). -/
  | ring (t : BitVec 6) (d : BitVec 5) (a : BitVec 5)
  /-- Returns the record of one block-table entry (R312). -/
  | kvnext (t : BitVec 6) (d : BitVec 5) (a : BitVec 5) (b : BitVec 5)
  /-- Branches by a signed word offset (R316). -/
  | br (t : BitVec 6) (o : BitVec 18)
  /-- Saves the return PC in s7 and branches (R316). -/
  | call (t : BitVec 6) (o : BitVec 18)
  /-- Jumps to the PC held in a scalar (R316). -/
  | ret (t : BitVec 6) (a : BitVec 5)
  /-- Returns from a trap, restoring PC and IE (R319). -/
  | retZ (t : BitVec 6)
  /-- Decrements a counter and branches while non-zero (R317). -/
  | loop (t : BitVec 6) (d : BitVec 5) (i : BitVec 8)
  /-- Stops the helm core once its accesses, copies and queues drain (R318). -/
  | halt (t : BitVec 6)
  /-- Waits for an event and writes the event set (R318). -/
  | yield (t : BitVec 6) (d : BitVec 5)
  /-- Sends a message, waiting for a free place (R322). -/
  | sendm (t : BitVec 6) (a : BitVec 5) (b : BitVec 5)
  /-- Tries to send a message and reports the outcome (R322). -/
  | sendmt (t : BitVec 6) (d : BitVec 5) (a : BitVec 5) (b : BitVec 5)
  /-- Waits for and takes the oldest message (R322). -/
  | recvm (t : BitVec 6) (d : BitVec 5)
  /-- Takes a recoverable trap or fabric fault with a code (R320). -/
  | trap (t : BitVec 6) (c : BitVec 13)
  /-- Headwater service returning its argument (R321). -/
  | syscEcho (t : BitVec 6) (d : BitVec 5)
  /-- Asks for an early SNAP cut (R321). -/
  | syscSnap (t : BitVec 6) (d : BitVec 5)
  /-- Appends a user entry to the sediment record (R321). -/
  | syscSediment (t : BitVec 6) (d : BitVec 5)
  /-- Returns the number of waiting launches in a queue (R321). -/
  | syscQdepth (t : BitVec 6) (d : BitVec 5)
  /-- A service code 4 or above returns all ones (R321). -/
  | syscUnassigned (t : BitVec 6) (d : BitVec 5) (code : BitVec 13)
  /-- Reads a system register into a scalar (R324). -/
  | csrr (t : BitVec 6) (d : BitVec 5) (s : BitVec 13)
  /-- Writes a system register from a scalar (R324). -/
  | csrw (t : BitVec 6) (d : BitVec 5) (s : BitVec 13)
  /-- Reloads the region from one section once quiescent (R329). -/
  | cfgld (t : BitVec 6) (d : BitVec 5) (a : BitVec 5) (b : BitVec 5)
  /-- Saves an element context to the A-buffer (R330). -/
  | ctxsv (t : BitVec 6) (a : BitVec 5) (b : BitVec 5)
  /-- Restores an element context from the A-buffer (R330). -/
  | ctxrs (t : BitVec 6) (a : BitVec 5) (b : BitVec 5)
  /-- Queues a device launch from a record in memory (R331). -/
  | launch (t : BitVec 6) (d : BitVec 5) (a : BitVec 5)
  /-- Waits until a fence reaches a value (R332). -/
  | fwait (t : BitVec 6) (d : BitVec 5) (a : BitVec 5) (b : BitVec 5)
  /-- Raises a fence outside the window and logs it (R333). -/
  | fsig (t : BitVec 6) (a : BitVec 5) (b : BitVec 5)
  /-- Reads a counter of the region (R334). -/
  | perfrd (t : BitVec 6) (d : BitVec 5) (s : BitVec 13)
  /-- Appends a USER record to the wake ring (R335). -/
  | trace (t : BitVec 6) (d : BitVec 5) (c : BitVec 13)
  /-- Completes and stops the region with a BREAK trap (R320). -/
  | brk (t : BitVec 6) (c : BitVec 13)
  /-- Migration point where the core parks if a request is posted (R336). -/
  | migr (t : BitVec 6) (d : BitVec 5)
  /-- Arms the helm timer with a cycle count (R337). -/
  | timerArm (t : BitVec 6) (d : BitVec 5)
  /-- Returns the timer's remaining cycles (R337). -/
  | timerRead (t : BitVec 6) (d : BitVec 5)
  /-- Disarms the timer and clears IPTIM (R337). -/
  | timerDisarm (t : BitVec 6) (d : BitVec 5)
  /-- Returns the part code (R338). -/
  | idrdPartCode (t : BitVec 6) (d : BitVec 5)
  /-- Returns the stepping (R338). -/
  | idrdStepping (t : BitVec 6) (d : BitVec 5)
  /-- Returns the physical reach and region of the agent (R338). -/
  | idrdPhysicalPosition (t : BitVec 6) (d : BitVec 5)
  /-- Returns the logical id of the region's helm core (R338). -/
  | idrdLogicalId (t : BitVec 6) (d : BitVec 5)
  /-- Returns the partition (R338). -/
  | idrdPartition (t : BitVec 6) (d : BitVec 5)
  /-- Returns the spare map of the reach (R338). -/
  | idrdSpareMap (t : BitVec 6) (d : BitVec 5)
  /-- Returns the low 64 bits of the package serial number (R338). -/
  | idrdSerialLow (t : BitVec 6) (d : BitVec 5)
  /-- Returns the high 64 bits of the package serial number (R338). -/
  | idrdSerialHigh (t : BitVec 6) (d : BitVec 5)
  /-- A helm core reaches a word that no instruction defines and takes a static-fault trap even when its trigger does not hold (R387). -/
  | undefinedWord (w : BitVec 32)
  /-- A helm fetch at a PC below 512, at or above TEXTEND, or not a multiple of 4 takes the FETCH trap without decoding the word (R388). -/
  | fetchFault
  /-- A helm core takes a delivered trap or interrupt at a boundary (R319). -/
  | trapEntry (r : Nat)
  /-- A packet asking for RUDI or UUD is discarded and counted (R15). -/
  | packetDiscard (port : BitVec 4)
  /-- A trimmed packet triggers a retransmission request for its payload (R15). -/
  | packetTrim (port : BitVec 4)
  /-- A message to an address no partition owns is discarded and counted (R16). -/
  | messageNoEndpoint (m : Msg)
  /-- A first message that is not HELLO is discarded, FEATREF written, connection closed (R21). -/
  | firstMessageNotHello (m : Msg)
  /-- Negotiates features and sets the completion ring and data area (R28). -/
  | helloSetup (m : Msg)
  /-- Returns completion ring entries to the device (R28). -/
  | helloCredit (m : Msg)
  /-- Checks a launch record and queues the launch (R90). -/
  | launchMessage (m : Msg)
  /-- Enters host demand at a sink of a live launch (R63). -/
  | request (m : Msg)
  /-- Reads a fence counter at its base die (R30). -/
  | fenceRead (m : Msg)
  /-- Raises a fence counter and appends a fence log entry (R30). -/
  | fenceRaise (m : Msg)
  /-- Arms a host wait that completes when the fence reaches a value (R30). -/
  | fenceWait (m : Msg)
  /-- Maps pages with given attributes, all or nothing (R31). -/
  | mapPages (m : Msg)
  /-- Clears V in a range of leaves (R31). -/
  | mapUnmap (m : Msg)
  /-- Sets the partition's access-counter threshold (R31). -/
  | mapThreshold (m : Msg)
  /-- Raises the pin counts of the pages of a range (R32). -/
  | pin (m : Msg)
  /-- Lowers the pin counts of the pages of a range (R32). -/
  | unpin (m : Msg)
  /-- Reads the cleartext part of a dredge image (R428). -/
  | dumpreadCleartext (m : Msg)
  /-- Reads a decrypted, tag-checked dredge image body (R428). -/
  | dumpreadBody (m : Msg)
  /-- Reads the filtered sediment record (R428). -/
  | dumpreadSediment (m : Msg)
  /-- Reads a frozen wake ring (R428). -/
  | dumpreadWakeRing (m : Msg)
  /-- Frees a dredge directory entry and ends HOLD (R427). -/
  | dumpreadRelease (m : Msg)
  /-- Writes a summary of device state to host memory (R435). -/
  | resync (m : Msg)
  /-- Writes a signed attestation report into the data area (R25). -/
  | attest (m : Msg)
  /-- Writes a piece of a firmware image into the inactive slot (R33). -/
  | updatePiece (m : Msg)
  /-- Verifies a complete firmware image for takeover (R33). -/
  | updateCommit (m : Msg)
  /-- Discards the open update and invalidates the slot (R33). -/
  | updateAbort (m : Msg)
  /-- A verified image takes over when the headwater is between commands (R26). -/
  | firmwareSwitch
  /-- Creates a partition with regions, ranges, areas and endpoints (R34). -/
  | partctlCreate (m : Msg)
  /-- Replaces a partition's regions and HBM ranges (R34). -/
  | partctlResize (m : Msg)
  /-- Deletes an idle partition (R34). -/
  | partctlDelete (m : Msg)
  /-- Requests a reset of a partition (R34). -/
  | partctlReset (m : Msg)
  /-- Maps a logical region onto a spare region of its reach (R27). -/
  | partctlSpareRemap (m : Msg)
  /-- The Levee verifies and starts a firmware image from ROM (R24). -/
  | powerOn
  /-- On a power-fail warning the sediment record is written to non-volatile store (R431). -/
  | powerwarn
  /-- A port goes down after failed retries or loss of lock (R439). -/
  | linkdown (port : BitVec 4)
  /-- A downed port comes back (R439). -/
  | linkup (port : BitVec 4)
  /-- A chain's port stays down 100 ms and the graph ends (R439). -/
  | chaindownTimeout (port : BitVec 4) (l : Nat)
  /-- A dispatchable queue head whose fences are met is placed and started (R93). -/
  | launchDispatch
  /-- After the load completes, every helm core starts at HENTRY in one cycle (R104). -/
  | helmStart (l : Nat)
  /-- A head with no free regions picks a lower-priority victim and injects EBB markers (R113). -/
  | preempt (part : BitVec 5)
  /-- A graph quiescent behind a translation fault for 100 µs is pre-empted (R378). -/
  | quiescentPreempt (l : Nat)
  /-- The headwater posts a migration request to a persistent graph (R117). -/
  | migrationRequest (l : Nat)
  /-- When every helm core has parked, EBB markers are injected (R117). -/
  | migrationCut (l : Nat)
  /-- A request not honoured within 1 ms is withdrawn (R117). -/
  | migrationTimeout (l : Nat)
  /-- A pre-empted launch is re-placed and restored from its complete slot (R116). -/
  | launchRestore (l : Nat)
  /-- When all helm cores have halted, the closing SNAP commits, the fence is raised and the completion written (R94). -/
  | launchEnd (l : Nat)
  /-- A count reaching SNAPN or an early threshold posts a SNAP cut to every source (R109). -/
  | snapCutPost (l : Nat)
  /-- An element saves all contexts once markers have arrived on its non-back inputs (R110). -/
  | elementSave (r e : Nat)
  /-- A helm core saves at an instruction boundary during a cut (R110). -/
  | helmSave (r : Nat)
  /-- A source injects its cut marker at its next token boundary (R358). -/
  | sourceMarkerInject (at_ : At)
  /-- A cut completes, trailers are written and the window commits or regions free (R112). -/
  | cutComplete (l : Nat)
  /-- A base die applies a committed window's lines as one step (R133). -/
  | windowApply (stack : BitVec 3) (l : Nat)
  /-- An uncorrectable error while a cut writes its slot abandons the cut (R379). -/
  | saveAbort (l : Nat) (pa : BitVec 40)
  /-- A token arrives at an element and joins its pair's queue (R68). -/
  | tokenArrival (at_ : At)
  /-- An output queue sends one token under credit (R71). -/
  | tokenSend (at_ : At)
  /-- A converted token returns to its pair in its original place (R81). -/
  | conversionReturn (at_ : At)
  /-- A multi-cycle operation writes its results and releases its context (R244). -/
  | operationComplete (r e c : Nat)
  /-- A demand arriving at a node output is extended, mapped, reduced and forwarded (R53). -/
  | demandArrival (at_ : At)
  /-- A held demand piece is forwarded when a pending entry frees (R55). -/
  | demandHeldRelease (at_ : At)
  /-- A source's reads complete and it emits a packed token (R65). -/
  | streamReadComplete (at_ : At)
  /-- A link adder pairs a local and incoming partial and forwards the sum (R103). -/
  | chainHopAdd (l chain hop : Nat)
  /-- The matrix node executes an MMA command (R292). -/
  | matrixMma (r : Nat)
  /-- The matrix node drains accumulators to the C-buffer (R293). -/
  | matrixAccrd (r : Nat)
  /-- After the drain performs, the node fires its response token (R293). -/
  | accrdResponse (r : Nat)
  /-- The matrix node clears accumulators and sticky flags (R294). -/
  | matrixAccclr (r : Nat)
  /-- A cut marker at the command queue saves the accumulators (R297). -/
  | matrixMarkerSave (r : Nat)
  /-- A copy completes and subtracts its bytes from its barrier's PEND (R175). -/
  | copyComplete (r k : Nat)
  /-- A waking bank finishes its 2 µs wake-up and self-test (R123). -/
  | bankWakeEnd (r bank : Nat) (ok : Bool)
  /-- A write of the bank gate mask gates or wakes banks (R123). -/
  | bgateWrite (r : Nat) (v : BitVec 64)
  /-- Writing STOP stops or resumes the region (R209). -/
  | obsctlStopWrite (r : Nat) (stop : Bool)
  /-- Writing PREC sets or clears precise mode in every region of the graph (R212). -/
  | obsctlPrecWrite (r : Nat) (prec : Bool)
  /-- Writing SPER sets the sample period (R209). -/
  | obsctlSperWrite (r : Nat) (sper : BitVec 8)
  /-- Writing a breakpoint word arms it and restarts its count (R209). -/
  | obsbkWrite (r : Nat) (k : BitVec 2) (v : BitVec 64)
  /-- A write to hs.still thaws a hung region (R398). -/
  | stillWrite (r : Nat) (v : BitVec 64)
  /-- A write to a matrix operand register waits until the command queue drains (R324). -/
  | mxregWrite (r : Nat) (k : BitVec 2) (v : BitVec 64)
  /-- A write to a system register with no behaviour of its own (R324). -/
  | registerWrite (r : Nat) (sel : BitVec 13) (v : BitVec 64)
  /-- A CONS write resets the counters of consumed granules (R143). -/
  | noticeConsWrite (part : BitVec 5) (v : BitVec 64)
  /-- A breakpoint match or BRK stops the region and raises BREAK (R210). -/
  | regionStop (r : Nat) (src : BitVec 3) (arg : BitVec 13) (e c slot : Nat)
  /-- A periodic sample of one element's class is written to the wake ring (R211). -/
  | sample (r : Nat)
  /-- Every 4,096 cycles the reweighter rewrites the wheel (R106). -/
  | wheelRewrite (r : Nat)
  /-- Every 50 µs the stage governor steps, holds or lowers the clock, by the cycles classed BOUT and WOPD that it has
  counted and the temperature it reads (R107). -/
  | governorDecision (r bout wopd : Nat) (temp : BitVec 8)
  /-- A migration request is posted again 10 ms later if still hot (R380). -/
  | thermalRepost (l : Nat)
  /-- The helm timer expires and sets IPTIM (R337). -/
  | helmTimerExpiry (r : Nat)
  /-- An element fault rolls the graph back to its last complete cut (R370). -/
  | rollback (l : Nat)
  /-- In the precise re-run the recurring fault stops its region and traps the helm core (R371). -/
  | rerunFaultStop (l r : Nat)
  /-- A fatal fault stops the graph, takes the dredge, frees regions and fails the launch (R376). -/
  | fatalEnd (l : Nat)
  /-- The dredge finishes writing its image and the regions are freed (R421). -/
  | dredgeComplete (l : Nat)
  /-- The idle count reaches LIMIT and the region freezes with a HANG trap (R398). -/
  | stillwaterHang (r : Nat)
  /-- An unthawed or repeated hang escalates to a partition reset (R399). -/
  | hangesc (r : Nat)
  /-- After 100 µs at SENDM the headwater finds a send cycle and aborts one send (R400). -/
  | sendring (r : Nat)
  /-- A configuration-store error is corrected, or freezes the region for reload (R402). -/
  | cfgStoreError (r : Nat) (corrected : Bool) (off : BitVec 64)
  /-- A reloaded section is checked against SIG and the region resumes or the graph ends (R402). -/
  | cfgReloadComplete (r : Nat)
  /-- A failing region is cut and remapped onto a spare or taken offline (R403). -/
  | retire (r : Nat)
  /-- An uncorrectable HBM error poisons the line or sector (R410). -/
  | hbmue (kind : BitVec 2) (pa : BitVec 40)
  /-- The base die scrubs every line of its stack every 24 hours (R411). -/
  | hbmScrub (pa : BitVec 40) (corrected : Bool)
  /-- A row's copy into a spare completes and it is remapped (R411). -/
  | rowspare (pa : BitVec 40)
  /-- A pseudo-channel's copy onto a spare completes, or it goes offline (R412). -/
  | pcspare (stack : BitVec 3) (pc : BitVec 7)
  /-- A host connection fails, and the completions that were due on it are then kept per partition, up to 1,024, for the partition's next connection (R438). -/
  | connectionFailure (conn : Nat)
  /-- A message whose TYPE lies outside the table is completed with BADMSG (R18). -/
  | unknownMessageType (m : Msg)
  deriving DecidableEq, Repr

end Sys2Proof
end

