-- ==== Sys2Proof/Config.lean ====
section
/-!
DEFINITION. What one device or its surroundings fix and the manual leaves open. Every constant here is opaque: it has
no body, so no proof can depend on the value. (The log entries named in the docstrings say what each stands for.)
-/

namespace Sys2Proof

/-- What goes wrong, or right again, in the device's own parts, and shows only later (R413, R431, R436, R439; log 73): a row of a
typed buffer takes an uncorrectable error; an entry of a journal takes one; a non-volatile copy of the sediment record takes one;
a port's link-level retry fails once more, or its flit gets through; a port that is down is disabled, or enabled again. -/
inductive Trouble where
  | row (r space row : Nat)
  | journal (r entry : Nat)
  | copy (k : Bool)
  | retry (port : Nat) (through : Bool)
  | disable (port : Nat) (off : Bool)
  deriving DecidableEq, Repr, Inhabited

/-- Who moves next: a helm core, an element, a region's clock, device time, one of the events and messages of the
opcode table, or what goes wrong unseen. The manual orders these only where a rule says so; the order is an input of the machine (log 2). -/
inductive Turn where
  | helm (r : Nat)
  | elem (r e : Nat)
  | tick (r : Nat)
  | pass (ns : Nat)
  | event (i : Instr)
  | trouble (x : Trouble)
  deriving DecidableEq, Repr, Inhabited

namespace Config

/-- The turn taken when no turn is listed, by a fresh number (log 2). -/
opaque turn : Nat → Turn

/-- The stepping that IDRD 1 reads (R338; log 4). -/
opaque stepping : Byte

/-- The package serial number that IDRD 6 and 7 read (R338; log 4). -/
opaque serial : BitVec 128

/-- The pseudo-channel of a stack that holds a 64-byte line (R404, R411, R412; log 29). -/
opaque pcOf : Nat → BitVec 7

/-- The row of a 64-byte line of HBM, by a number of its own, and the bank of a row (R411, R412; log 29). -/
opaque rowOf : Nat → Nat

/-- The bank of a row of HBM (R411; log 29). -/
opaque rowBank : Nat → Nat

/-- SHA-512 of a run of bytes, bit 0 of the first byte lowest (R24, R98; log 9). -/
opaque sha512 : List Byte → BitVec 512

/-- Whether a firmware image passes the Levee's RSA-4096 check (R24; log 9). -/
opaque fwVerify : List Byte → Bool

/-- The 512-byte RSASSA-PSS signature the Levee's identity key makes over a digest, none where it cannot sign (R25, R29, R441;
log 9). -/
opaque sign : List Byte → Option (List Byte)

/-- The encryption of a dump body and its tag under a partition's dump key: partition, key generation, nonce, additional
data and plain bytes (R423; log 9). -/
opaque encrypt : Nat → Nat → Nat → List Byte → List Byte → List Byte × BitVec 128

/-- The decryption of a dump body under a partition's dump key, where its tag agrees: partition, key generation, nonce,
additional data, bytes and tag (R424; log 9). -/
opaque decrypt : Nat → Nat → Nat → List Byte → List Byte → BitVec 128 → Option (List Byte)

/-- The length code, less one, at which a sector that is not all zero is stored (R139; log 14). -/
opaque clen : List Byte → BitVec 3

/-- The bytes at which a sector of given plain bytes is stored compressed, by number (R139, R140; log 14). -/
opaque packed : List Byte → Nat → Byte

/-- The CTX of a closing end that SCLS fires when its port has no pending entry (R277; log 16). -/
opaque closeCtx : Nat → BitVec 4

/-- T (bits 35 to 0) and CTX (bits 39 to 36) of a matrix response token (R293; log 19). -/
opaque respPlace : Nat → BitVec 40

/-- Lane 1 of the slot record of an append past the last KVLIM of a chain (R159, R305; log 20). -/
opaque noRegion : Nat → BitVec 32

/-- Whether a read that races with a write of the same word returns it as it was before the write (R179). -/
opaque raceOld : Nat → Bool

/-- T of a RELOAD token, which the manual does not state (R61; log 90). -/
opaque reloadT : Nat → BitVec 36

/-- NODE (bits 31 to 0), CTX and SLOT of a SAMPLE record whose class is not FIRE (R211; log 23). -/
opaque samplePlace : Nat → BitVec 41

/-- The 80 bytes that hold a held or queued demand in an element record: pair, LO, HI, STEP, CTX, EXT (R115; log 27). -/
opaque heldCode : Nat → Nat → Nat → Nat → Nat → Bool → BitVec 640

/-- The demand that 80 bytes of an element record hold, and whether it is held (R115; log 27). -/
opaque heldDecode : BitVec 640 → Option (Bool × Nat × Nat × Nat × Nat × Nat × Bool)

/-- Whether a word of a buffer restored from an image's bytes is full: image, space, offset (R115; log 28). -/
opaque restoredFull : Nat → Nat → Nat → Bool

/-- The address of the management endpoint (R16; log 5). -/
opaque mgmtAddr : BitVec 128

/-- Whether the check of retained memory passes at a boot (R431; log 5). -/
opaque retained : Nat → Bool

/-- The firmware images in ROM-side slots A and B at power-on (R24; log 5). -/
opaque romImage : Bool → List Byte

end Config
end Sys2Proof
end

