-- ==== Sys2Proof/Machine/State.lean ====
section
/-!
DEFINITION. The state of the device: every piece of state that the manual gives it (INVENTORY.md lists them with their
rules), as plain data, and the state right after reset. Collections by number are sorted association lists in which an
absent number stands for the item's reset value.
-/

namespace Sys2Proof.Machine

/-- Bytes by address: strictly rising addresses, no entry equal to what an unlisted address reads as (0, log 6). -/
abbrev Mem := List Host.Cell

/-- Items by number, numbers strictly rising. -/
abbrev Assoc (α : Type) := List (Nat × α)

/-! ## Demand and channels -/

/-- An entry of a served or pending set (R52). -/
structure Ival where
  lo : Nat
  hi : Nat
  step : Nat
  ctx : Nat
  deriving DecidableEq, Repr

/-- A demand token (R44). -/
structure Demand where
  lo : Nat
  hi : Nat
  step : Nat
  ctx : Nat
  inp : Nat
  ext : Bool
  deriving DecidableEq, Repr

/-- A token in a pair's queue: whether it is away at the conversion node (R81), whether a cut caught it (R111), and
whether it has arrived in the present region cycle, so that no trigger sees it before the next (R71). -/
structure QTok where
  tok : Token
  away : Bool
  caught : Bool
  new : Bool
  deriving DecidableEq, Repr

/-- An input pair: the binding, the descriptor, the queue and the demand state of one channel of one context, or of
the helm core (R47, R52, R68, R99, R110). -/
structure Pair where
  /-- CTX tags bound; 0 means unbound (R99). -/
  ctxset : BitVec 16
  /-- Formats accepted (R81). -/
  fmtmask : Byte
  tstep : Nat
  /-- Group length code of a scaled edge (R186). -/
  gl : BitVec 2
  sink : Bool
  /-- Conversion node: element and channel (R81). -/
  conv : Option (Nat × Nat)
  /-- Named in the BACK record (R110). -/
  back : Bool
  /-- Some destination of the graph names the channel (R109). -/
  fed : Bool
  /-- Range-transfer descriptor (R47). -/
  rtf : BitVec 128
  queue : List QTok
  /-- The marker beside the queue, and the tokens behind it (R110). -/
  marker : Option Token
  /-- The feeders whose marker has arrived. -/
  marked : List At
  behind : List QTok
  /-- Tokens arriving now are caught (R111). -/
  catching : Bool
  served : List Ival
  pending : List Ival
  /-- Pieces held for want of a pending entry (R55). -/
  held : List Demand
  /-- HELM demands: the open one first, then the queued ones (R51, R271). -/
  asked : List Demand
  /-- How many of them have been posted to the helm core (R271). -/
  posted : Nat
  /-- RELOAD tokens to deliver ahead of the first data of an extended range: the range and the checkpoint's time (R61). -/
  reload : List (Ival × Nat)
  /-- The last times consumed of each CTX tag, newest first (R57). -/
  recent : Assoc (List Nat)
  /-- The history registers of each CTX tag: its samples consumed, newest first, a pair of COORD with its index low and its
  value high (R39, R50, R57). -/
  hist : Assoc (List W64)
  /-- The CTX tags whose time-0 sample has been received (R50). -/
  begun : BitVec 16
  /-- Time above the last valid lane that has arrived, and whether a rank-7 end has (R64). -/
  seenTop : Nat
  ended : Bool
  /-- The scale token of each tag's burst and the elements counted in it (R186). -/
  bursts : Assoc (Token × Nat)
  deriving DecidableEq, Repr

/-- A token in an output queue: the copies not yet sent, each with its destination entry (R71, R99), the position of its
end (R395), and whether it was fired in the present region cycle (R71). -/
structure OutTok where
  tok : Token
  copies : List (W64 × Token)
  pos : Nat
  new : Bool
  deriving DecidableEq, Repr

/-- An output port (R66, R99, R257, R277, R395). -/
structure Port where
  /-- 0 data, 1 completion, 2 route. -/
  role : BitVec 2
  /-- TSTEP of its destinations' pairs (R99). -/
  tstep : Nat
  /-- FILTER or COAL writes the port, which then applies no demand filter (R66, R256). -/
  compact : Bool
  dests : List W64
  /-- The times each destination's consumer has asked for (R66). -/
  dset : List (List Ival)
  queue : List OutTok
  /-- COAL's open token (R257). -/
  coal : Option Token
  /-- Position and rank of the last end sent (R395). -/
  lastEnd : Option (Nat × Nat)
  /-- Time above the last valid lane sent. -/
  top : Nat
  /-- The stream parameter block of a bound port (R277). -/
  spb : Option Lanes
  /-- Pending entries of the port as a source, in the order they entered (R65, R277). -/
  pending : List Ival
  /-- Data tokens counted towards SNAPN (R109): of a bound port those its engine has emitted, and those its agent had fired
  before. -/
  count : Nat
  own : Nat
  /-- A marker posted and not yet injected (R109, R358). -/
  post : Option Token
  /-- The engine has injected a cut's marker and waits for its node to save (log 24). -/
  cutHold : Bool
  /-- The binding of the port has ended and its agent has fired nothing there since: its engine goes on injecting the
  cuts' markers (R109, R363; log 24). -/
  ended : Bool
  /-- The queue has sent a token in the present region cycle (R71), and an entry of it has come free by that. -/
  sent : Bool
  freed : Bool
  /-- NODE of the SRD whose completion token is owed when the binding ends (R169, R262). -/
  debt : Option W32
  deriving DecidableEq, Repr

/-! ## Agents -/

/-- The registers of one context or of a helm core (R67, R85). -/
structure Regs where
  v : Vector Lanes 8
  s : Vector W64 8
  p : Byte
  /-- hs.fp (R188). -/
  fp : W64
  deriving DecidableEq, Repr

/-- State class of one CTX tag (R58 to R61, R100): class 0 SL, 1 WIN, 2 CONT, 3 SEED. -/
structure ClassEnt where
  cls : BitVec 3
  param : Nat
  area : Nat
  /-- High-water mark W. -/
  w : Nat
  /-- Checkpoint ring pointer. -/
  ring : Nat
  deriving DecidableEq, Repr

/-- An entry of a MEMR record (R443). -/
structure MemRange where
  lo : Nat
  hi : Nat
  space : BitVec 2
  acc : BitVec 2
  owner : Bool
  fe : Bool
  node : W32
  deriving DecidableEq, Repr

/-- A token to fire on a port: whether the port's demand filter applies to it (R66), the destination entries where they
are not the port's own (R269), and the position of the end of a compacted token, whose lanes have no times of their own
(R256, R395). -/
structure OutReq where
  port : Nat
  tok : Token
  filt : Bool
  dests : Option (List W64)
  pos : Option Nat
  deriving DecidableEq, Repr

/-- What a firing of one context writes: registers, tokens on ports, and a head to append to a port's open COAL token,
with the TSTEP of its channel and whether it holds COORD pairs (R75, R257). -/
structure Fire where
  regs : Regs
  out : List OutReq
  coal : Option (Nat × Token × Nat × Bool)
  deriving DecidableEq, Repr

/-- A fault found in an instruction: cause, argument, hs.tval and the head concerned (R366, R390). -/
structure Trap where
  cause : Nat
  arg : Nat
  tval : W64
  hdr : W64
  deriving DecidableEq, Repr

/-- An operation that has not yet written its results (R71, R244). -/
structure Flight where
  slot : Nat
  fire : Fire
  trap : Option Trap
  deriving DecidableEq, Repr

/-- One element context, or the helm core's one context (R67, R85). -/
structure Node where
  regs : Regs
  /-- Round-robin pointer. -/
  rr : Nat
  slots : Assoc W32
  pairs : Vector Pair 4
  ports : Vector Port 4
  /-- An operation in flight holds the context (R71). -/
  flight : Option Flight
  /-- The slot whose memory operation holds the context while it waits (R262). -/
  held : Option Nat
  /-- An operation has written its results in the present region cycle, at whose start the context was held: its slot, 32
  for a deferred .fe read (R71, R203). -/
  late : Option Nat
  classes : Assoc ClassEnt
  /-- Route table: base, space, port and sixteen destinations (R99, R269). -/
  rbase : W32
  rspace : BitVec 2
  rport : BitVec 2
  routes : List W64
  ranges : List MemRange
  /-- Completion tokens owed (R169). -/
  owed : Nat
  deriving DecidableEq, Repr

/-- One element (R67): contexts, triggers t1 to t62 and 16 counters of 48 bits (R204). -/
structure Elem where
  ctxs : Assoc Node
  trig : Assoc W64
  counters : Assoc Nat
  /-- The cut this element has saved at (R110). -/
  saved : Option Nat
  /-- Class of the last cycle, the context and the slot of its operation (R203, R211), and whether the element has fired in
  the present one (R79). -/
  cls : Nat
  clsCtx : Nat
  clsSlot : Nat
  fired : Bool
  /-- Cycles since the element last fired, and that firing (R401). -/
  idle : Nat
  lastNode : W32
  lastSlot : Nat
  lastCtx : Nat
  deriving DecidableEq, Repr

/-- Who issues an access or stands at a wait. -/
inductive Agent where
  | helm (r : Nat)
  | elem (r e c slot : Nat)
  deriving DecidableEq, Repr

/-- A trap raised for a helm core by its region or the headwater (R319): rank 0 HANG, 1 SENDRING, 2 memory fault,
3 element fault, 4 BREAK. -/
structure Delivered where
  rank : Nat
  cls : Nat
  code : Nat
  arg : Nat
  tval : W64
  deriving DecidableEq, Repr

/-- A copy in flight (R283, R284). -/
structure Copy where
  a : Lanes
  d : Lanes
  dval : W64
  bar : W64
  op : Byte
  sz : BitVec 3
  bytes : Nat
  /-- Words of its source that reads the core has issued before it still wait for (R87, R347; log 92). -/
  waits : List Nat
  /-- It has written, and its bytes are subtracted from PEND once the cut in flight is complete (R284). -/
  done : Bool
  deriving DecidableEq, Repr

/-- A load or atomic that its node has not yet answered (R121, R138, R263), or a request that an engine holds (R377). -/
structure Outstanding where
  word : W32
  addr : W64
  dval : W64
  bval : W64
  /-- Code of the register still to be written. -/
  dst : Nat
  /-- The fault the access met, which is taken at the first use of the register (R405). -/
  failed : Option Trap
  /-- The core's engine holds the request, since it has met a translation fault or stands behind one that has (R377, R406);
  its words by number and virtual address, and the bytes of a store. -/
  queued : Bool
  words : List (Nat × Nat)
  data : List Byte
  deriving DecidableEq, Repr

/-- Why a helm core stands at an instruction: the wait kinds of R401. -/
inductive WaitKind where
  | none | channel | port | msgSend | msgRecv | fenceWait | waitNe | barrier | migr | halt | yield
  | fence | load | copies | mxDrain | quiescent | unit
  deriving DecidableEq, Repr

/-- A helm core (R85, R315 to R327). -/
structure Helm where
  node : Node
  pc : BitVec 20
  textEnd : Nat
  /-- The HELM record's bytes by offset (R102). -/
  text : Mem
  trig : Assoc W64
  status : W64
  cause : W64
  epc : W64
  tval : W64
  trapvec : W64
  /-- LIMIT of hs.still (R325). -/
  stillLimit : W32
  timer : Nat
  armed : Bool
  launches : W32
  lid : Nat
  lids : List W64
  /-- Loaded with a HELM record and started (R104). -/
  running : Bool
  halted : Bool
  saved : Option Nat
  recv : List Lanes
  delivered : List Delivered
  wait : WaitKind
  /-- When the present wait began, and a send that a ring has aborted: when, and its map (R400). -/
  waitSince : Nat
  sendAbort : Option (Nat × Nat)
  outstanding : List Outstanding
  copies : List Copy
  parked : Bool
  migPosted : Bool
  counters : Assoc Nat
  /-- Cycle count of the wake ring, 28 bits (R214). -/
  cycle : Nat
  deriving DecidableEq, Repr

/-! ## Regions -/

/-- One typed buffer (R118, R121): bytes, the words that are full, and poisoned 64-byte rows (R413). -/
structure Buf where
  mem : Mem
  full : List Nat
  poison : List Nat
  deriving DecidableEq, Repr

/-- A journal entry (R136). -/
structure Journal where
  space : Nat
  line : Nat
  old : List Byte
  present : BitVec 16
  /-- The entry has an uncorrectable error (R413). -/
  bad : Bool
  deriving DecidableEq, Repr

/-- What an armed wait or a deferred read waits for. -/
inductive ArmKind where
  | read | atomic | waitNe | barrier | fence
  deriving DecidableEq, Repr

/-- An armed wait or a deferred read at a node (R121, R138, R180, R285, R332). Buffer waits carry their region in
`who`; `space` is 0 W, 1 A, 2 C, 3 global. -/
structure Arm where
  who : Agent
  kind : ArmKind
  space : Nat
  sys : Bool
  addr : Nat
  operand : W64
  word : W32
  dval : W64
  bval : W64
  /-- Words still to be filled, those that wait in the requester for a place at the node, as a wait that has found none does, and the values of those that have been filled, by
  lane or word number. -/
  need : List (Nat × Nat)
  more : List (Nat × Nat)
  got : List (Nat × W32)
  /-- The value that released the wait. -/
  released : Option W64
  deriving DecidableEq, Repr

/-- The cutter's continuation (R302). -/
structure Cont where
  mode : Nat
  budgets : W64
  cursor : W64
  deriving DecidableEq, Repr

/-- One logical region. -/
structure Region where
  elems : Assoc Elem
  helm : Helm
  /-- Launch whose graph is placed here, and its section. -/
  launch : Option Nat
  sect : Nat
  /-- The launch that held the region is over, and what it left stands until the next load (R341, R352, R355, R363). -/
  settled : Bool
  /-- Wheel slots, context counter (R78). -/
  wheel : W64
  nextWheel : Option W64
  ctxCounter : BitVec 4
  /-- Clock code, 0 150 MHz to 6 600 MHz (R10, R101). -/
  clock : BitVec 3
  /-- The governor is fixed, at this clock (R101). -/
  gfix : Bool
  gclk : BitVec 3
  rwoff : Bool
  kvlim : W32
  temperature : Nat
  /-- The Levee has stopped the region's clock, at 105 °C, until the region reads below 90 °C (R380; log 93). -/
  tripped : Bool
  /-- The region has read 95 °C and has not read below 90 °C since (R380). -/
  hot : Bool
  /-- Matrix mode and node (R82 to R84, R289 to R297). -/
  mxmode : Bool
  mx : Vector W64 4
  acc : Assoc W32
  sticky : BitVec 5
  mmaCount : W32
  /-- The command queue, a cut's marker among the commands; the response of a drain in progress; the cut the node has
  saved at. -/
  mmq : List Token
  mmDrain : Option Token
  mmSaved : Option Nat
  mmResp : W64
  mmOut : List OutTok
  /-- Cutter (R298 to R303). -/
  ha : Lanes
  hb : Lanes
  haValid : Bool
  hbValid : Bool
  cont : Option Cont
  bounds : Vector W64 6
  /-- Typed buffers W, A, C; journal and scratch ranges (R136). -/
  bufs : Vector Buf 3
  journal : List Journal
  scratch : List (Nat × Nat × Nat)
  bgate : BitVec 48
  waking : BitVec 48
  /-- Agents whose access a waking bank holds; and those whose held access takes BANKWAKE, since the bank's self-test has
  failed, or BANKGATED, since the bank has been gated again: agent, bank, cause (R123, R414, R415). -/
  bankHeld : List (Agent × Nat)
  bankBad : List (Agent × Nat × Nat)
  /-- Requests that stand at the region's cutter (0) and KV unit (1), in arrival order (R148, R288). -/
  unitQ : List (Nat × Agent)
  /-- The pool and the frames, in table order, of the raises that a refused fork has still to undo (R307). -/
  kvUndo : Option (Nat × List Nat)
  /-- The agent whose request at the KV unit has passed its check pass, and has its release pass to come (R418). -/
  kvPass : Option Agent
  /-- Observation (R204 to R215). -/
  obsctl : W64
  obsbk : Vector W64 4
  bkCount : Vector W32 4
  /-- Cycles in which elements may still fire after a stop, and the stops asked for: source, argument, element,
  context, slot (R210). -/
  grace : Nat
  stopReq : List (Nat × Nat × Nat × Nat × Nat)
  /-- The element that fired last, and whether one has fired in this cycle (R212). -/
  lastElem : Nat
  firedNow : Bool
  /-- One above the highest element that has done something ordered within this cycle: the helm core comes first, then
  the elements in ascending order (R209, R288, R335). -/
  ordNow : Nat
  /-- The helm core has executed an instruction, or the matrix node added an operand, in this cycle (R397). -/
  moved : Bool
  /-- The helm core has had its turn in this cycle (R212); the first fault of the graph has fallen in it (R373); columns and
  rows of elements that have multiplied in it (R203). -/
  helmNow : Bool
  faultNow : Bool
  mmNow : Nat × Nat
  /-- The drain has met a waking bank of the C-buffer in this cycle (R203). -/
  mmBlocked : Bool
  /-- Banks that this cycle's accesses have asked for, one entry a row access (R119, R206). -/
  bankNow : List Nat
  /-- k steps or groups of the command at the head of the queue that have been added (R292, R295). -/
  mmAt : Nat
  /-- The stage governor's interval: when it began; its element cycles and those classed BOUT; the element cycles of the
  regions it feeds, and those classed WOPD on a channel that crosses from it (R107). -/
  govStart : Nat
  govCycles : Nat × Nat × Nat × Nat
  counters : Assoc Nat
  /-- Start of the configuration interval (R205). -/
  interval : Nat
  ring : Assoc (BitVec 128)
  ringNext : Nat
  ringWraps : Nat
  ringFrozen : Bool
  sampleElem : Nat
  sinceSample : Nat
  /-- Region cycles of the interval, and since the wheel was last rewritten. -/
  cycles : Nat
  sinceWheel : Nat
  /-- Context weights of the reweighter's interval (R106). -/
  weights : Assoc Nat
  /-- Stillwater monitor (R397, R398). -/
  still : Nat
  hung : Bool
  frozen : Bool
  hangs : Nat
  /-- When the region froze, and the address of its map. -/
  hungAt : Nat
  hangMap : Nat
  /-- Configuration cache, the entry activated last first; where the section in force came from: address, length, SIG
  (R104, R402, R403). -/
  cache : List (W64 × Nat × List Byte)
  cfgFrom : Nat × Nat × Nat
  cfgErr : Option W64
  cfgErrTimes : List Nat
  /-- Times of uncorrectable typed-buffer errors (R403, R413, R415). -/
  bufErrTimes : List Nat
  /-- Node map entries by key (R207). -/
  nmap : Assoc (BitVec 128)
  offline : Bool
  deriving DecidableEq, Repr

/-! ## Launches and partitions -/

/-- Where a live launch stands (R444). -/
inductive Phase where
  | waiting | loading | running | rolling | rerun | preempted | dredging | ended
  deriving DecidableEq, Repr

/-- A cut in flight: 1 SNAP, 2 EBB (R108 to R112). -/
structure Cut where
  kind : Nat
  seq : Nat
  closing : Bool
  /-- Restored sources still to inject before any firing (R374). -/
  first : Bool
  /-- Regions' images as their parts save, and the deferred accesses of the helm cores that have saved (R263). -/
  image : Assoc Region
  arms : List Arm
  deriving DecidableEq, Repr

/-- The last complete cut: kind, sequence number, the window it closed and the image of every region, or the state the
load left (kind 0) (R112, R370, R445). -/
structure Snap where
  kind : Nat
  seq : Nat
  window : Nat
  slot : Nat
  rerun : Bool
  image : Assoc Region
  arms : List Arm
  deriving DecidableEq, Repr

/-- A launch that is live, or being ended. -/
structure Launch where
  ltag : W64
  part : Nat
  prio : Nat
  qsel : Nat
  /-- Order of arrival, order of start. -/
  order : Nat
  started : Nat
  record : List Byte
  /-- Message to complete: connection, SEQ, TAG; none for a device launch (R331). -/
  conn : Option (Nat × W64 × W64)
  phase : Phase
  /-- Logical region of each section; logical ids of the helm cores (R96, R116). -/
  place : List Nat
  firstPlace : List Nat
  /-- The region at reach, column and row 0 of the placement (R96, R99); width, height and reaches; the physical places
  that the node map names (R116). -/
  origin : Nat
  dims : Nat × Nat × Nat
  phys : List (Nat × Nat)
  gdig : W64
  nsec : Nat
  /-- Its placement may span more than one quad (R187). -/
  wide : Bool
  cut : Option Cut
  cutSeq : Nat
  wantEbb : Bool
  wantSnap : Bool
  /-- Open window: its number, bytes held and words filled on FE pages (R132, R138). -/
  window : Nat
  win : Mem
  fills : List Nat
  /-- Windows committed and not yet applied: stack, bytes, words filled, and the order of the cuts (R133). -/
  commits : List (Nat × Mem × List Nat × Nat)
  snap : Option Snap
  rollbacks : Nat
  aborts : Nat
  /-- Cause of the fault being handled, and whether the re-run has met it again (R370 to R372). -/
  fault : Option Nat
  /-- The firings or accesses that took it. -/
  hits : List (Agent × Trap)
  /-- The record of a fatal fault (R424). -/
  fatalRec : BitVec 512
  recurred : Bool
  /-- The window has overflowed once; and the early-cut thresholds stay lowered till the next SNAP (R408). -/
  overflow : Bool
  lowered : Bool
  migPosted : Option Nat
  /-- It moves for heat; when the request may be posted again (R380). -/
  thermal : Bool
  repost : Option Nat
  /-- The waiting launches for which a pre-emption of it has been given up, and the one for which its EBB is asked (R113, R117,
  R379); the placement it must return to (R403). -/
  declined : List Nat
  forHead : Option Nat
  again : Option Nat
  quietSince : Option Nat
  /-- Its EBB is that of a quiescent graph, at which a source abandons the token that a stopped engine holds (R378). -/
  abandon : Bool
  chains : List Lanes
  /-- Ports that are down under its chains, and since when it has known (R439). -/
  chainSince : Assoc Nat
  peers : List (BitVec 128)
  /-- Partials waiting at chain hops: chain, hop, incoming side, where it comes from, token (R103). -/
  partials : List (Nat × Nat × Bool × At × Token)
  /-- Stopped stream engines: the agent and the address that faulted (R377). -/
  engines : List (Agent × Nat)
  /-- The closing cut is complete, and the end is due (R94). -/
  ending : Bool
  /-- What its cores' LAUNCH instructions have been answered, by LTAG (R331). -/
  taken : List (W64 × W64)
  /-- Its image is loaded under FLAG and has conflicts; and what its elements have written in the present region cycle: the
  writer, region and space (0 and 3 of global memory), a word, and the word as it was before (R179). -/
  raceFlag : Bool
  raceNow : List (Agent × Nat × Nat × Nat × W32)
  deriving DecidableEq, Repr

/-- A completion record still to be written (R20). -/
structure Comp where
  tag : W64
  value : W64
  typ : Byte
  status : Byte
  part : BitVec 5
  seq : W64
  deriving DecidableEq, Repr

/-- A host connection (R19 to R21, R28, R29). -/
structure Conn where
  rod : Bool
  dest : BitVec 128
  closed : Bool
  hello : Bool
  features : W64
  ring : W64
  count : Nat
  free : Nat
  written : Nat
  data : W64
  dlen : Nat
  dnext : Nat
  /-- SEQ of the messages executed, and their completions (R19). -/
  seqs : List W64
  done : List Comp
  /-- On a ROD connection: SEQ of the message that is held before its execution, and of the last one executed in order (R19). -/
  held : Option W64
  last : Option W64
  /-- Completions withheld for want of a ring entry (R20). -/
  withheld : List Comp
  deriving DecidableEq, Repr

/-- An open REQUEST (R63, R64). -/
structure Req where
  conn : Nat
  seq : W64
  tag : W64
  part : BitVec 5
  launch : Nat
  sink : At
  iv : Ival
  /-- The times that have not arrived yet. -/
  left : List Ival
  deriving DecidableEq, Repr

/-- A host wait on a fence (R30). -/
structure HostWait where
  conn : Nat
  seq : W64
  tag : W64
  part : BitVec 5
  addr : Nat
  value : W64
  deriving DecidableEq, Repr

/-- A dump directory entry in use: its number, where the image lies, the queue it holds, STATE (R422, R427). -/
structure Dump where
  num : Nat
  launch : Nat
  off : Nat
  len : Nat
  hold : Bool
  queue : Nat
  state : Nat
  /-- It is that of the launch's fatal end that is in progress (R425). -/
  going : Bool
  deriving DecidableEq, Repr

/-- A partition (R22, R34). -/
structure Partition where
  present : Bool
  regions : BitVec 256
  ranges : List (Nat × Nat)
  /-- Table pool of each stack: base, length, next free table byte; table roots. -/
  pools : List (Nat × Nat × Nat)
  roots : List Nat
  /-- Areas: virtual address, physical address, count (R34). -/
  areas : List (Nat × Nat × Nat)
  endpoints : List (BitVec 128)
  keygen : Nat
  thresh : BitVec 16
  held : BitVec 16
  kept : List Comp
  dropped : Nat
  fenceW : Nat
  faultProd : Nat
  counterSeq : Nat
  mapNext : Nat
  dumps : List Dump
  /-- Image nonce counter (R422). -/
  dumpNext : Nat
  /-- The queue that started last, by priority (R93). -/
  lastQ : Vector Nat 4
  /-- The record written last. -/
  lastRec : BitVec 512
  preempting : Option Nat
  /-- Its reset has been asked for and waits for a dredge (R381, R425, R436). -/
  resetting : Bool
  /-- NQFULL has been written since the notice queue last had space (R416). -/
  nqFull : Bool
  deriving DecidableEq, Repr

/-- A firmware slot (R24, R26, R33). -/
structure Slot where
  image : Mem
  len : Nat
  valid : Bool
  deriving DecidableEq, Repr

/-- The open update (R33): total, and the byte ranges received. -/
structure Update where
  total : Nat
  got : List Nat
  verifying : Bool
  deriving DecidableEq, Repr

/-- An error that HBM has shown: its address, whether it was corrected, when, and whether its row has been spared since (R411,
R412). -/
structure HbmErr where
  addr : Nat
  corrected : Bool
  time : Nat
  past : Bool
  deriving DecidableEq, Repr

/-- A non-volatile copy of the sediment record, and its digest (R431). -/
structure NvCopy where
  entries : List (BitVec 256)
  digest : BitVec 512
  deriving DecidableEq, Repr

/-- A port of the headwater: up, its error counter, since when it is down, retries that have failed in a row, and whether it is
disabled (R15, R436, R439). -/
structure EthPort where
  up : Bool
  errors : Nat
  downSince : Nat
  tries : Nat
  disabled : Bool
  deriving DecidableEq, Repr

/-- A token or a demand on its way between two ends, in order (R46, R70). -/
structure Link where
  src : At
  dst : At
  tok : Token
  deriving DecidableEq, Repr

/-- A demand on its way to a node output: the consumer it comes from and the output it goes to (R46). -/
structure DLink where
  src : At
  dst : At
  dem : Demand
  /-- Which destination of the port asks. -/
  slot : Nat
  deriving DecidableEq, Repr

/-- An access counter of a granule, its queued bit, and whether its notice has found the queue full (R141). -/
structure Granule where
  count : Nat
  queued : Bool
  missed : Bool
  deriving DecidableEq, Repr

/-- What the .prime directives of a section place on one channel of an element's context, or of the helm core (element
256): the section's bytes, the place, and the values in order (R217; log 26). -/
structure Primed where
  sect : List Byte
  elem : Nat
  ctx : Nat
  chan : Nat
  vals : List W32
  deriving DecidableEq, Repr

/-- The whole device. `todo`, `fresh`, `agent` and `primes` are the model's own fields (logs 2, 3, 26). -/
structure State where
  todo : List Turn
  fresh : Nat
  agent : Agent
  /-- hs.time in nanoseconds (R325). -/
  now : Nat
  regions : Assoc Region
  launches : Assoc Launch
  parts : Assoc Partition
  conns : Assoc Conn
  host : Mem
  hbm : Mem
  /-- Presence of words on FE pages, by physical address (R138). -/
  full : List Nat
  /-- CLEN of COMP sectors that is not 0, by physical sector address (R139). -/
  clen : Assoc Nat
  /-- Physical ranges mapped with COMP. -/
  comps : List (Nat × Nat)
  poison : List Nat
  granules : Assoc Granule
  arms : List Arm
  links : List Link
  dlinks : List DLink
  /-- Translations cached, by stack, partition and base of the page (R127). -/
  tcache : List (Nat × Nat × Nat)
  pins : Assoc Nat
  reqs : List Req
  hostWaits : List HostWait
  ports : Assoc EthPort
  booted : Bool
  fw : Vector Slot 2
  running : Bool
  update : Option Update
  pendingSwitch : Bool
  /-- Sediment record: entries kept and the next SEQ; the two non-volatile copies (R429 to R431). -/
  sediment : List (BitVec 256)
  sedSeq : Nat
  nvram : Vector NvCopy 2
  nvNext : Bool
  /-- Spare regions used, by reach: logical region and spare number (R27). -/
  spares : List (Nat × Nat)
  /-- Pseudo-channels retired, by stack and number, and whether offline (R412). -/
  pcs : List (Nat × Nat × Bool)
  /-- Rows spared, and the errors that rows have shown (R411, R412). -/
  rowspares : List Nat
  hbmErrs : List HbmErr
  lastPart : Nat
  order : Nat
  nextLaunch : Nat
  /-- Cuts completed, and the launches that end, in the order of their fatal records (R133, R425). -/
  cutOrder : Nat
  dredges : List Nat
  /-- The primed tokens of the sections that lie in memory: a section with no entry primes nothing. -/
  primes : List Primed
  deriving DecidableEq, Repr

/-- What an instruction's own effect comes to, before the trigger action and the program counter (R75, R86): done;
done with a new PC; waiting at the instruction; begun and held (R71); a fault that withholds every effect (R389); or a
stop. -/
inductive Effect where
  | done (s : State)
  | jump (s : State) (pc : BitVec 20)
  | wait (k : WaitKind) (s : State)
  | hold (s : State)
  | trap (t : Trap)
  | trapFrom (s : State) (t : Trap)
  | absent (pa : Nat)
  deriving DecidableEq, Repr

/-- What a memory node answers to an access: performed; not now, and the requester waits; a fault; an absent cell. -/
inductive Acc where
  | ok (s : State)
  | busy (s : State)
  | bad (t : Trap)
  | absent (pa : Nat)
  deriving DecidableEq, Repr

/-! ## Outcomes -/

/-- Why the machine stops with a fault. -/
inductive Fault where
  /-- An access to a physical address above the 80 GB a stack populates (R124); raised by the memory operations; safe,
  the device has no cell there. -/
  | absentMemory (pa : Nat)
  deriving DecidableEq, Repr

/-- Why an instruction has no meaning here. -/
inductive Refusal where
  /-- No meaning written yet: raised by the arms of `exec` only; safe, the run stops. -/
  | notModelled (mnemonic : String)
  deriving DecidableEq, Repr

/-! ## Reset -/

/-- An unbound pair, with the descriptor's reset values: IDENT, M and D 1 (R47, R99). -/
def Pair.reset : Pair :=
  { ctxset := 0, fmtmask := 0, tstep := 1, gl := 0, sink := false, conv := none, back := false, fed := false,
    rtf := 1 <<< 106 ||| 1 <<< 90, queue := [], marker := none, marked := [], behind := [], catching := false, served := [], pending := [], held := [], asked := [],
    posted := 0, reload := [], recent := [], hist := [], begun := 0, seenTop := 0, ended := false, bursts := [] }

/-- A port with no destination. -/
def Port.reset : Port :=
  { role := 0, tstep := 1, compact := false, dests := [], dset := [], queue := [], coal := none, lastEnd := none, top := 0, spb := none,
    pending := [], count := 0, own := 0, post := none, cutHold := false, ended := false, sent := false, freed := false,
    debt := none }

/-- Registers at reset (R67, R188). -/
def Regs.reset : Regs := { v := Vector.replicate 8 0, s := Vector.replicate 8 0, p := 0, fp := 0 }

/-- A context at reset (R67). -/
def Node.reset : Node :=
  { regs := Regs.reset, rr := 0, slots := [], pairs := Vector.replicate 4 Pair.reset,
    ports := Vector.replicate 4 Port.reset, flight := none, held := none, late := none, classes := [], rbase := 0, rspace := 0,
    rport := 0, routes := [], ranges := [], owed := 0 }

/-- An element at reset (R67). -/
def Elem.reset : Elem :=
  { ctxs := [], trig := [], counters := [], saved := none, cls := 10, clsCtx := 0, clsSlot := 0, fired := false, idle := 0,
    lastNode := 0xFFFFFFFF, lastSlot := 0, lastCtx := 0 }

/-- A helm core at reset (R67, R325 to R327; PC: log 8). -/
def Helm.reset : Helm :=
  { node := Node.reset, pc := 512, textEnd := 0, text := [], trig := [], status := 0, cause := 0, epc := 0, tval := 0,
    trapvec := 0, stillLimit := 0x01000000, timer := 0, armed := false, launches := 0, lid := 0, lids := [],
    running := false, halted := false, saved := none, recv := [], delivered := [], wait := .none, waitSince := 0, sendAbort := none, outstanding := [],
    copies := [], parked := false, migPosted := false, counters := [], cycle := 0 }

/-- A cleared buffer (R23). -/
def Buf.reset : Buf := { mem := [], full := [], poison := [] }

/-- A region at reset (R101 for the values a CTRL record gives; log 8). -/
def Region.reset : Region :=
  { elems := [], helm := Helm.reset, launch := none, sect := 0, settled := false, wheel := 0xFFFFFFFFFFFFFFFF, nextWheel := none,
    ctxCounter := 0, clock := 6, gfix := false, gclk := 0, rwoff := false, kvlim := 0, temperature := 25, tripped := false, hot := false, mxmode := false,
    mx := Vector.replicate 4 0, acc := [], sticky := 0, mmaCount := 0, mmq := [], mmDrain := none,
    mmSaved := none, mmResp := 0, mmOut := [], ha := 0, hb := 0, haValid := false, hbValid := false, cont := none,
    bounds := Vector.replicate 6 0, bufs := Vector.replicate 3 Buf.reset, journal := [], scratch := [], bgate := 0,
    waking := 0, bankHeld := [], bankBad := [], unitQ := [], kvUndo := none, kvPass := none, obsctl := 0, obsbk := Vector.replicate 4 0, bkCount := Vector.replicate 4 0, grace := 0,
    stopReq := [], lastElem := 255, firedNow := false, ordNow := 0, moved := false, helmNow := false, faultNow := false, mmNow := (0, 0), mmBlocked := false, bankNow := [], mmAt := 0, govStart := 0,
    govCycles := (0, 0, 0, 0), counters := [], interval := 0, ring := [], ringNext := 0, ringWraps := 0, ringFrozen := false, sampleElem := 0,
    sinceSample := 0, cycles := 0, sinceWheel := 0, weights := [], still := 0, hung := false, frozen := false, hangs := 0, hungAt := 0, hangMap := 0, cache := [],
    cfgFrom := (0, 0, 0),
    cfgErr := none, cfgErrTimes := [], bufErrTimes := [], nmap := [], offline := false }

/-- A partition that is absent. -/
def Partition.reset : Partition :=
  { present := false, regions := 0, ranges := [], pools := [], roots := [], areas := [], endpoints := [], keygen := 0,
    thresh := 0, held := 0, kept := [], dropped := 0, fenceW := 0, faultProd := 0, counterSeq := 0, mapNext := 0,
    dumps := [], dumpNext := 0, lastQ := Vector.replicate 4 3, lastRec := 0, preempting := none, resetting := false, nqFull := false }

/-- A port at reset (log 5). -/
def EthPort.reset : EthPort := { up := true, errors := 0, downSince := 0, tries := 0, disabled := false }

/-- A non-volatile copy that has never been written. -/
def NvCopy.reset : NvCopy := { entries := [], digest := 0 }

/-- An empty firmware slot. -/
def Slot.reset : Slot := { image := [], len := 0, valid := false }

/-- The device right after reset: nothing loaded, no partition, no connection, memory with nothing listed. -/
def State.reset : State :=
  { todo := [], fresh := 0, agent := .helm 0, now := 0, regions := [], launches := [], parts := [], conns := [],
    host := [], hbm := [], full := [], clen := [], comps := [], poison := [], granules := [], arms := [], links := [], dlinks := [],
    tcache := [], pins := [], reqs := [], hostWaits := [], ports := [], booted := false,
    fw := Vector.replicate 2 Slot.reset, running := false, update := none, pendingSwitch := false, sediment := [],
    sedSeq := 0, nvram := Vector.replicate 2 NvCopy.reset, nvNext := false, spares := [], pcs := [],
    rowspares := [], hbmErrs := [], lastPart := 0, order := 0, nextLaunch := 0, cutOrder := 0, dredges := [], primes := [] }

end Sys2Proof.Machine
end

