-- ==== Sys2Proof/Machine/Mem.lean ====
section
/-!
DEFINITION. Byte memories in canonical form, sorted sets of addresses, and items by number. An unlisted byte reads as
0 (log 6), so writing 0 removes the entry.
-/

namespace Sys2Proof.Machine

/-- What an unlisted address reads as (log 6). -/
def memDefault : Byte := 0

/-- One byte. -/
def memRead : Mem → Nat → Byte
  | [], _ => memDefault
  | (k, b) :: m, a => if a = k then b else if a < k then memDefault else memRead m a

/-- Writes one byte, keeping the canonical form. -/
def memWrite : Mem → Nat → Byte → Mem
  | [], a, b => if b = memDefault then [] else [(a, b)]
  | (k, c) :: m, a, b =>
    if a = k then (if b = memDefault then m else (a, b) :: m)
    else if a < k then (if b = memDefault then (k, c) :: m else (a, b) :: (k, c) :: m)
    else (k, c) :: memWrite m a b

/-- Every listed address is above `a`. -/
def memAbove (a : Nat) : Mem → Bool
  | [] => true
  | (k, _) :: _ => decide (a < k)

/-- The canonical form: addresses strictly rising, no entry equal to what an unlisted address reads as. -/
def memWf : Mem → Bool
  | [] => true
  | (k, b) :: m => b != memDefault && memAbove k m && memWf m

/-- `n` bytes from `a` up, lowest address first. -/
def memReadN (m : Mem) (a : Nat) : Nat → List Byte
  | 0 => []
  | n + 1 => memRead m a :: memReadN m (a + 1) n

/-- Writes bytes from `a` up. -/
def memWriteN : Mem → Nat → List Byte → Mem
  | m, _, [] => m
  | m, a, b :: bs => memWriteN (memWrite m a b) (a + 1) bs

/-- A little-endian number of `n` bytes (R220). -/
def memNat (m : Mem) (a n : Nat) : Nat := Bits.ofBytes (memReadN m a n)

/-- Writes a little-endian number of `n` bytes. -/
def memPutNat (m : Mem) (a n v : Nat) : Mem := memWriteN m a (Bits.bytesOf n v)

/-- A sparse overlay: bytes held at addresses, of any value, strictly rising (commit-buffer lines, R132). -/
def ovRead : Mem → Nat → Option Byte
  | [], _ => none
  | (k, b) :: m, a => if a = k then some b else if a < k then none else ovRead m a

/-- Holds one byte in an overlay. -/
def ovWrite : Mem → Nat → Byte → Mem
  | [], a, b => [(a, b)]
  | (k, c) :: m, a, b =>
    if a = k then (a, b) :: m else if a < k then (a, b) :: (k, c) :: m else (k, c) :: ovWrite m a b

/-- Holds bytes from `a` up. -/
def ovWriteN : Mem → Nat → List Byte → Mem
  | m, _, [] => m
  | m, a, b :: bs => ovWriteN (ovWrite m a b) (a + 1) bs

/-- Applies an overlay to a memory. -/
def ovApply : Mem → Mem → Mem
  | m, [] => m
  | m, (a, b) :: o => ovApply (memWrite m a b) o

/-- Membership in a sorted set. -/
def setHas (l : List Nat) (a : Nat) : Bool := l.contains a

/-- Adds to a sorted set. -/
def setAdd : List Nat → Nat → List Nat
  | [], a => [a]
  | k :: l, a => if a = k then k :: l else if a < k then a :: k :: l else k :: setAdd l a

/-- Takes out of a sorted set. -/
def setDel (l : List Nat) (a : Nat) : List Nat := l.filter (· != a)

/-- An item by number, or its reset value. -/
def aGet {α : Type} (d : α) : Assoc α → Nat → α
  | [], _ => d
  | (k, x) :: l, n => if n = k then x else aGet d l n

/-- An item by number, where listed. -/
def aFind {α : Type} : Assoc α → Nat → Option α
  | [], _ => none
  | (k, x) :: l, n => if n = k then some x else aFind l n

/-- Sets an item by number. -/
def aSet {α : Type} : Assoc α → Nat → α → Assoc α
  | [], n, y => [(n, y)]
  | (k, x) :: l, n, y => if n = k then (k, y) :: l else if n < k then (n, y) :: (k, x) :: l else (k, x) :: aSet l n y

/-- Removes an item by number. -/
def aDel {α : Type} (l : Assoc α) (n : Nat) : Assoc α := l.filter (fun e => e.1 != n)

/-- The items' numbers. -/
def aKeys {α : Type} (l : Assoc α) : List Nat := l.map (·.1)

/-- Changes every item. -/
def aMap {α : Type} (f : Nat → α → α) (l : Assoc α) : Assoc α := l.map (fun e => (e.1, f e.1 e.2))

/-- Reads item `k` of a fixed-size register file; a number past the end reads as the given value. -/
def vGet {α : Type} {n : Nat} (d : α) (v : Vector α n) (k : Nat) : α := if h : k < n then v[k] else d

/-- Writes item `k` of a fixed-size register file; a number past the end is ignored. -/
def vSet {α : Type} {n : Nat} (v : Vector α n) (k : Nat) (x : α) : Vector α n := if h : k < n then v.set k x h else v

end Sys2Proof.Machine
end

