-- ==== Sys2Proof/WellFormed.lean ====
section
/-!
DEFINITION. When a term of the syntax stands for something the device can meet: an instruction with a word of its own
(two rows of the opcode table overlap in four places), or an event at a place that exists.
-/

namespace Sys2Proof

/-- The operand code names a scalar register (R222). -/
def isScalarCode (d : BitVec 5) : Bool := 8 ≤ d.toNat && d.toNat ≤ 15

/-- An ATOM word is the paired form when A is a channel, D is not a scalar and SZ[0] is 0 (R280). -/
def isPairForm (d a : BitVec 5) (s : BitVec 3) : Bool :=
  a.extractLsb' 3 2 == 2 && !isScalarCode d && s.extractLsb' 0 1 == 0

/-- A logical region (R4). -/
def regionOk (r : Nat) : Bool := r < 256

/-- A place in the fabric: an element or the helm core of a region, and one of twelve contexts. -/
def At.ok (p : At) : Bool := regionOk p.r && p.e ≤ 256 && p.c < 12

/-- A message's payload is at most 65,536 bytes (R17). -/
def Msg.ok (m : Msg) : Bool := m.payload.length ≤ 65536

/-- The well-formed terms. -/
def Instr.wf : Instr → Bool
  | .pmovWrite _ a | .ret _ a => a != 28
  | .syscUnassigned _ _ code => 4 ≤ code.toNat
  | .atomAdd _ d a s | .atomMin _ d a s | .atomMax _ d a s | .atomXchg _ d a s | .atomAnd _ d a s
  | .atomOr _ d a s | .atomFadd _ d a s => !isPairForm d a s
  | .atomPair _ d _ _ _ => !isScalarCode d
  | .messageNoEndpoint m | .firstMessageNotHello m | .helloSetup m | .helloCredit m | .launchMessage m | .request m
  | .fenceRead m | .fenceRaise m | .fenceWait m | .mapPages m | .mapUnmap m | .mapThreshold m | .pin m | .unpin m
  | .dumpreadCleartext m | .dumpreadBody m | .dumpreadSediment m | .dumpreadWakeRing m | .dumpreadRelease m
  | .resync m | .attest m | .updatePiece m | .updateCommit m | .updateAbort m | .partctlCreate m | .partctlResize m
  | .partctlDelete m | .partctlReset m | .partctlSpareRemap m | .unknownMessageType m => m.ok
  | .sourceMarkerInject p | .tokenArrival p | .tokenSend p | .conversionReturn p | .demandArrival p
  | .demandHeldRelease p | .streamReadComplete p => p.ok
  | .elementSave r e => regionOk r && e < 256
  | .operationComplete r e c => regionOk r && e < 256 && c < 12
  | .helmSave r | .matrixMma r | .matrixAccrd r | .accrdResponse r | .matrixAccclr r | .matrixMarkerSave r
  | .copyComplete r _ | .bgateWrite r _ | .obsctlStopWrite r _ | .obsctlPrecWrite r _ | .obsctlSperWrite r _
  | .obsbkWrite r _ _ | .stillWrite r _ | .mxregWrite r _ _ | .registerWrite r _ _ | .sample r | .wheelRewrite r
  | .governorDecision r _ _ _ | .helmTimerExpiry r | .trapEntry r | .rerunFaultStop _ r | .stillwaterHang r
  | .hangesc r | .sendring r | .cfgStoreError r _ _ | .cfgReloadComplete r | .retire r => regionOk r
  | .bankWakeEnd r bank _ => regionOk r && bank < 48
  | .regionStop r _ _ e c slot => regionOk r && e ≤ 256 && c < 12 && slot < 32
  | _ => true

end Sys2Proof
end

