-- ==== Sys2Proof/Decode.lean ====
section
/-!
DEFINITION. Decoding and encoding of the 32-bit instruction words: the fields of R220, the formats of R229 and the
opcode map of R228. A word that matches no row of the table is rejected by name.
-/

namespace Sys2Proof

/-- Why a run of bytes gives no instruction. -/
inductive Reject where
  /-- Fewer than four bytes are left. -/
  | tooShort
  /-- The word matches no row of the opcode table (R228): what a core does there is `Instr.undefinedWord`. -/
  | noInstruction (w : W32)
  deriving DecidableEq, Repr

/-- A word from its six fields (R220). -/
def pack (t : BitVec 6) (o : BitVec 8) (d a b : BitVec 5) (y : BitVec 3) : W32 := t ++ o ++ d ++ a ++ b ++ y

/-- TRIG, bits [31:26] (R220). -/
def fieldT (w : W32) : BitVec 6 := w.extractLsb' 26 6
/-- OPC, bits [25:18] (R220). -/
def fieldO (w : W32) : BitVec 8 := w.extractLsb' 18 8
/-- D, bits [17:13] (R220). -/
def fieldD (w : W32) : BitVec 5 := w.extractLsb' 13 5
/-- A, bits [12:8] (R220). -/
def fieldA (w : W32) : BitVec 5 := w.extractLsb' 8 5
/-- B, bits [7:3] (R220). -/
def fieldB (w : W32) : BitVec 5 := w.extractLsb' 3 5
/-- TY or SZ, bits [2:0] (R220). -/
def fieldY (w : W32) : BitVec 3 := w.extractLsb' 0 3

/-- Opcodes 0x00 to 0x0F (R228). -/
def decodeRow0 (o : Nat) (t : BitVec 6) (d a b : BitVec 5) (y : BitVec 3) : Option Instr :=
  match o with
  | 0 => if d = 28 ∧ a = 28 ∧ b = 28 ∧ y = 0 then some (.nop t) else none
  | 1 => if b = 28 then some (.mov t d a y) else none
  | 2 => some (.movi t d (a ++ b ++ y))
  | 3 => some (.movsh t d (a ++ b ++ y))
  | 4 => some (.add t d a b y)
  | 5 => some (.addi t d a (b ++ y))
  | 6 => some (.sub t d a b y)
  | 7 => some (.adds t d a b y)
  | 8 => some (.subs t d a b y)
  | 9 => some (.mul t d a b y)
  | 10 => some (.mulh t d a b y)
  | 11 => some (.mad t d a b y)
  | 12 => some (.div t d a b y)
  | 13 => some (.rem t d a b y)
  | 14 => some (.min t d a b y)
  | _ => some (.max t d a b y)

/-- Opcodes 0x10 to 0x1F (R228). -/
def decodeRow1 (o : Nat) (t : BitVec 6) (d a b : BitVec 5) (y : BitVec 3) : Option Instr :=
  match o with
  | 0 => if b = 28 then some (.abs t d a y) else none
  | 1 => if b = 28 then some (.neg t d a y) else none
  | 2 => some (.and t d a b y)
  | 3 => some (.andi t d a (b ++ y))
  | 4 => some (.or t d a b y)
  | 5 => some (.ori t d a (b ++ y))
  | 6 => some (.xor t d a b y)
  | 7 => some (.andn t d a b y)
  | 8 => some (.shl t d a b y)
  | 9 => some (.shli t d a (b ++ y))
  | 10 => some (.shr t d a b y)
  | 11 => some (.shri t d a (b ++ y))
  | 12 => some (.sar t d a b y)
  | 13 => if b = 28 then some (.clz t d a y) else none
  | 14 => if b = 28 then some (.popc t d a y) else none
  | _ => some (.bfx t d a b y)

/-- Opcodes 0x20 to 0x2F (R228). -/
def decodeRow2 (o : Nat) (t : BitVec 6) (d a b : BitVec 5) (y : BitVec 3) : Option Instr :=
  match o with
  | 0 => some (.bfi t d a b y)
  | 1 => some (.sel t d a b y)
  | 2 => some (.cmpeq t d a b y)
  | 3 => some (.cmpne t d a b y)
  | 4 => some (.cmplt t d a b y)
  | 5 => some (.cmple t d a b y)
  | 6 => some (.cmpeqi t d a (b ++ y))
  | 7 => some (.cmplti t d a (b ++ y))
  | _ => none

/-- Opcodes 0x30 to 0x3F (R228). -/
def decodeRow3 (o : Nat) (t : BitVec 6) (d a b : BitVec 5) (y : BitVec 3) : Option Instr :=
  match o with
  | 0 => some (.fadd t d a b y)
  | 1 => some (.fsub t d a b y)
  | 2 => some (.fmul t d a b y)
  | 3 => some (.ffma t d a b y)
  | 4 => some (.ffms t d a b y)
  | 5 => some (.fmin t d a b y)
  | 6 => some (.fmax t d a b y)
  | 7 => if b = 28 then some (.fabs t d a y) else none
  | 8 => if b = 28 then some (.fneg t d a y) else none
  | 9 => some (.fcmpeq t d a b y)
  | 10 => some (.fcmplt t d a b y)
  | 11 => some (.fcmple t d a b y)
  | 12 => some (.fcmpun t d a b y)
  | 13 => if b = 28 then some (.frcpe t d a y) else none
  | 14 => if b = 28 then some (.frsqe t d a y) else none
  | _ => if b = 28 then some (.fexp2 t d a y) else none

/-- Opcodes 0x40 to 0x4F (R228). -/
def decodeRow4 (o : Nat) (t : BitVec 6) (d a b : BitVec 5) (y : BitVec 3) : Option Instr :=
  match o with
  | 0 => if b = 28 then some (.flog2 t d a y) else none
  | 1 => some (.fdiv t d a b y)
  | 2 => if b = 28 then some (.fsqrt t d a y) else none
  | 3 => if b = 28 then some (.frnd t d a y) else none
  | 4 => if b = 28 then some (.fclass t d a y) else none
  | 5 => some (.fscl t d a b y)
  | _ => none

/-- Opcodes 0x50 to 0x5F (R228). -/
def decodeRow5 (o : Nat) (t : BitVec 6) (d a b : BitVec 5) (y : BitVec 3) : Option Instr :=
  match o with
  | 0 => if b.extractLsb' 3 2 = 0 then some (.cvt t d a (b.extractLsb' 0 3) y) else none
  | 1 => if b.extractLsb' 3 2 = 0 then some (.cvts t d a (b.extractLsb' 0 3) y) else none
  | 2 => some (.pack t d a b y)
  | 3 => if b = 28 then some (.unpkl t d a y) else none
  | 4 => if b = 28 then some (.unpkh t d a y) else none
  | 5 => some (.qnt t d a b y)
  | 6 => some (.deq t d a b y)
  | 7 => some (.qdot t d a b y)
  | 8 => some (.scld t d a b y)
  | _ => none

/-- Opcodes 0x60 to 0x6F (R228). -/
def decodeRow6 (o : Nat) (t : BitVec 6) (d a b : BitVec 5) (y : BitVec 3) : Option Instr :=
  match o with
  | 0 => some (.bcast t d a b y)
  | 1 => some (.perm t d a b y)
  | 2 => some (.lrot t d a (b ++ y))
  | 3 => if b = 28 then some (.rsum t d a y) else none
  | 4 => if b = 28 then some (.rmax t d a y) else none
  | 5 => if b = 28 then some (.rmin t d a y) else none
  | 6 => if b = 28 then some (.scan t d a y) else none
  | 7 => if b = 28 then some (.filter t d a y) else none
  | 8 => if b = 28 then some (.coal t d a y) else none
  | 9 => if b = 28 then some (.mskg t d a y) else none
  | 10 => some (.msks t d a b y)
  | 11 => if a = 28 ∧ b = 28 then some (.laneid t d y) else none
  | 12 => some (.insl t d a (b ++ y))
  | 13 => some (.extl t d a (b ++ y))
  | _ => none

/-- Opcodes 0x70 to 0x7F (R228). -/
def decodeRow7 (o : Nat) (t : BitVec 6) (d a b : BitVec 5) (y : BitVec 3) : Option Instr :=
  match o with
  | 0 => if d = 28 ∧ a = 0 then some (.pset t (b ++ y)) else none
  | 1 => if d = 28 ∧ a = 0 then some (.pclr t (b ++ y)) else none
  | 2 => if d = 28 ∧ a = 0 then some (.pflip t (b ++ y)) else none
  | 3 => if d.extractLsb' 3 2 = 0 ∧ b = 28 ∧ y = 0 then some (.ptest t (d.extractLsb' 0 3) a) else none
  | 4 => if d.extractLsb' 3 2 = 0 ∧ b = 28 ∧ y = 0 then some (.pany t (d.extractLsb' 0 3) a) else none
  | 5 => if d.extractLsb' 3 2 = 0 ∧ b = 28 ∧ y = 0 then some (.pall t (d.extractLsb' 0 3) a) else none
  | 6 => if a = 28 ∧ b = 28 ∧ y = 0 then some (.pmovRead t d)
      else if d = 28 ∧ b = 28 ∧ y = 0 ∧ a ≠ 28 then some (.pmovWrite t a) else none
  | _ => none

/-- Opcodes 0x80 to 0x8F (R228). -/
def decodeRow8 (o : Nat) (t : BitVec 6) (d a b : BitVec 5) (y : BitVec 3) : Option Instr :=
  match o with
  | 0 => if b = 28 ∧ y = 0 then some (.hdr t d a) else none
  | 1 => if y = 0 then some (.hdrt t d a b) else none
  | 2 => if y = 0 then some (.hdrm t d a b) else none
  | 3 => if y = 0 then some (.hdre t d a b) else none
  | 4 => if y = 0 then some (.hdrf t d a b) else none
  | 5 => if y = 0 then some (.hdrc t d a b) else none
  | 6 => if b = 28 then some (.time t d a y) else none
  | 7 => if b = 28 ∧ y = 0 then some (.endr t d a) else none
  | 8 => if y = 0 then some (.emit t d a b) else none
  | 9 => if b = 28 ∧ y = 0 then some (.drop t d a) else none
  | 10 => if y = 0 then some (.steer t d a b) else none
  | 11 => if b = 28 ∧ y = 0 then some (.route t d a) else none
  | 12 => if y = 0 then some (.dmd t d a b) else none
  | 13 => if y = 0 then some (.dmdr t d a b) else none
  | 14 => if y = 0 then some (.dmdk t d a b) else none
  | _ => if y = 0 then some (.rtfw t d a b) else none

/-- Opcodes 0x90 to 0x9F (R228). -/
def decodeRow9 (o : Nat) (t : BitVec 6) (d a b : BitVec 5) (y : BitVec 3) : Option Instr :=
  match o with
  | 0 => if y = 0 then some (.mark t d a b) else none
  | 1 => if d = 28 ∧ b = 28 ∧ y = 0 then some (.chkp t a) else none
  | 2 => if d = 28 ∧ b = 28 ∧ y = 0 then some (.chkl t a) else none
  | _ => none

/-- Opcodes 0xA0 to 0xAF (R228). -/
def decodeRowA (o : Nat) (t : BitVec 6) (d a b : BitVec 5) (y : BitVec 3) : Option Instr :=
  match o with
  | 0 => some (.ldb t d a b y)
  | 1 => some (.stb t d a b y)
  | 2 => some (.ldbg t d a b y)
  | 3 => some (.stbs t d a b y)
  | 4 => if b = 28 ∧ y = 0 then some (.srd t d a) else none
  | 5 => if d = 28 ∧ y = 0 then some (.swr t a b) else none
  | 6 => if y = 0 then some (.sgath t d a b) else none
  | 7 => if d = 28 ∧ y = 0 then some (.sscat t a b) else none
  | 8 => if a = 28 ∧ b = 28 ∧ y = 0 then some (.scls t d) else none
  | 9 => if a.extractLsb' 3 2 = 2 ∧ y.extractLsb' 0 1 = 0 ∧ ¬ (8 ≤ d.toNat ∧ d.toNat ≤ 15)
      then some (.atomPair t d (a.extractLsb' 0 3) b (y.extractLsb' 1 2))
      else if b = 0 then some (.atomAdd t d a y) else if b = 1 then some (.atomMin t d a y)
      else if b = 2 then some (.atomMax t d a y) else if b = 3 then some (.atomXchg t d a y)
      else if b = 4 then some (.atomAnd t d a y) else if b = 5 then some (.atomOr t d a y)
      else if b = 6 then some (.atomFadd t d a y) else none
  | 10 => if b = 0 then some (.atomrAdd t d a y) else if b = 1 then some (.atomrMin t d a y)
      else if b = 2 then some (.atomrMax t d a y) else if b = 3 then some (.atomrXchg t d a y)
      else if b = 4 then some (.atomrAnd t d a y) else if b = 5 then some (.atomrOr t d a y) else none
  | 11 => some (.cas t d a b y)
  | 12 => if y.extractLsb' 0 1 = 0 then some (.empty t d a b (y.extractLsb' 1 2)) else none
  | 13 => if y = 0 then some (.ldg t d a b) else none
  | 14 => if y = 0 then some (.stg t d a b) else none
  | _ => if y.extractLsb' 0 1 = 0 then some (.cpy t d a b (y.extractLsb' 1 2)) else none

/-- Opcodes 0xB0 to 0xBF (R228). -/
def decodeRowB (o : Nat) (t : BitVec 6) (d a b : BitVec 5) (y : BitVec 3) : Option Instr :=
  match o with
  | 0 => if y.extractLsb' 0 1 = 0 then some (.cpys t d a b (y.extractLsb' 1 2)) else none
  | 1 => if y.extractLsb' 0 1 = 0 then some (.cpyq t d a b (y.extractLsb' 1 2)) else none
  | 2 => if d = 28 ∧ y = 0 then some (.pref t a b) else none
  | 3 => if d = 28 ∧ a = 0 ∧ b = 0 then some (.fence t y) else none
  | 4 => some (.waitne t d a b y)
  | 5 => if b = 28 ∧ y.extractLsb' 0 1 = 0 then some (.bari t d a (y.extractLsb' 1 2)) else none
  | 6 => if a = 28 ∧ b = 28 ∧ y.extractLsb' 0 1 = 0 then some (.bara t d (y.extractLsb' 1 2)) else none
  | 7 => if b = 28 ∧ y.extractLsb' 0 1 = 0 then some (.barx t d a (y.extractLsb' 1 2)) else none
  | 8 => if b = 28 ∧ y.extractLsb' 0 1 = 0 then some (.barw t d a (y.extractLsb' 1 2)) else none
  | 9 => if y.extractLsb' 0 1 = 0 then some (.bart t d a b (y.extractLsb' 1 2)) else none
  | _ => none

/-- Opcodes 0xC0 to 0xCF (R228). -/
def decodeRowC (o : Nat) (t : BitVec 6) (d a b : BitVec 5) (y : BitVec 3) : Option Instr :=
  match o with
  | 0 => if y = 0 then some (.mmcmd t d a b) else none
  | 1 => if b = 28 ∧ y = 0 then some (.accrd t d a) else none
  | 2 => if b = 28 ∧ y = 0 then some (.accclr t d a) else none
  | 3 => if d = 28 ∧ a = 0 ∧ b = 0 ∧ y = 0 then some (.mxmodeLeave t)
      else if d = 28 ∧ a = 0 ∧ b = 0 ∧ y = 1 then some (.mxmodeEnter t) else none
  | 4 => if y = 0 then some (.cutRows t d a b) else if y = 1 then some (.cutCols t d a b)
      else if y = 2 then some (.cutContract t d a b) else none
  | 5 => some (.cutb t d (a ++ b ++ y))
  | 6 => if b = 28 ∧ y = 0 then some (.cutr t d a) else none
  | 7 => if y = 0 then some (.sphdr t d a b) else none
  | 8 => if b = 28 ∧ y = 0 then some (.kvapp t d a) else none
  | 9 => if b = 28 ∧ y = 0 then some (.kvseal t d a) else none
  | 10 => if y = 0 then some (.kvfork t d a b) else none
  | 11 => if a = 0 ∧ b = 0 then some (.retspanKeep t d y) else if a = 0 ∧ b = 1 then some (.retspanRewind t d y)
      else none
  | 12 => if y = 0 then some (.kvmask t d a b) else none
  | 13 => if y = 0 then some (.kvlook t d a b) else none
  | 14 => if a = 0 ∧ b = 0 then some (.kvtag t d y) else none
  | _ => if y = 0 then some (.kvpar t d a b) else none

/-- Opcodes 0xD0 to 0xDF (R228). -/
def decodeRowD (o : Nat) (t : BitVec 6) (d a b : BitVec 5) (y : BitVec 3) : Option Instr :=
  match o with
  | 0 => if b = 28 ∧ y = 0 then some (.ring t d a) else none
  | 1 => if y = 0 then some (.kvnext t d a b) else none
  | _ => none

/-- Opcodes 0xE0 to 0xEF (R228). -/
def decodeRowE (o : Nat) (t : BitVec 6) (d a b : BitVec 5) (y : BitVec 3) : Option Instr :=
  match o with
  | 0 => some (.br t (d ++ a ++ b ++ y))
  | 1 => some (.call t (d ++ a ++ b ++ y))
  | 2 => if d = 28 ∧ b = 28 ∧ y = 0 ∧ a ≠ 28 then some (.ret t a)
      else if d = 28 ∧ a = 28 ∧ b = 28 ∧ y = 0 then some (.retZ t) else none
  | 3 => if a = 28 then some (.loop t d (b ++ y)) else none
  | 4 => if d = 28 ∧ a = 28 ∧ b = 28 ∧ y = 0 then some (.halt t) else none
  | 5 => if a = 28 ∧ b = 28 ∧ y = 0 then some (.yield t d) else none
  | 6 => if d = 28 ∧ y = 0 then some (.sendm t a b) else none
  | 7 => if y = 0 then some (.sendmt t d a b) else none
  | 8 => if a = 28 ∧ b = 28 ∧ y = 0 then some (.recvm t d) else none
  | 9 => if d = 28 then some (.trap t (a ++ b ++ y)) else none
  | 10 => if a = 0 ∧ b = 0 ∧ y = 0 then some (.syscEcho t d)
      else if a = 0 ∧ b = 0 ∧ y = 1 then some (.syscSnap t d)
      else if a = 0 ∧ b = 0 ∧ y = 2 then some (.syscSediment t d)
      else if a = 0 ∧ b = 0 ∧ y = 3 then some (.syscQdepth t d) else some (.syscUnassigned t d (a ++ b ++ y))
  | 11 => some (.csrr t d (a ++ b ++ y))
  | 12 => some (.csrw t d (a ++ b ++ y))
  | 13 => if y = 0 then some (.cfgld t d a b) else none
  | 14 => if d = 28 ∧ y = 0 then some (.ctxsv t a b) else none
  | _ => if d = 28 ∧ y = 0 then some (.ctxrs t a b) else none

/-- Opcodes 0xF0 to 0xFF (R228). -/
def decodeRowF (o : Nat) (t : BitVec 6) (d a b : BitVec 5) (y : BitVec 3) : Option Instr :=
  match o with
  | 0 => if b = 28 ∧ y = 0 then some (.launch t d a) else none
  | 1 => if y = 0 then some (.fwait t d a b) else none
  | 2 => if d = 28 ∧ y = 0 then some (.fsig t a b) else none
  | 3 => some (.perfrd t d (a ++ b ++ y))
  | 4 => some (.trace t d (a ++ b ++ y))
  | 5 => if d = 28 then some (.brk t (a ++ b ++ y)) else none
  | 6 => if a = 28 ∧ b = 28 ∧ y = 0 then some (.migr t d) else none
  | 7 => if a = 0 ∧ b = 0 ∧ y = 0 then some (.timerArm t d)
      else if a = 0 ∧ b = 0 ∧ y = 1 then some (.timerRead t d)
      else if a = 0 ∧ b = 0 ∧ y = 2 then some (.timerDisarm t d) else none
  | 8 => if a = 0 ∧ b = 0 ∧ y = 0 then some (.idrdPartCode t d)
      else if a = 0 ∧ b = 0 ∧ y = 1 then some (.idrdStepping t d)
      else if a = 0 ∧ b = 0 ∧ y = 2 then some (.idrdPhysicalPosition t d)
      else if a = 0 ∧ b = 0 ∧ y = 3 then some (.idrdLogicalId t d)
      else if a = 0 ∧ b = 0 ∧ y = 4 then some (.idrdPartition t d)
      else if a = 0 ∧ b = 0 ∧ y = 5 then some (.idrdSpareMap t d)
      else if a = 0 ∧ b = 0 ∧ y = 6 then some (.idrdSerialLow t d)
      else if a = 0 ∧ b = 0 ∧ y = 7 then some (.idrdSerialHigh t d) else none
  | _ => none

/-- The instruction that the six fields of a word make, if any (R228, R229). -/
def decodeFields (t : BitVec 6) (o : BitVec 8) (d a b : BitVec 5) (y : BitVec 3) : Option Instr :=
  match o.toNat / 16 with
  | 0 => decodeRow0 (o.toNat % 16) t d a b y
  | 1 => decodeRow1 (o.toNat % 16) t d a b y
  | 2 => decodeRow2 (o.toNat % 16) t d a b y
  | 3 => decodeRow3 (o.toNat % 16) t d a b y
  | 4 => decodeRow4 (o.toNat % 16) t d a b y
  | 5 => decodeRow5 (o.toNat % 16) t d a b y
  | 6 => decodeRow6 (o.toNat % 16) t d a b y
  | 7 => decodeRow7 (o.toNat % 16) t d a b y
  | 8 => decodeRow8 (o.toNat % 16) t d a b y
  | 9 => decodeRow9 (o.toNat % 16) t d a b y
  | 10 => decodeRowA (o.toNat % 16) t d a b y
  | 11 => decodeRowB (o.toNat % 16) t d a b y
  | 12 => decodeRowC (o.toNat % 16) t d a b y
  | 13 => decodeRowD (o.toNat % 16) t d a b y
  | 14 => decodeRowE (o.toNat % 16) t d a b y
  | _ => decodeRowF (o.toNat % 16) t d a b y

/-- Decodes one word. -/
def decodeWord (w : W32) : Except Reject Instr :=
  match decodeFields (fieldT w) (fieldO w) (fieldD w) (fieldA w) (fieldB w) (fieldY w) with
  | some i => .ok i
  | none => .error (.noInstruction w)

/-- The little-endian word of the first four bytes (R220). -/
def wordOfBytes (a b c d : Byte) : W32 := d ++ c ++ b ++ a

/-- Decodes the instruction at the front of a run of bytes and gives the bytes left over. -/
def decode : List Byte → Except Reject (Instr × List Byte)
  | a :: b :: c :: d :: rest =>
    match decodeWord (wordOfBytes a b c d) with
    | .ok i => .ok (i, rest)
    | .error e => .error e
  | _ => .error .tooShort

/-- The word of an instruction, from the same encoding tables; the events and messages of the table have no word. -/
def encode : Instr → Option W32
  | .nop t => some (pack t 0x00 28 28 28 0)
  | .mov t d a y => some (pack t 0x01 d a 28 y)
  | .movi t d i => some (pack t 0x02 d (i.extractLsb' 8 5) (i.extractLsb' 3 5) (i.extractLsb' 0 3))
  | .movsh t d i => some (pack t 0x03 d (i.extractLsb' 8 5) (i.extractLsb' 3 5) (i.extractLsb' 0 3))
  | .add t d a b y => some (pack t 0x04 d a b y)
  | .addi t d a i => some (pack t 0x05 d a (i.extractLsb' 3 5) (i.extractLsb' 0 3))
  | .sub t d a b y => some (pack t 0x06 d a b y)
  | .adds t d a b y => some (pack t 0x07 d a b y)
  | .subs t d a b y => some (pack t 0x08 d a b y)
  | .mul t d a b y => some (pack t 0x09 d a b y)
  | .mulh t d a b y => some (pack t 0x0A d a b y)
  | .mad t d a b y => some (pack t 0x0B d a b y)
  | .div t d a b y => some (pack t 0x0C d a b y)
  | .rem t d a b y => some (pack t 0x0D d a b y)
  | .min t d a b y => some (pack t 0x0E d a b y)
  | .max t d a b y => some (pack t 0x0F d a b y)
  | .abs t d a y => some (pack t 0x10 d a 28 y)
  | .neg t d a y => some (pack t 0x11 d a 28 y)
  | .and t d a b y => some (pack t 0x12 d a b y)
  | .andi t d a i => some (pack t 0x13 d a (i.extractLsb' 3 5) (i.extractLsb' 0 3))
  | .or t d a b y => some (pack t 0x14 d a b y)
  | .ori t d a i => some (pack t 0x15 d a (i.extractLsb' 3 5) (i.extractLsb' 0 3))
  | .xor t d a b y => some (pack t 0x16 d a b y)
  | .andn t d a b y => some (pack t 0x17 d a b y)
  | .shl t d a b y => some (pack t 0x18 d a b y)
  | .shli t d a i => some (pack t 0x19 d a (i.extractLsb' 3 5) (i.extractLsb' 0 3))
  | .shr t d a b y => some (pack t 0x1A d a b y)
  | .shri t d a i => some (pack t 0x1B d a (i.extractLsb' 3 5) (i.extractLsb' 0 3))
  | .sar t d a b y => some (pack t 0x1C d a b y)
  | .clz t d a y => some (pack t 0x1D d a 28 y)
  | .popc t d a y => some (pack t 0x1E d a 28 y)
  | .bfx t d a b y => some (pack t 0x1F d a b y)
  | .bfi t d a b y => some (pack t 0x20 d a b y)
  | .sel t d a b y => some (pack t 0x21 d a b y)
  | .cmpeq t d a b y => some (pack t 0x22 d a b y)
  | .cmpne t d a b y => some (pack t 0x23 d a b y)
  | .cmplt t d a b y => some (pack t 0x24 d a b y)
  | .cmple t d a b y => some (pack t 0x25 d a b y)
  | .cmpeqi t d a i => some (pack t 0x26 d a (i.extractLsb' 3 5) (i.extractLsb' 0 3))
  | .cmplti t d a i => some (pack t 0x27 d a (i.extractLsb' 3 5) (i.extractLsb' 0 3))
  | .fadd t d a b y => some (pack t 0x30 d a b y)
  | .fsub t d a b y => some (pack t 0x31 d a b y)
  | .fmul t d a b y => some (pack t 0x32 d a b y)
  | .ffma t d a b y => some (pack t 0x33 d a b y)
  | .ffms t d a b y => some (pack t 0x34 d a b y)
  | .fmin t d a b y => some (pack t 0x35 d a b y)
  | .fmax t d a b y => some (pack t 0x36 d a b y)
  | .fabs t d a y => some (pack t 0x37 d a 28 y)
  | .fneg t d a y => some (pack t 0x38 d a 28 y)
  | .fcmpeq t d a b y => some (pack t 0x39 d a b y)
  | .fcmplt t d a b y => some (pack t 0x3A d a b y)
  | .fcmple t d a b y => some (pack t 0x3B d a b y)
  | .fcmpun t d a b y => some (pack t 0x3C d a b y)
  | .frcpe t d a y => some (pack t 0x3D d a 28 y)
  | .frsqe t d a y => some (pack t 0x3E d a 28 y)
  | .fexp2 t d a y => some (pack t 0x3F d a 28 y)
  | .flog2 t d a y => some (pack t 0x40 d a 28 y)
  | .fdiv t d a b y => some (pack t 0x41 d a b y)
  | .fsqrt t d a y => some (pack t 0x42 d a 28 y)
  | .frnd t d a y => some (pack t 0x43 d a 28 y)
  | .fclass t d a y => some (pack t 0x44 d a 28 y)
  | .fscl t d a b y => some (pack t 0x45 d a b y)
  | .cvt t d a c y => some (pack t 0x50 d a ((0 : BitVec 2) ++ c) y)
  | .cvts t d a c y => some (pack t 0x51 d a ((0 : BitVec 2) ++ c) y)
  | .pack t d a b y => some (pack t 0x52 d a b y)
  | .unpkl t d a y => some (pack t 0x53 d a 28 y)
  | .unpkh t d a y => some (pack t 0x54 d a 28 y)
  | .qnt t d a b y => some (pack t 0x55 d a b y)
  | .deq t d a b y => some (pack t 0x56 d a b y)
  | .qdot t d a b y => some (pack t 0x57 d a b y)
  | .scld t d a b y => some (pack t 0x58 d a b y)
  | .bcast t d a b y => some (pack t 0x60 d a b y)
  | .perm t d a b y => some (pack t 0x61 d a b y)
  | .lrot t d a i => some (pack t 0x62 d a (i.extractLsb' 3 5) (i.extractLsb' 0 3))
  | .rsum t d a y => some (pack t 0x63 d a 28 y)
  | .rmax t d a y => some (pack t 0x64 d a 28 y)
  | .rmin t d a y => some (pack t 0x65 d a 28 y)
  | .scan t d a y => some (pack t 0x66 d a 28 y)
  | .filter t d a y => some (pack t 0x67 d a 28 y)
  | .coal t d a y => some (pack t 0x68 d a 28 y)
  | .mskg t d a y => some (pack t 0x69 d a 28 y)
  | .msks t d a b y => some (pack t 0x6A d a b y)
  | .laneid t d y => some (pack t 0x6B d 28 28 y)
  | .insl t d a i => some (pack t 0x6C d a (i.extractLsb' 3 5) (i.extractLsb' 0 3))
  | .extl t d a i => some (pack t 0x6D d a (i.extractLsb' 3 5) (i.extractLsb' 0 3))
  | .pset t m => some (pack t 0x70 28 0 (m.extractLsb' 3 5) (m.extractLsb' 0 3))
  | .pclr t m => some (pack t 0x71 28 0 (m.extractLsb' 3 5) (m.extractLsb' 0 3))
  | .pflip t m => some (pack t 0x72 28 0 (m.extractLsb' 3 5) (m.extractLsb' 0 3))
  | .ptest t p a => some (pack t 0x73 ((0 : BitVec 2) ++ p) a 28 0)
  | .pany t p a => some (pack t 0x74 ((0 : BitVec 2) ++ p) a 28 0)
  | .pall t p a => some (pack t 0x75 ((0 : BitVec 2) ++ p) a 28 0)
  | .pmovRead t d => some (pack t 0x76 d 28 28 0)
  | .pmovWrite t a => some (pack t 0x76 28 a 28 0)
  | .hdr t d a => some (pack t 0x80 d a 28 0)
  | .hdrt t d a b => some (pack t 0x81 d a b 0)
  | .hdrm t d a b => some (pack t 0x82 d a b 0)
  | .hdre t d a b => some (pack t 0x83 d a b 0)
  | .hdrf t d a b => some (pack t 0x84 d a b 0)
  | .hdrc t d a b => some (pack t 0x85 d a b 0)
  | .time t d a y => some (pack t 0x86 d a 28 y)
  | .endr t d a => some (pack t 0x87 d a 28 0)
  | .emit t d a b => some (pack t 0x88 d a b 0)
  | .drop t d a => some (pack t 0x89 d a 28 0)
  | .steer t d a b => some (pack t 0x8A d a b 0)
  | .route t d a => some (pack t 0x8B d a 28 0)
  | .dmd t d a b => some (pack t 0x8C d a b 0)
  | .dmdr t d a b => some (pack t 0x8D d a b 0)
  | .dmdk t d a b => some (pack t 0x8E d a b 0)
  | .rtfw t d a b => some (pack t 0x8F d a b 0)
  | .mark t d a b => some (pack t 0x90 d a b 0)
  | .chkp t a => some (pack t 0x91 28 a 28 0)
  | .chkl t a => some (pack t 0x92 28 a 28 0)
  | .ldb t d a b s => some (pack t 0xA0 d a b s)
  | .stb t d a b s => some (pack t 0xA1 d a b s)
  | .ldbg t d a b s => some (pack t 0xA2 d a b s)
  | .stbs t d a b s => some (pack t 0xA3 d a b s)
  | .srd t d a => some (pack t 0xA4 d a 28 0)
  | .swr t a b => some (pack t 0xA5 28 a b 0)
  | .sgath t d a b => some (pack t 0xA6 d a b 0)
  | .sscat t a b => some (pack t 0xA7 28 a b 0)
  | .scls t d => some (pack t 0xA8 d 28 28 0)
  | .atomAdd t d a s => some (pack t 0xA9 d a 0 s)
  | .atomMin t d a s => some (pack t 0xA9 d a 1 s)
  | .atomMax t d a s => some (pack t 0xA9 d a 2 s)
  | .atomXchg t d a s => some (pack t 0xA9 d a 3 s)
  | .atomAnd t d a s => some (pack t 0xA9 d a 4 s)
  | .atomOr t d a s => some (pack t 0xA9 d a 5 s)
  | .atomFadd t d a s => some (pack t 0xA9 d a 6 s)
  | .atomPair t d a b s => some (pack t 0xA9 d ((2 : BitVec 2) ++ a) b (s ++ (0 : BitVec 1)))
  | .atomrAdd t d a s => some (pack t 0xAA d a 0 s)
  | .atomrMin t d a s => some (pack t 0xAA d a 1 s)
  | .atomrMax t d a s => some (pack t 0xAA d a 2 s)
  | .atomrXchg t d a s => some (pack t 0xAA d a 3 s)
  | .atomrAnd t d a s => some (pack t 0xAA d a 4 s)
  | .atomrOr t d a s => some (pack t 0xAA d a 5 s)
  | .cas t d a b s => some (pack t 0xAB d a b s)
  | .empty t d a b s => some (pack t 0xAC d a b (s ++ (0 : BitVec 1)))
  | .ldg t d a b => some (pack t 0xAD d a b 0)
  | .stg t d a b => some (pack t 0xAE d a b 0)
  | .cpy t d a b s => some (pack t 0xAF d a b (s ++ (0 : BitVec 1)))
  | .cpys t d a b s => some (pack t 0xB0 d a b (s ++ (0 : BitVec 1)))
  | .cpyq t d a b s => some (pack t 0xB1 d a b (s ++ (0 : BitVec 1)))
  | .pref t a b => some (pack t 0xB2 28 a b 0)
  | .fence t s => some (pack t 0xB3 28 0 0 s)
  | .waitne t d a b s => some (pack t 0xB4 d a b s)
  | .bari t d a s => some (pack t 0xB5 d a 28 (s ++ (0 : BitVec 1)))
  | .bara t d s => some (pack t 0xB6 d 28 28 (s ++ (0 : BitVec 1)))
  | .barx t d a s => some (pack t 0xB7 d a 28 (s ++ (0 : BitVec 1)))
  | .barw t d a s => some (pack t 0xB8 d a 28 (s ++ (0 : BitVec 1)))
  | .bart t d a b s => some (pack t 0xB9 d a b (s ++ (0 : BitVec 1)))
  | .mmcmd t d a b => some (pack t 0xC0 d a b 0)
  | .accrd t d a => some (pack t 0xC1 d a 28 0)
  | .accclr t d a => some (pack t 0xC2 d a 28 0)
  | .mxmodeLeave t => some (pack t 0xC3 28 0 0 0)
  | .mxmodeEnter t => some (pack t 0xC3 28 0 0 1)
  | .cutRows t d a b => some (pack t 0xC4 d a b 0)
  | .cutCols t d a b => some (pack t 0xC4 d a b 1)
  | .cutContract t d a b => some (pack t 0xC4 d a b 2)
  | .cutb t d s => some (pack t 0xC5 d (s.extractLsb' 8 5) (s.extractLsb' 3 5) (s.extractLsb' 0 3))
  | .cutr t d a => some (pack t 0xC6 d a 28 0)
  | .sphdr t d a b => some (pack t 0xC7 d a b 0)
  | .kvapp t d a => some (pack t 0xC8 d a 28 0)
  | .kvseal t d a => some (pack t 0xC9 d a 28 0)
  | .kvfork t d a b => some (pack t 0xCA d a b 0)
  | .retspanKeep t d g => some (pack t 0xCB d 0 0 g)
  | .retspanRewind t d g => some (pack t 0xCB d 0 1 g)
  | .kvmask t d a b => some (pack t 0xCC d a b 0)
  | .kvlook t d a b => some (pack t 0xCD d a b 0)
  | .kvtag t d g => some (pack t 0xCE d 0 0 g)
  | .kvpar t d a b => some (pack t 0xCF d a b 0)
  | .ring t d a => some (pack t 0xD0 d a 28 0)
  | .kvnext t d a b => some (pack t 0xD1 d a b 0)
  | .br t o => some (pack t 0xE0 (o.extractLsb' 13 5) (o.extractLsb' 8 5) (o.extractLsb' 3 5) (o.extractLsb' 0 3))
  | .call t o => some (pack t 0xE1 (o.extractLsb' 13 5) (o.extractLsb' 8 5) (o.extractLsb' 3 5) (o.extractLsb' 0 3))
  | .ret t a => some (pack t 0xE2 28 a 28 0)
  | .retZ t => some (pack t 0xE2 28 28 28 0)
  | .loop t d i => some (pack t 0xE3 d 28 (i.extractLsb' 3 5) (i.extractLsb' 0 3))
  | .halt t => some (pack t 0xE4 28 28 28 0)
  | .yield t d => some (pack t 0xE5 d 28 28 0)
  | .sendm t a b => some (pack t 0xE6 28 a b 0)
  | .sendmt t d a b => some (pack t 0xE7 d a b 0)
  | .recvm t d => some (pack t 0xE8 d 28 28 0)
  | .trap t c => some (pack t 0xE9 28 (c.extractLsb' 8 5) (c.extractLsb' 3 5) (c.extractLsb' 0 3))
  | .syscEcho t d => some (pack t 0xEA d 0 0 0)
  | .syscSnap t d => some (pack t 0xEA d 0 0 1)
  | .syscSediment t d => some (pack t 0xEA d 0 0 2)
  | .syscQdepth t d => some (pack t 0xEA d 0 0 3)
  | .syscUnassigned t d code => some (pack t 0xEA d (code.extractLsb' 8 5) (code.extractLsb' 3 5) (code.extractLsb' 0 3))
  | .csrr t d s => some (pack t 0xEB d (s.extractLsb' 8 5) (s.extractLsb' 3 5) (s.extractLsb' 0 3))
  | .csrw t d s => some (pack t 0xEC d (s.extractLsb' 8 5) (s.extractLsb' 3 5) (s.extractLsb' 0 3))
  | .cfgld t d a b => some (pack t 0xED d a b 0)
  | .ctxsv t a b => some (pack t 0xEE 28 a b 0)
  | .ctxrs t a b => some (pack t 0xEF 28 a b 0)
  | .launch t d a => some (pack t 0xF0 d a 28 0)
  | .fwait t d a b => some (pack t 0xF1 d a b 0)
  | .fsig t a b => some (pack t 0xF2 28 a b 0)
  | .perfrd t d s => some (pack t 0xF3 d (s.extractLsb' 8 5) (s.extractLsb' 3 5) (s.extractLsb' 0 3))
  | .trace t d c => some (pack t 0xF4 d (c.extractLsb' 8 5) (c.extractLsb' 3 5) (c.extractLsb' 0 3))
  | .brk t c => some (pack t 0xF5 28 (c.extractLsb' 8 5) (c.extractLsb' 3 5) (c.extractLsb' 0 3))
  | .migr t d => some (pack t 0xF6 d 28 28 0)
  | .timerArm t d => some (pack t 0xF7 d 0 0 0)
  | .timerRead t d => some (pack t 0xF7 d 0 0 1)
  | .timerDisarm t d => some (pack t 0xF7 d 0 0 2)
  | .idrdPartCode t d => some (pack t 0xF8 d 0 0 0)
  | .idrdStepping t d => some (pack t 0xF8 d 0 0 1)
  | .idrdPhysicalPosition t d => some (pack t 0xF8 d 0 0 2)
  | .idrdLogicalId t d => some (pack t 0xF8 d 0 0 3)
  | .idrdPartition t d => some (pack t 0xF8 d 0 0 4)
  | .idrdSpareMap t d => some (pack t 0xF8 d 0 0 5)
  | .idrdSerialLow t d => some (pack t 0xF8 d 0 0 6)
  | .idrdSerialHigh t d => some (pack t 0xF8 d 0 0 7)
  | .packetDiscard .. | .packetTrim .. | .messageNoEndpoint .. | .firstMessageNotHello .. | .helloSetup ..
  | .helloCredit .. | .launchMessage .. | .request .. | .fenceRead .. | .fenceRaise ..
  | .fenceWait .. | .mapPages .. | .mapUnmap .. | .mapThreshold .. | .pin ..
  | .unpin .. | .dumpreadCleartext .. | .dumpreadBody .. | .dumpreadSediment .. | .dumpreadWakeRing ..
  | .dumpreadRelease .. | .resync .. | .attest .. | .updatePiece .. | .updateCommit ..
  | .updateAbort .. | .firmwareSwitch | .partctlCreate .. | .partctlResize .. | .partctlDelete ..
  | .partctlReset .. | .partctlSpareRemap .. | .powerOn | .powerwarn | .linkdown ..
  | .linkup .. | .chaindownTimeout .. | .launchDispatch | .helmStart .. | .preempt ..
  | .quiescentPreempt .. | .migrationRequest .. | .migrationCut .. | .migrationTimeout .. | .launchRestore ..
  | .launchEnd .. | .snapCutPost .. | .elementSave .. | .helmSave .. | .sourceMarkerInject ..
  | .cutComplete .. | .windowApply .. | .saveAbort .. | .tokenArrival .. | .tokenSend ..
  | .conversionReturn .. | .operationComplete .. | .demandArrival .. | .demandHeldRelease .. | .streamReadComplete ..
  | .chainHopAdd .. | .matrixMma .. | .matrixAccrd .. | .accrdResponse .. | .matrixAccclr ..
  | .matrixMarkerSave .. | .copyComplete .. | .bankWakeEnd .. | .bgateWrite .. | .obsctlStopWrite ..
  | .obsctlPrecWrite .. | .obsctlSperWrite .. | .obsbkWrite .. | .stillWrite .. | .mxregWrite ..
  | .registerWrite .. | .noticeConsWrite .. | .regionStop .. | .sample .. | .wheelRewrite ..
  | .governorDecision .. | .thermalRepost .. | .helmTimerExpiry .. | .trapEntry .. | .rollback ..
  | .rerunFaultStop .. | .fatalEnd .. | .dredgeComplete .. | .stillwaterHang .. | .hangesc ..
  | .sendring .. | .cfgStoreError .. | .cfgReloadComplete .. | .retire .. | .hbmue ..
  | .hbmScrub .. | .rowspare .. | .pcspare .. | .undefinedWord .. | .fetchFault
  | .connectionFailure .. | .unknownMessageType .. => none

/-- The four bytes of a word, lowest address first (R220). -/
def bytesOfWord (w : W32) : List Byte :=
  [w.extractLsb' 0 8, w.extractLsb' 8 8, w.extractLsb' 16 8, w.extractLsb' 24 8]

/-- What the decoder reads from a table row's bits `w`, laid out little-endian; every row with a word has 32 bits. -/
def decodeTableWord (nbits w : Nat) : Option Instr :=
  if nbits = 32 then
    match decode (bytesOfWord (BitVec.ofNat 32 w)) with
    | .ok (i, _) => some i
    | .error _ => none
  else none

end Sys2Proof
end

