-- ==== Sys2Proof/Machine/Static.lean ====
section
/-!
DEFINITION. Static faults: what a word alone determines, in the order of R386, with the causes of R387. The table gives
each assigned opcode its format (R229), the agents that may run it (R230, R274, R286), the types it takes (R243 and the
instruction's own rule) and the operand classes of D, A and B.
-/

namespace Sys2Proof.Machine

/-- Operand classes as a bit set: 1 vector, 2 scalar, 4 channel, 8 port, 16 z, 32 a channel named without dequeue,
64 predicate number, 128 code, 0 unused (must hold 28). -/
def classOf (c : Nat) : Nat :=
  if c < 8 then 1 else if c < 16 then 2 else if c < 24 then 4 else if c < 28 then 8 else if c = 28 then 16 else 0

/-- One row: opcode, format (0 A, 1 I, 2 L, 3 M, 4 J, 5 X), agents (0 both, 1 helm core, 2 element), types taken, and
the classes of D, A and B. -/
abbrev OpRow := Nat × Nat × Nat × Nat × Nat × Nat × Nat

/-- Any destination. -/
def clD : Nat := 27
/-- Any source. -/
def clS : Nat := 23
/-- An address source (R261). -/
def clA : Nat := 22
/-- A scalar or z. -/
def clZ : Nat := 18

/-- Types of the integer group with bytes (.tag where a listed type has an FMT, R223). -/
def tyIntQ : Nat := 0xE3
/-- Types of the integer group. -/
def tyInt : Nat := 0xC3
/-- Types of the float group. -/
def tyFlt : Nat := 0x9C

/-- Opcodes 0x00 to 0x58. -/
def opRows0 : List OpRow :=
  [(0x00, 0, 0, 1, 0, 0, 0), (0x01, 0, 0, 255, clD, clS, 0), (0x02, 2, 0, 0, 11, 0, 0), (0x03, 2, 0, 0, 3, 0, 0),
   (0x04, 0, 0, tyIntQ, clD, clS, clS), (0x05, 1, 0, 0, clD, clS, 0), (0x06, 0, 0, tyIntQ, clD, clS, clS),
   (0x07, 0, 0, tyIntQ, clD, clS, clS), (0x08, 0, 0, tyIntQ, clD, clS, clS), (0x09, 0, 0, tyInt, clD, clS, clS),
   (0x0A, 0, 0, tyInt, clD, clS, clS), (0x0B, 0, 0, tyInt, 3, clS, clS), (0x0C, 0, 0, tyInt, clD, clS, clS),
   (0x0D, 0, 0, tyInt, clD, clS, clS), (0x0E, 0, 0, tyIntQ, clD, clS, clS), (0x0F, 0, 0, tyIntQ, clD, clS, clS),
   (0x10, 0, 0, tyInt, clD, clS, 0), (0x11, 0, 0, tyInt, clD, clS, 0), (0x12, 0, 0, 255, clD, clS, clS),
   (0x13, 1, 0, 0, clD, clS, 0), (0x14, 0, 0, 255, clD, clS, clS), (0x15, 1, 0, 0, clD, clS, 0),
   (0x16, 0, 0, 255, clD, clS, clS), (0x17, 0, 0, 255, clD, clS, clS), (0x18, 0, 0, tyInt, clD, clS, clS),
   (0x19, 1, 0, 0, clD, clS, 0), (0x1A, 0, 0, tyInt, clD, clS, clS), (0x1B, 1, 0, 0, clD, clS, 0),
   (0x1C, 0, 0, tyInt, clD, clS, clS), (0x1D, 0, 0, tyInt, clD, clS, 0), (0x1E, 0, 0, tyInt, clD, clS, 0),
   (0x1F, 0, 0, tyInt, clD, clS, clS), (0x20, 0, 0, tyInt, 3, clS, clS), (0x21, 0, 0, 255, 3, clS, clS),
   (0x22, 0, 0, tyIntQ, clD, clS, clS), (0x23, 0, 0, tyIntQ, clD, clS, clS), (0x24, 0, 0, tyInt, clD, clS, clS),
   (0x25, 0, 0, tyInt, clD, clS, clS), (0x26, 1, 0, 0, clD, clS, 0), (0x27, 1, 0, 0, clD, clS, 0),
   (0x30, 0, 0, tyFlt, clD, clS, clS), (0x31, 0, 0, tyFlt, clD, clS, clS), (0x32, 0, 0, tyFlt, clD, clS, clS),
   (0x33, 0, 0, tyFlt, 3, clS, clS), (0x34, 0, 0, tyFlt, 3, clS, clS), (0x35, 0, 0, tyFlt, clD, clS, clS),
   (0x36, 0, 0, tyFlt, clD, clS, clS), (0x37, 0, 0, tyFlt, clD, clS, 0), (0x38, 0, 0, tyFlt, clD, clS, 0),
   (0x39, 0, 0, tyFlt, clD, clS, clS), (0x3A, 0, 0, tyFlt, clD, clS, clS), (0x3B, 0, 0, tyFlt, clD, clS, clS),
   (0x3C, 0, 0, tyFlt, clD, clS, clS), (0x3D, 0, 0, tyFlt, clD, clS, 0), (0x3E, 0, 0, tyFlt, clD, clS, 0),
   (0x3F, 0, 0, tyFlt, clD, clS, 0), (0x40, 0, 0, tyFlt, clD, clS, 0), (0x41, 0, 0, tyFlt, clD, clS, clS),
   (0x42, 0, 0, tyFlt, clD, clS, 0), (0x43, 0, 0, tyFlt, clD, clS, 0), (0x44, 0, 0, tyFlt, clD, clS, 0),
   (0x45, 0, 0, tyFlt, clD, clS, clS), (0x50, 0, 0, 0x5F, clD, clS, 128), (0x51, 0, 0, 0x5F, clD, clS, 128),
   (0x52, 0, 0, 0xB8, clD, clS, clS), (0x53, 0, 0, 0xB8, clD, clS, 0), (0x54, 0, 0, 0xB8, clD, clS, 0),
   (0x55, 0, 0, 0xA0, clD, clS, clS), (0x56, 0, 0, 0x84, clD, clS, clS), (0x57, 0, 0, 0x83, 3, clS, clS),
   (0x58, 0, 0, 0x84, clD, clS, clS)]

/-- Opcodes 0x60 to 0x92. -/
def opRows1 : List OpRow :=
  [(0x60, 0, 0, 255, clD, clS, clS), (0x61, 0, 0, 255, clD, clS, clS), (0x62, 1, 0, 0, 9, clS, 0),
   (0x63, 0, 0, 0x9F, clD, clS, 0), (0x64, 0, 0, 0x9F, clD, clS, 0), (0x65, 0, 0, 0x9F, clD, clS, 0),
   (0x66, 0, 0, 0x9F, 25, clS, 0), (0x67, 0, 0, 0xBF, clD, clS, 0), (0x68, 0, 0, 0xBF, 8, clS, 0),
   (0x69, 0, 0, 0x83, clD, clS, 0), (0x6A, 0, 0, 0xBF, clD, clS, clS), (0x6B, 0, 0, 0x83, 9, 0, 0),
   (0x6C, 1, 0, 0, 1, clS, 0), (0x6D, 1, 0, 0, clD, clS, 0), (0x70, 2, 0, 0, 0, 0, 0), (0x71, 2, 0, 0, 0, 0, 0),
   (0x72, 2, 0, 0, 0, 0, 0), (0x73, 0, 0, 1, 64, clS, 0), (0x74, 0, 0, 1, 64, clS, 0), (0x75, 0, 0, 1, 64, clS, 0),
   (0x76, 0, 0, 1, clD, clS, 0), (0x80, 0, 0, 1, 2, 6, 0), (0x81, 0, 0, 1, 2, 6, clZ), (0x82, 0, 0, 1, 2, 6, clZ),
   (0x83, 0, 0, 1, 2, 6, clZ), (0x84, 0, 0, 1, 2, 6, clZ), (0x85, 0, 0, 1, 2, 6, clZ), (0x86, 0, 0, 0x42, 3, 4, 0),
   (0x87, 0, 0, 1, 3, 4, 0), (0x88, 0, 0, 1, 8, 21, 6), (0x89, 0, 0, 1, 24, 4, 0), (0x8A, 0, 0, 1, 8, 4, clS),
   (0x8B, 0, 0, 1, 8, 4, 0), (0x8C, 0, 0, 1, 32, clZ, clZ), (0x8D, 0, 0, 1, 32, 1, clZ), (0x8E, 0, 0, 1, 32, 17, clZ),
   (0x8F, 0, 0, 1, 32, 1, clZ), (0x90, 0, 0, 1, 8, clZ, clZ), (0x91, 0, 2, 1, 0, 20, 0), (0x92, 0, 2, 1, 0, 4, 0)]

/-- Opcodes 0xA0 to 0xD1. -/
def opRows2 : List OpRow :=
  [(0xA0, 3, 0, 0, 3, clA, clA), (0xA1, 3, 0, 0, 3, clA, clA), (0xA2, 3, 0, 0, 1, clA, 5), (0xA3, 3, 0, 0, 1, clA, 5),
   (0xA4, 3, 0, 0, 8, 1, 0), (0xA5, 3, 0, 0, 0, 4, 1), (0xA6, 3, 0, 0, 9, 5, 1), (0xA7, 3, 0, 0, 0, 5, 1),
   (0xA8, 3, 0, 0, 8, 0, 0), (0xA9, 3, 0, 0, 26, clA, 128), (0xAA, 3, 0, 0, 2, clA, 128), (0xAB, 3, 0, 0, 2, clA, clZ),
   (0xAC, 3, 0, 0, clZ, clA, clA), (0xAD, 3, 1, 0, 3, clA, clA), (0xAE, 3, 1, 0, 3, clA, clA), (0xAF, 3, 1, 0, clZ, 1, clZ),
   (0xB0, 3, 1, 0, 1, 1, clZ), (0xB1, 3, 1, 0, clZ, clZ, clZ), (0xB2, 3, 0, 0, 0, clA, clA), (0xB3, 5, 0, 0, 0, 0, 0),
   (0xB4, 3, 0, 0, clZ, clA, clZ), (0xB5, 3, 1, 0, clZ, clZ, 0), (0xB6, 3, 1, 0, clZ, 0, 0), (0xB7, 3, 1, 0, clZ, clZ, 0),
   (0xB8, 3, 1, 0, clZ, clZ, 0), (0xB9, 3, 1, 0, 2, clZ, clZ), (0xC0, 0, 0, 1, 24, 5, 2), (0xC1, 0, 0, 1, 24, 2, 0),
   (0xC2, 0, 0, 1, 24, 2, 0), (0xC3, 2, 1, 0, 0, 0, 0), (0xC4, 3, 0, 0, 24, 2, 2), (0xC5, 5, 0, 0, 2, 0, 0),
   (0xC6, 0, 0, 1, 24, clZ, 0), (0xC7, 0, 0, 1, clZ, clZ, clZ), (0xC8, 0, 0, 1, 19, 2, 0), (0xC9, 0, 0, 1, clZ, 2, 0),
   (0xCA, 0, 0, 1, clZ, 2, 2), (0xCB, 2, 0, 0, 2, 0, 0), (0xCC, 0, 0, 1, 3, 2, 2), (0xCD, 0, 0, 1, 1, 2, clZ),
   (0xCE, 2, 0, 0, 2, 0, 0), (0xCF, 0, 0, 1, clZ, 2, clZ), (0xD0, 0, 0, 1, 8, 6, 0), (0xD1, 0, 0, 1, 1, 2, clZ)]

/-- Opcodes 0xE0 to 0xF8. -/
def opRows3 : List OpRow :=
  [(0xE0, 4, 1, 0, 256, 0, 0), (0xE1, 4, 1, 0, 256, 0, 0), (0xE2, 0, 1, 1, 0, clZ, 0), (0xE3, 1, 1, 0, 2, 0, 0),
   (0xE4, 0, 1, 1, 0, 0, 0), (0xE5, 0, 1, 1, clZ, 0, 0), (0xE6, 0, 1, 1, 0, 1, clZ), (0xE7, 0, 1, 1, 2, 1, clZ),
   (0xE8, 0, 1, 1, 1, 0, 0), (0xE9, 2, 0, 0, 0, 0, 0), (0xEA, 2, 1, 0, 2, 0, 0), (0xEB, 5, 1, 0, 2, 0, 0),
   (0xEC, 5, 1, 0, 2, 0, 0), (0xED, 0, 1, 1, clZ, clZ, clZ), (0xEE, 0, 1, 1, 0, clZ, clZ), (0xEF, 0, 1, 1, 0, clZ, clZ),
   (0xF0, 0, 1, 1, 2, clZ, 0), (0xF1, 0, 1, 1, clZ, clZ, clZ), (0xF2, 0, 0, 1, 0, clZ, clZ), (0xF3, 5, 0, 0, 2, 0, 0),
   (0xF4, 2, 0, 0, 2, 0, 0), (0xF5, 2, 0, 0, 0, 0, 0), (0xF6, 0, 1, 1, clZ, 0, 0), (0xF7, 5, 1, 0, clZ, 0, 0),
   (0xF8, 5, 0, 0, 2, 0, 0)]

/-- The row of an opcode; `none` for an unassigned cell of R228. -/
def opRow (o : Nat) : Option OpRow :=
  (if o < 0x60 then opRows0 else if o < 0xA0 then opRows1 else if o < 0xE0 then opRows2 else opRows3).find?
    (fun r => r.1 == o)

/-- A system register selector of R325. -/
def csrOk (s : Nat) : Bool :=
  s ≤ 0x00D || (0x010 ≤ s && s ≤ 0x017) || (0x020 ≤ s && s ≤ 0x025) || (0x028 ≤ s && s ≤ 0x02C)

/-- The operand codes of a word by its format: D, A, B, where the format has them. -/
def wordCodes (fmt : Nat) (w : W32) : List Nat :=
  let d := (fieldD w).toNat
  let a := (fieldA w).toNat
  let b := (fieldB w).toNat
  if fmt = 0 || fmt = 3 then [d, a, b] else if fmt = 1 then [d, a] else if fmt = 4 then [] else [d]

/-- A field that holds an operand code. -/
def isOpnd (cl : Nat) : Bool := cl != 0 && cl < 64

/-- Vector-shaped (R241): some operand code names neither a scalar nor z; LROT, INSL and EXTL always are. In format I
a scalar D alone makes the instruction scalar-shaped. -/
def vecShaped (o fmt : Nat) (cls : List Nat) (codes : List Nat) : Bool :=
  if o = 0x62 || o = 0x6C || o = 0x6D then true
  else if fmt = 1 || fmt = 2 then (match codes with | c :: _ => classOf c != 2 | [] => false)
  else (cls.zip codes).any (fun x => isOpnd x.1 && classOf x.2 != 2 && classOf x.2 != 16)

/-- The first index at which a test holds. -/
def firstAt {α : Type} (p : α → Bool) : List α → Nat → Option Nat
  | [], _ => none
  | x :: xs, k => if p x then some k else firstAt p xs (k + 1)

/-- Reserved bits of IMM13 or SEL13 (R227). -/
def immReserved (o imm : Nat) : Bool :=
  if o = 0x70 || o = 0x71 || o = 0x72 then imm ≥ 256
  else if o = 0xC3 then imm ≥ 2
  else if o = 0xCE then imm ≥ 8
  else if o = 0xCB then imm ≥ 16
  else if o = 0xB3 then imm ≥ 8
  else false

/-- Step 4 of R386: a field that must hold a fixed value does not; the argument of RSVFIELD. -/
def reservedField (o : Nat) (cls codes : List Nat) (w : W32) : Option Nat :=
  let sz := (fieldY w).toNat
  match firstAt (fun x : Nat × Nat => x.1 == 0 && x.2 != 28) (cls.zip codes) 0 with
  | some k => some k
  | none =>
    if (o = 0x73 || o = 0x74 || o = 0x75) && (fieldD w).toNat ≥ 8 then some 0
    else if (o = 0x50 || o = 0x51) && (fieldB w).toNat ≥ 8 then some 2
    else if (o = 0xA4 || o = 0xA5 || o = 0xA6 || o = 0xA7 || o = 0xA8 || o = 0xAD || o = 0xAE || o = 0xB2) && sz ≠ 0
    then some 3
    else if (o = 0xAC || o = 0xAF || o = 0xB0 || o = 0xB1 || (0xB5 ≤ o && o ≤ 0xB9)) && sz % 2 = 1 then some 3
    else if (o = 0xA9 || o = 0xAA || o = 0xAB || o = 0xB4) && sz / 2 ≠ 3 && sz % 2 = 1 then some 3
    else if immReserved o (Bits.nat w 12 0) then some 4
    else none

/-- Step 5 of R386: an unassigned selector or code; the value (R387). -/
def reservedSel (o : Nat) (w : W32) : Option Nat :=
  let sz := (fieldY w).toNat
  let b := (fieldB w).toNat
  let sel := Bits.nat w 12 0
  if (o = 0xA9 || o = 0xAA) && b ≥ 7 then some b
  else if o = 0xAA && b = 6 then some 6
  else if (o = 0x50 || o = 0x51) && (b % 8 = 5 || b % 8 = 7) then some (b % 8)
  else if (0xA0 ≤ o && o ≤ 0xA3) && sz / 2 = 3 then some sz
  else if (0xB5 ≤ o && o ≤ 0xB9) && (sz / 2 = 0 || sz / 2 = 3) then some sz
  else if (o = 0xAF || o = 0xB0 || o = 0xB1) && sz / 2 = 2 then some sz
  else if o = 0xC4 && sz ≥ 3 then some sz
  else if o = 0xB3 && sel % 8 ≥ 5 then some sel
  else if o = 0xC5 && sel ≥ 6 then some sel
  else if (o = 0xEB || o = 0xEC) && !csrOk sel then some sel
  else if o = 0xF3 && sel / 16 > 0x101 then some (sel / 16)
  else if o = 0xF7 && sel > 2 then some sel
  else if o = 0xF8 && sel > 7 then some sel
  else none

/-- Instructions of R242 that may write a scalar while vector-shaped. -/
def toScalar (o : Nat) : Bool := o = 0x63 || o = 0x64 || o = 0x65 || o = 0x6D || o = 0x69 || o = 0x76

/-- Step 7 of R386: an operand class not allowed in its place; the field. -/
def badClass (helm : Bool) (o fmt : Nat) (cls codes : List Nat) (w : W32) : Option Nat :=
  let d := (fieldD w).toNat
  let a := (fieldA w).toNat
  let ty := (fieldY w).toNat
  let bad := fun x : Nat × Nat =>
    if x.1 = 32 then !(16 ≤ x.2 && x.2 < 20) else isOpnd x.1 && classOf x.2 &&& x.1 == 0
  match firstAt bad (cls.zip codes) 0 with
  | some k => some k
  | none =>
    let chap13 := o ≤ 0x76
    if chap13 && fmt = 0 && classOf d = 2 && !toScalar o && isOpnd (cls.headD 0) && vecShaped o fmt cls codes
    then some 0
    else if chap13 && fmt = 1 && o ≠ 0x62 && o ≠ 0x6C && o ≠ 0x6D && classOf d = 2 && classOf a ≠ 2 && classOf a ≠ 16
    then some 1
    else if o = 0x76 && d ≠ 28 && a ≠ 28 then some 0
    else if o = 0x8A && d = 27 then some 0
    else if o = 0x86 && (decide (ty = 6) != decide (classOf d = 2)) then some 0
    else if o = 0xA9 && classOf d ≠ 2 && classOf a ≠ 4 then some 0
    else if o = 0xA9 && classOf d ≠ 2 && (helm || ty / 2 = 3) then some 1
    else none

/-- The static fault of a word in a helm core or in an element: cause and argument, by the first check of R386 that
fails. -/
def staticFault (helm : Bool) (w : W32) : Option (Nat × Nat) :=
  let o := (fieldO w).toNat
  match opRow o with
  | none => some (0x10, o)
  | some (_, fmt, mode, tys, cd, ca, cb) =>
    let ty := (fieldY w).toNat
    let codes := wordCodes fmt w
    let cls := if fmt = 4 then [] else [cd, ca, cb].take codes.length
    if (mode = 1 && !helm) || (mode = 2 && helm) then some (0x11, if helm then 1 else 0)
    else match firstAt (fun x : Nat × Nat => isOpnd x.1 && x.2 ≥ 29) (cls.zip codes) 0 with
    | some k => some (0x12, k)
    | none =>
      match reservedField o cls codes w with
      | some k => some (0x13, k)
      | none =>
        match reservedSel o w with
        | some v => some (0x14, v)
        | none =>
          if fmt = 0 && !tys.testBit ty then some (0x15, ty)
          else if fmt = 0 && o ≤ 0x76 && vecShaped o fmt cls codes && ty = 6 then some (0x15, 6)
          else if (o = 0x50 || o = 0x51) && vecShaped o fmt cls codes && (fieldB w).toNat % 8 = 6 then some (0x15, ty)
          else if fmt = 0 && ty = 7 && classOf (fieldA w).toNat ≠ 4 then some (0x15, 7)
          else
            match badClass helm o fmt cls codes w with
            | some k => some (0x16, k)
            | none =>
              let wsp := ((0xA0 ≤ o && o ≤ 0xA3) || o = 0xA9 || o = 0xAA || o = 0xAB || o = 0xAC || o = 0xB4)
                && ty / 2 = 0
              if wsp && (helm || !(o = 0xA0 || o = 0xA2 || o = 0xB4)) then some (0x17, 0) else none

end Sys2Proof.Machine
end

