-- ==== Sys2Proof/Machine/Operands.lean ====
section
/-!
DEFINITION. Operands of one context: registers, heads, lane sets, the effective type, the token an instruction fires
and the writing of a result (R216, R222, R241 to R243, R261).
-/

namespace Sys2Proof.Machine

/-! ## Headers (R35) -/

/-- KIND. -/
def hKind (h : W64) : Nat := Bits.nat h 63 62
/-- FMT. -/
def hFmt (h : W64) : Nat := Bits.nat h 61 59
/-- END. -/
def hEnd (h : W64) : Nat := Bits.nat h 58 56
/-- CTX. -/
def hCtx (h : W64) : Nat := Bits.nat h 55 52
/-- VMASK. -/
def hMask (h : W64) : BitVec 16 := h.extractLsb' 36 16
/-- T. -/
def hT (h : W64) : Nat := Bits.nat h 35 0

/-- A header from its fields. -/
def mkHdr (kind fmt en ctx : Nat) (m : BitVec 16) (t : Nat) : W64 :=
  (BitVec.ofNat 2 kind ++ BitVec.ofNat 3 fmt ++ BitVec.ofNat 3 en ++ BitVec.ofNat 4 ctx ++ m ++ BitVec.ofNat 36 t : W64)

/-- A header with VMASK replaced. -/
def hSetMask (h : W64) (m : BitVec 16) : W64 := Bits.put h 36 16 m.toNat
/-- A header with END replaced. -/
def hSetEnd (h : W64) (e : Nat) : W64 := Bits.put h 56 3 e
/-- A header with T replaced. -/
def hSetT (h : W64) (t : Nat) : W64 := Bits.put h 0 36 t

/-- A COORD head (R38). -/
def isCoord (h : W64) : Bool := hFmt h == 6

/-- The lanes a head validates: for COORD, VMASK[7:0] governs pair k, lanes k and k + 8 (R39, R241). -/
def laneMask (h : W64) : BitVec 16 :=
  if isCoord h then (hMask h).extractLsb' 0 8 ++ (hMask h).extractLsb' 0 8 else hMask h

/-- A data token with no valid lane and no end is never emitted (R39). -/
def dropped (t : Token) : Bool := hKind t.hdr == 0 && laneMask t.hdr == 0 && hEnd t.hdr == 0

/-- A data token as its producer writes it: in COORD, VMASK[15:8] equals VMASK[7:0] (R39; log 37). -/
def asFired (t : Token) : Token := if hKind t.hdr = 0 && isCoord t.hdr then { t with hdr := hSetMask t.hdr (laneMask t.hdr) } else t

/-! ## Registers and heads -/

/-- v register. -/
def getV (r : Regs) (k : Nat) : Lanes := vGet 0 r.v k
/-- s register. -/
def getS (r : Regs) (k : Nat) : W64 := vGet 0 r.s k
/-- Writes a v register. -/
def setV (r : Regs) (k : Nat) (x : Lanes) : Regs := { r with v := vSet r.v k x }
/-- Writes an s register. -/
def setS (r : Regs) (k : Nat) (x : W64) : Regs := { r with s := vSet r.s k x }

/-- Pair of a channel. -/
def nodePair (n : Node) (ch : Nat) : Pair := vGet Pair.reset n.pairs ch
/-- Port by number. -/
def nodePort (n : Node) (p : Nat) : Port := vGet Port.reset n.ports p

/-- The head of a pair: its oldest token, unless that token is away at a conversion node or has arrived in this cycle
(R68, R71, R81). -/
def pairHead (p : Pair) : Option Token :=
  match p.queue with
  | q :: _ => if q.away || q.new then none else some q.tok
  | [] => none

/-- The channel an operand code names. -/
def chanOf (c : Nat) : Nat := c % 4

/-- The head an operand code reads. -/
def headOf (n : Node) (c : Nat) : Option Token := if classOf c = 4 then pairHead (nodePair n (chanOf c)) else none

/-- Entries of an output queue in use at the start of the cycle: the open COAL token holds the last one, and an entry
that a send has freed in this cycle is not free before the next (R67, R71, R257). -/
def portUse (p : Port) : Nat := p.queue.length + (if p.coal.isSome then 1 else 0) + (if p.freed then 1 else 0)

/-- An output queue of two entries has a free one (R67); where the engine has put a cut's marker on a port whose binding
has ended, the port fires nothing before its agent has saved (R109). -/
def portFree (p : Port) : Bool := portUse p < 2 && !(p.cutHold && p.spb.isNone)

/-- The lanes of a source operand (R241). -/
def srcLanes (n : Node) (c : Nat) : Lanes :=
  match classOf c with
  | 1 => getV n.regs c
  | 2 => Lanes.ofFn (fun _ => (getS n.regs (c - 8)).setWidth 32)
  | 4 => match headOf n c with
    | some t => t.pay
    | none => 0
  | _ => 0

/-- The lane set of a source operand: a channel's VMASK, else every lane (R241). -/
def srcMask (n : Node) (c : Nat) : BitVec 16 :=
  match headOf n c with
  | some t => laneMask t.hdr
  | none => 0xFFFF

/-- An operand names a channel whose head is COORD, so that its lanes go in pairs (R39, R241). -/
def inPairs (n : Node) (c : Nat) : Bool := match headOf n c with | some t => isCoord t.hdr | none => false

/-- The scalar value of an operand: a scalar register, lane 0 of a vector or of a head zero-extended, z as 0
(R241, R261). -/
def srcVal (n : Node) (c : Nat) : W64 :=
  match classOf c with
  | 2 => getS n.regs (c - 8)
  | 1 | 4 => ((srcLanes n c).get 0).setWidth 64
  | _ => 0

/-- The header an operand gives: a scalar's bits or a head's header (R264). -/
def srcHdr (n : Node) (c : Nat) : W64 :=
  match headOf n c with
  | some t => t.hdr
  | none => srcVal n c

/-- Bit k of a lane set. -/
def maskBit (m : BitVec 16) (k : Nat) : Bool := m.getLsbD k

/-- A lane set from a predicate on lanes. -/
def maskOf (f : Nat → Bool) : BitVec 16 :=
  BitVec.ofNat 16 (((List.range 16).filter f).foldl (fun acc k => acc + 2 ^ k) 0)

/-- Lanes in the set from `x`, the others from `old` (R242). -/
def mergeLanes (m : BitVec 16) (x old : Lanes) : Lanes :=
  Lanes.ofFn (fun k => if maskBit m k then x.get k else old.get k)

/-! ## Types -/

/-- The type a .tag instruction takes from FMT: 0 to 5 as TY, 8 INT4a, 9 COORD; none for FMT 7 (R223, R243). -/
def tyOfFmt (f : Nat) : Option Nat :=
  match f with
  | 0 => some 2
  | 1 => some 3
  | 2 => some 4
  | 3 => some 5
  | 4 => some 8
  | 5 => some 0
  | 6 => some 9
  | _ => none

/-- The FMT of the token an instruction of a type fires (R216). -/
def fmtOfTy (ty : Nat) : Nat :=
  match ty with
  | 2 => 0
  | 3 => 1
  | 4 => 2
  | 5 => 3
  | 8 => 4
  | 9 => 6
  | _ => 5

/-- The move class, which alone takes FMT 4 and 6 (R243). -/
def isMove (o : Nat) : Bool := [0x01, 0x21, 0x60, 0x61, 0x62, 0x67, 0x68, 0x6A, 0x6C, 0x6D].contains o

/-- ILLTAG (R390). -/
def illTag (h : W64) : Trap := { cause := 0x19, arg := hFmt h, tval := h, hdr := h }

/-- The type of an instruction: TY, or for .tag the type of A's head, which the opcode must take (R243). -/
def effTy (n : Node) (o a y : Nat) : Except Trap Nat :=
  if y = 7 then
    match headOf n a with
    | none => .ok 0
    | some t =>
      match tyOfFmt (hFmt t.hdr) with
      | none => .error (illTag t.hdr)
      | some ty =>
        if ty ≥ 8 then (if isMove o then .ok ty else .error (illTag t.hdr))
        else match opRow o with
          | some (_, _, _, tys, _) => if tys.testBit ty then .ok ty else .error (illTag t.hdr)
          | none => .error (illTag t.hdr)
  else .ok y

/-- Width of an element of a type. -/
def eltWidth (ty : Nat) : Nat :=
  match ty with
  | 3 | 4 => 16
  | 5 => 8
  | 6 => 64
  | _ => 32

/-- Signed types: .i32 and .i64 (R246). -/
def tySigned (ty : Nat) : Bool := ty == 0 || ty == 6

/-- The floating format of a type. -/
def tyFmt (ty : Nat) : FFmt :=
  match ty with
  | 3 => ⟨8, 7⟩
  | 4 => ⟨5, 10⟩
  | _ => ⟨8, 23⟩

/-! ## Elements of a lane -/

/-- Element j of width w of a lane. -/
def eltOf (w : Nat) (x : W32) (j : Nat) : Nat := x.toNat / 2 ^ (w * j) % 2 ^ w

/-- Element functions: the elements of D, A and B give a result and its flags. -/
abbrev EltFn := Nat → Nat → Nat → Nat × BitVec 5

/-- An element function over the elements of a lane, element 0 lowest. -/
def onLaneGo (w : Nat) (f : EltFn) (d a b : W32) : Nat → Nat × BitVec 5
  | 0 => (0, 0)
  | j + 1 =>
    let r := onLaneGo w f d a b j
    let e := f (eltOf w d j) (eltOf w a j) (eltOf w b j)
    (r.1 + e.1 % 2 ^ w * 2 ^ (w * j), r.2 ||| e.2)

/-- An element function over one lane. -/
def onLane (w : Nat) (f : EltFn) (d a b : W32) : W32 × BitVec 5 :=
  let r := onLaneGo w f d a b (32 / w)
  (BitVec.ofNat 32 r.1, r.2)

/-- An element function over the lanes of a set; the other lanes are zero and raise nothing (R190, R242). -/
def onLanes (w : Nat) (f : EltFn) (m : BitVec 16) (d a b : Lanes) : Lanes × BitVec 5 :=
  let rs := (List.range 16).map (fun k =>
    if maskBit m k then onLane w f (d.get k) (a.get k) (b.get k) else ((0 : W32), (0 : BitVec 5)))
  (Lanes.ofList (rs.map (·.1)), rs.foldl (fun acc r => acc ||| r.2) 0)

/-! ## Results -/

/-- The upper half of a scalar result: copies of bit 31 for .i32, zeros otherwise (R241). -/
def extend (ty : Nat) (x : W32) : W64 := if ty = 0 then x.signExtend 64 else x.setWidth 64

/-- The header of the token fired: T, CTX and END of the first channel source (R216). -/
def fireHdr (n : Node) (a b ty : Nat) (m : BitVec 16) : W64 :=
  let fmt := fmtOfTy ty
  match headOf n a, headOf n b with
  | some t, _ | none, some t => mkHdr 0 fmt (hEnd t.hdr) (hCtx t.hdr) m (hT t.hdr)
  | none, none => mkHdr 0 fmt 0 0 m 0

/-- A result of the firing: flags checked against TEN (R191), then ORed into hs.fp (R190). -/
def withFlags (r : Regs) (fl : BitVec 5) : Except Trap Regs :=
  let hit := fl &&& fpTEN r.fp
  if hit = 0 then .ok { r with fp := fpRaise r.fp fl } else .error { cause := 0x06, arg := hit.toNat, tval := 0, hdr := 0 }

/-- A firing that writes registers only. -/
def fireRegs (r : Regs) : Fire := { regs := r, out := [], coal := none }

/-- A firing that writes registers and one token. -/
def fireTok (r : Regs) (port : Nat) (t : Token) (filt : Bool) : Fire :=
  { regs := r, out := [{ port := port, tok := t, filt := filt, dests := none, pos := none }], coal := none }

/-- Writes a vector-shaped result into D: lanes of the set into a vector register, one token on a port, nothing into z
(R242). -/
def writeVec (n : Node) (d a b ty : Nat) (m : BitVec 16) (x : Lanes) (fl : BitVec 5) (filt : Bool) :
    Except Trap Fire :=
  match withFlags n.regs fl with
  | .error t => .error t
  | .ok r =>
    match classOf d with
    | 1 => .ok (fireRegs (setV r d (mergeLanes m x (getV r d))))
    | 8 => .ok (fireTok r (d - 24) { hdr := fireHdr n a b ty m, pay := mergeLanes m x 0 } filt)
    | _ => .ok (fireRegs r)

/-- Writes a scalar result into D, or discards it (R241). -/
def writeScalar (n : Node) (d : Nat) (x : W64) (fl : BitVec 5) : Except Trap Fire :=
  match withFlags n.regs fl with
  | .error t => .error t
  | .ok r => .ok (fireRegs (if classOf d = 2 then setS r (d - 8) x else r))

/-- The shape of a format A compute instruction: scalar where D, A and B name scalars or z (R241). -/
def isScalarShape (codes : List Nat) : Bool := codes.all (fun c => classOf c == 2 || classOf c == 16)

/-- A lane-wise compute instruction: the effective type picks the element function (R241, R242). -/
def lanewise (o d a b y : Nat) (f : Nat → EltFn) (n : Node) : Except Trap Fire :=
  match effTy n o a y with
  | .error t => .error t
  | .ok ty =>
    let w := eltWidth ty
    if isScalarShape [d, a, b] then
      if ty = 6 then
        let r := f ty (srcVal n d).toNat (srcVal n a).toNat (srcVal n b).toNat
        writeScalar n d (BitVec.ofNat 64 r.1) r.2
      else
        let lo := fun c => (srcVal n c).setWidth 32
        let r := onLane w (f ty) (lo d) (lo a) (lo b)
        writeScalar n d (extend ty r.1) r.2
    else
      let m := srcMask n a &&& srcMask n b
      let r := onLanes w (f ty) m (srcLanes n d) (srcLanes n a) (srcLanes n b)
      writeVec n d a b ty m r.1 r.2 true

end Sys2Proof.Machine
end

