-- ==== Sys2Proof/Machine/Intervals.lean ====
section
/-!
DEFINITION. Sets of stream times: the entries of served, pending and demand sets, how they reduce a demand, merge, and
are served (R45, R52, R54 to R57).
-/

namespace Sys2Proof.Machine

/-- The bound that means the end of the stream (R44). -/
def streamEnd : Nat := 0xFFFFFFFFF

/-- An entry holds a time. -/
def ivHas (v : Ival) (ctx t : Nat) : Bool := v.ctx == ctx && v.lo ≤ t && t < v.hi && (t - v.lo) % v.step == 0

/-- Empty: nothing lies between the bounds (R45). -/
def ivEmpty (v : Ival) : Bool := v.hi ≤ v.lo

/-- The first time of an entry's grid at or above `t`. -/
def ivFrom (v : Ival) (t : Nat) : Nat := if t ≤ v.lo then v.lo else v.lo + (t - v.lo + v.step - 1) / v.step * v.step

/-- Whether an entry reduces a demand: of its CTX, and of step 1 or of the demand's own step and phase (R54). -/
def ivReduces (e d : Ival) : Bool :=
  e.ctx == d.ctx && (e.step == 1 || (e.step == d.step && e.lo % e.step == d.lo % d.step))

/-- The pieces of a demand that an entry leaves, each on the demand's own grid (R54). -/
def ivCut (e d : Ival) : List Ival :=
  if !ivReduces e d || e.hi ≤ d.lo || d.hi ≤ e.lo then [d]
  else
    ([{ d with hi := e.lo }, { d with lo := ivFrom d e.hi }] : List Ival).filter (fun v => !ivEmpty v)

/-- The pieces that a set leaves (R54). -/
def ivReduce (set : List Ival) (ds : List Ival) : List Ival := set.foldl (fun ds e => ds.flatMap (ivCut e)) ds

/-- Two entries of one step, CTX and phase that overlap or touch (R55). -/
def ivJoins (a b : Ival) : Bool :=
  a.ctx == b.ctx && a.step == b.step && a.lo % a.step == b.lo % b.step && a.lo ≤ b.hi && b.lo ≤ a.hi

/-- Merging, repeated until no two entries qualify; a merged entry keeps the earlier place (R55). -/
def ivMerge : Nat → List Ival → List Ival
  | 0, l => l
  | _ + 1, [] => []
  | k + 1, v :: l =>
    match l.find? (ivJoins v) with
    | some u => ivMerge k ({ v with lo := min v.lo u.lo, hi := max v.hi u.hi } :: l.erase u)
    | none => v :: ivMerge k l

/-- An entry united with a set (R55). -/
def ivAdd (l : List Ival) (v : Ival) : List Ival := ivMerge (2 * l.length + 2) (l ++ [v])

/-- A time has been served: each entry it lies in moves to its first time above, and an entry left empty frees its place
(R56). -/
def ivPass (l : List Ival) (ctx t : Nat) : List Ival :=
  (l.map (fun v => if v.ctx == ctx && v.lo ≤ t && t < v.hi then { v with lo := ivFrom v (t + 1) } else v)).filter
    (fun v => !ivEmpty v)

/-- An entry put before the first with a higher LO. -/
def ivInsert (v : Ival) : List Ival → List Ival
  | [] => [v]
  | u :: l => if v.lo < u.lo then v :: u :: l else u :: ivInsert v l

/-- Entries in ascending LO (R448). -/
def ivSort (l : List Ival) : List Ival := l.foldr ivInsert []

/-- The grids of pending entries on which a time lies. -/
def ivGrids (l : List Ival) (ctx t : Nat) : List Nat := ((l.filter (fun v => ivHas v ctx t)).map (·.step)).eraseDups

/-- A served set with one more time, and the entry dropped where a ninth would be needed: the one with the lowest HI
among those held (R56). -/
def servedAdd (l : List Ival) (v : Ival) : List Ival × Option Ival :=
  let m := ivAdd l v
  if m.length ≤ 8 then (ivSort m, none)
  else
    let low := l.foldl (fun (acc : Option Ival) x => match acc with | some y => if x.hi < y.hi then some x else some y | none => some x) none
    match low with
    | some x => (ivSort (m.erase x), some x)
    | none => (m, none)

end Sys2Proof.Machine
end

