-- ==== Sys2Proof/Machine/Ops.lean ====
section
/-!
DEFINITION. The named operations over the state that the meanings share: where things are, fault records and the wake
ring (R214, R365, R366), taking a trap and returning from one (R319, R368), element faults (R369), triggers (R73, R74,
R85), firing tokens (R37, R66, R395), and the issue of one instruction (R75, R86, R389).
-/

namespace Sys2Proof.Machine

/-! ## Places -/

/-- A region. -/
def getR (s : State) (r : Nat) : Region := aGet Region.reset s.regions r
/-- Writes a region. -/
def setR (s : State) (r : Nat) (x : Region) : State := { s with regions := aSet s.regions r x }
/-- A region's helm core. -/
def getH (s : State) (r : Nat) : Helm := (getR s r).helm
/-- Writes a region's helm core. -/
def setH (s : State) (r : Nat) (h : Helm) : State := setR s r { getR s r with helm := h }
/-- An element of a region. -/
def getE (s : State) (r e : Nat) : Elem := aGet Elem.reset (getR s r).elems e
/-- Writes an element. -/
def setE (s : State) (r e : Nat) (x : Elem) : State := setR s r { getR s r with elems := aSet (getR s r).elems e x }
/-- A context of an element, or the helm core's (element 256). -/
def getN (s : State) (r e c : Nat) : Node :=
  if e = 256 then (getH s r).node else aGet Node.reset (getE s r e).ctxs c
/-- Writes a context. -/
def setN (s : State) (r e c : Nat) (n : Node) : State :=
  if e = 256 then setH s r { getH s r with node := n } else setE s r e { getE s r e with ctxs := aSet (getE s r e).ctxs c n }
/-- Writes a pair of a context. -/
def setPair (n : Node) (ch : Nat) (p : Pair) : Node := { n with pairs := vSet n.pairs ch p }
/-- Writes a port of a context. -/
def setPort (n : Node) (k : Nat) (p : Port) : Node := { n with ports := vSet n.ports k p }

/-- The region, element, context and slot of an agent (R366: 0x100 for the helm core). A stream engine stands as a slot
number of 32 or more of the agent it serves. -/
def agentAt : Agent → Nat × Nat × Nat × Nat
  | .helm r => (r, 256, 0, 0)
  | .elem r e c slot => if e = 256 then (r, 256, 0, 0) else (r, e, c, slot % 32)

/-- SRC of an agent's fault (R366, R389, R417): 0 element, 1 helm core, 5 KV unit, 6 matrix node (element 257). -/
def srcOf (e cause : Nat) : Nat :=
  if [0x6E, 0x6F, 0x70, 0x71, 0x72, 0x73].contains cause then 5 else if e = 257 then 6 else if e = 256 then 1 else 0

/-- The executing agent's region. -/
def hereR (s : State) : Nat := (agentAt s.agent).1
/-- The executing agent's context. -/
def here (s : State) : Node := let a := agentAt s.agent; getN s a.1 a.2.1 a.2.2.1
/-- Writes the executing agent's context. -/
def setHere (s : State) (n : Node) : State := let a := agentAt s.agent; setN s a.1 a.2.1 a.2.2.1 n
/-- The agent is a helm core. -/
def isHelm (s : State) : Bool := match s.agent with | .helm _ => true | .elem .. => false

/-- Launch by number. -/
def getL (s : State) (l : Nat) : Option Launch := aFind s.launches l
/-- Writes a launch. -/
def setL (s : State) (l : Nat) (x : Launch) : State := { s with launches := aSet s.launches l x }
/-- The launch whose graph a region runs. -/
def launchOf (s : State) (r : Nat) : Option (Nat × Launch) :=
  match (getR s r).launch with
  | some l => (getL s l).map (fun x => (l, x))
  | none => none
/-- A partition. -/
def getP (s : State) (p : Nat) : Partition := aGet Partition.reset s.parts p
/-- Writes a partition. -/
def setP (s : State) (p : Nat) (x : Partition) : State := { s with parts := aSet s.parts p x }
/-- The partition a region belongs to: its launch's, else the one that owns the region; 0 where none does. -/
def partOf (s : State) (r : Nat) : Nat :=
  match launchOf s r with
  | some (_, l) => l.part
  | none => match s.parts.find? (fun e => e.2.present && e.2.regions.getLsbD r) with
    | some e => e.1
    | none => 0
/-- Regions of a launch. -/
def regionsOf (s : State) (l : Nat) : List Nat :=
  (s.regions.filter (fun e => e.2.launch == some l)).map (·.1)

/-- Physical reach and region of a logical region: 8 row + col unless mapped onto a spare (R27, log 7). -/
def physOf (s : State) (r : Nat) : Nat × Nat :=
  match s.spares.find? (fun e => e.1 == r) with
  | some e => (r / 64, 64 + e.2)
  | none => (r / 64, 8 * (r % 8) + r / 8 % 8)

/-- A fresh number for a free value (log 3). -/
def freshen (s : State) : Nat × State := (s.fresh, { s with fresh := s.fresh + 1 })

/-! ## Node map (R207, R208) -/

/-- The node map entry of a slot, or of the helm core (element 256). -/
def nodeEntry (s : State) (r e c slot : Nat) : Option (BitVec 128) := aFind (getR s r).nmap (e * 512 + c * 32 + slot)
/-- NODE, or all ones where the key has no entry. -/
def nodeNum (s : State) (r e c slot : Nat) : W32 :=
  match nodeEntry s r e c slot with
  | some x => x.extractLsb' 96 32
  | none => 0xFFFFFFFF

/-! ## Views of global memory (R132, R133) -/

/-- The launch in whose window an access is seen; none for .sys and for agents outside a graph. -/
def viewOf (s : State) (r : Nat) (sys : Bool) : Option Nat := if sys then none else (getR s r).launch

/-- A byte as a graph sees it: its open window, then the windows committed and not yet applied, then memory. -/
def viewByte (s : State) (l : Option Nat) (pa : Nat) : Byte :=
  match l.bind (getL s) with
  | none => memRead s.hbm pa
  | some x => (((x.win :: (x.commits.map (·.2.1)).reverse).findSome? (fun w => ovRead w pa))).getD (memRead s.hbm pa)

/-- Bytes as a graph sees them. -/
def viewBytes (s : State) (l : Option Nat) (pa n : Nat) : List Byte := (List.range n).map (fun k => viewByte s l (pa + k))

/-- A number of n bytes as a graph sees it. -/
def viewNat (s : State) (l : Option Nat) (pa n : Nat) : Nat := Bits.ofBytes (viewBytes s l pa n)

/-! ## Armed waits on memory (R180, R332) -/

/-- Region of an agent. -/
def agentR (a : Agent) : Nat := (agentAt a).1

/-- View of an armed access. -/
def armView (s : State) (a : Arm) : Option Nat := viewOf s (agentR a.who) a.sys

/-- An armed wait on a global word that a write of memory has changed: a WAITNE whose word differs, or an FWAIT whose counter
has come up, has its answer (R180, R332). -/
def nudgeArm (s : State) (pa n : Nat) (a : Arm) : Arm :=
  let far := pa + n ≤ a.addr || a.addr + (if a.kind == .fence then 8 else 4) ≤ pa
  if a.space != 3 || a.released.isSome || far || !a.need.isEmpty || !a.more.isEmpty then a
  else match a.kind with
    | .waitNe =>
      let x := viewNat s (armView s a) a.addr 4
      if x = a.operand.toNat then a else { a with released := some (BitVec.ofNat 64 x) }
    | .fence =>
      let x := memNat s.hbm a.addr 8
      if x < a.operand.toNat then a else { a with released := some (BitVec.ofNat 64 x) }
    | .read | .atomic | .barrier => a

/-- The waits on the words of a write that the device makes to memory are checked again. -/
def nudge (s : State) (pa n : Nat) : State := { s with arms := s.arms.map (nudgeArm s pa n) }

/-! ## Records in memory -/

/-- A physical address lies in a sector of a COMP page (R139). -/
def inComp (s : State) (pa : Nat) : Bool := s.comps.any (fun c => c.1 ≤ pa && pa < c.1 + c.2)
/-- CLEN of a sector after a write: 0 for one that is all zero (R139; log 14). -/
def sectorCode (m : Mem) (pa : Nat) : Nat :=
  let bs := memReadN m (pa / 4096 * 4096) 4096
  if bs.all (· == 0) then 0 else (Config.clen bs).toNat + 1
/-- The sectors of COMP pages that n bytes at an address touch are coded again (R139). -/
def recode (s : State) (pa n : Nat) : State :=
  if s.comps.isEmpty then s
  else
    let one := fun (c : Assoc Nat) (k : Nat) =>
      let a := (pa / 4096 + k) * 4096
      if inComp s a then aSet c (a / 4096) (sectorCode s.hbm a) else c
    { s with clen := (List.range ((pa + n + 4095) / 4096 - pa / 4096)).foldl one s.clen }
/-- The device writes bytes at a physical address. -/
def hbmPut (s : State) (pa : Nat) (bs : List Byte) : State :=
  nudge (recode { s with hbm := memWriteN s.hbm pa bs } pa bs.length) pa bs.length
/-- Writes a number of n bytes at a physical address. -/
def hbmPutNat (s : State) (pa n v : Nat) : State := hbmPut s pa (Bits.bytesOf n v)

/-- Fields placed in a wide number: position, width, value. -/
def packFields : List (Nat × Nat × Nat) → Nat
  | [] => 0
  | (lo, w, v) :: fs => v % 2 ^ w * 2 ^ lo + packFields fs

/-- An area of a partition: virtual address, physical address, count (R34). -/
def areaOf (p : Partition) (k : Nat) : Nat × Nat × Nat := p.areas.getD k (0, 0, 0)

/-- Appends an entry to the sediment record, which keeps its newest 8,192 entries (R429, R430): DEV is set for an event
with no partition. -/
def sedimentAdd (s : State) (ltag : W64) (code cls part dev lid src : Nat) (tval : W64) : State :=
  let e := BitVec.ofNat 256 (packFields [(192, 64, s.now), (128, 64, tval.toNat), (64, 64, ltag.toNat),
    (32, 32, s.sedSeq), (24, 8, code), (22, 2, cls), (17, 5, part), (16, 1, dev), (8, 8, lid), (4, 4, src), (0, 1, 1)])
  { s with sediment := (s.sediment ++ [e]).drop (s.sediment.length + 1 - 8192), sedSeq := (s.sedSeq + 1) % 2 ^ 32 }

/-- Whether a record is also copied into the sediment record (R430). -/
def toSediment (cls code : Nat) : Bool :=
  cls == 2 || (0x80 ≤ code && code ≤ 0x8F) || code == 0x0F || code == 0x4F || code == 0x68

/-- Writes a record into a partition's fault ring, and its copy into the sediment record (R365, R366, R430): LTAG, the
window, and the fields of its place as positions, widths and values. A partition without a ring keeps none. -/
def putRec (s : State) (part : Nat) (ltag : W64) (window lid : Nat) (place : List (Nat × Nat × Nat))
    (src stack cls : Nat) (t : Trap) : State :=
  let s := if toSediment cls t.cause then sedimentAdd s ltag t.cause cls part 0 lid src t.tval else s
  let p := getP s part
  let ar := areaOf p 1
  let w := packFields ([(448, 64, s.now), (384, 64, t.hdr.toNat), (320, 64, window), (256, 64, t.tval.toNat),
    (139, 8, lid), (134, 5, part), (64, 64, ltag.toNat), (56, 8, t.cause), (54, 2, cls), (41, 13, t.arg), (37, 4, src),
    (34, 3, stack), (0, 1, 1)] ++ place)
  let s := setP s part { p with lastRec := BitVec.ofNat 512 w }
  if ar.2.2 = 0 then s
  else
    let s := hbmPutNat s (ar.2.1 + 64 + 64 * (p.faultProd % ar.2.2)) 64 w
    let s := hbmPutNat s ar.2.1 8 (p.faultProd + 1)
    setP s part { getP s part with faultProd := p.faultProd + 1 }

/-- A record of an event that has no region: SRC 2 and 3 name a stack (R366). -/
def partRec (s : State) (part : Nat) (ltag : W64) (window src stack cls : Nat) (t : Trap) : State :=
  putRec s part ltag window 0 [(156, 9, 0x1FF)] src stack cls t

/-- A record of an event with no partition, which the sediment record alone keeps (R420). -/
def devRec (s : State) (code cls src : Nat) (tval : W64) : State := sedimentAdd s 0 code cls 0 1 0 src tval

/-- A record of a launch with no region of its own. -/
def launchRec (s : State) (l : Nat) (src cls : Nat) (t : Trap) : State :=
  match getL s l with
  | some x => partRec s x.part x.ltag x.window src 0 cls t
  | none => s

/-- A typed-buffer error of a region is counted towards its retirement (R403, R413, R415). -/
def bufErr (s : State) (r cause : Nat) : State :=
  if cause = 0x69 || cause = 0x6B then setR s r { getR s r with bufErrTimes := (getR s r).bufErrTimes ++ [s.now] } else s

/-- Writes a fault record for a place of a region (R365, R366): element 256 is the helm core, 257 the matrix node, whose
records name no element (R389). A typed-buffer error is counted towards retirement (R403). -/
def faultRec (s : State) (r e c slot src stack cls : Nat) (t : Trap) : State :=
  let ph := physOf s r
  let ne := nodeEntry s r e c slot
  let idx := fun lo w => match ne with | some x => Bits.nat x (lo + w - 1) lo | none => 0
  let nidx := idx 46 2
  let lw := match launchOf s r with | some (_, l) => (l.ltag, l.window) | none => (0, 0)
  let s := bufErr s r t.cause
  putRec s (partOf s r) lw.1 lw.2 (getH s r).lid [
    (224, 32, (nodeNum s r e c slot).toNat), (208, 16, if 2 < nidx then idx 80 16 else 0),
    (192, 16, if 1 < nidx then idx 64 16 else 0), (176, 16, if 0 < nidx then idx 48 16 else 0), (174, 2, nidx),
    (172, 2, ph.1), (165, 7, ph.2), (156, 9, if e = 257 then 0x1FF else e), (152, 4, c), (147, 5, slot)] src stack cls t

/-- Adds one to a 48-bit counter, which saturates (R204); a counter that a restored image marks as absent stays so
(R434). -/
def bump (l : Assoc Nat) (k : Nat) : Assoc Nat :=
  let n := aGet 0 l k
  if 0xFFFFFFFFFFFF ≤ n then l else aSet l k (n + 1)
/-- Counts an event of the helm core (R206): 0 executed, 1 skipped, 2 stall, 3 copies, 4 sent, 5 received, 6 traps. -/
def countH (h : Helm) (k : Nat) : Helm := { h with counters := bump h.counters k }

/-- Appends a record to a region's wake ring (R214, R215). A frozen ring takes none. -/
def wake (s : State) (r typ aw bw : Nat) : State :=
  let g := getR s r
  if g.ringFrozen then s
  else
    let rec' := BitVec.ofNat 128 (packFields [(124, 4, typ), (96, 28, g.helm.cycle), (64, 32, aw), (0, 64, bw)])
    let nx := (g.ringNext + 1) % 4096
    setR s r { g with ring := aSet g.ring g.ringNext rec', ringNext := nx,
                      ringWraps := if nx = 0 then min (g.ringWraps + 1) 0xFFFFFFFF else g.ringWraps }

/-! ## Taking a trap and returning from one (R319, R327, R368) -/

/-- hs.cause (R327). -/
def causeWord (int cls code arg : Nat) : W64 := BitVec.ofNat 64 (packFields [(31, 1, int), (29, 2, cls), (16, 8, code), (0, 13, arg)])

/-- IE (R326). -/
def ieBit (h : Helm) : Bool := h.status.getLsbD 0
/-- PIE (R326). -/
def pieBit (h : Helm) : Bool := h.status.getLsbD 1

/-- Entry to a trap, in one step: epc, cause and tval are saved, PIE becomes IE, IE becomes 0, PC becomes hs.trapvec
(R319). -/
def enterTrap (h : Helm) (cause tval epc : W64) : Helm :=
  { h with epc := epc, cause := cause, tval := tval,
           status := Bits.put (Bits.put h.status 1 1 (if ieBit h then 1 else 0)) 0 1 0,
           pc := h.trapvec.setWidth 20, wait := .none }

/-- RET z: PC becomes hs.epc, IE becomes PIE and PIE becomes 1 (R319). -/
def leaveTrap (h : Helm) : Helm :=
  { h with pc := h.epc.setWidth 20, status := Bits.put (Bits.put h.status 0 1 (if pieBit h then 1 else 0)) 1 1 1 }

/-- A little-endian field of a run of bytes. -/
def at_ (b : List Byte) (off n : Nat) : Nat := Bits.ofBytes ((b.drop off).take n)

/-- DUMP of a launch record (R89). -/
def rcDump (rc : List Byte) : Nat := at_ rc 4 1 / 32

/-! ## The dump area (R422, R424, R425) -/

/-- Bytes of a region's block under a policy. -/
def blockLen (dump : Nat) : Nat := if dump = 1 then 0x11000 else 0xB19000

/-- The next 64 KiB boundary. -/
def up64K (n : Nat) : Nat := (n + 0xFFFF) / 0x10000 * 0x10000

/-- Free stretches of a dump area of so many bytes: offset and length, in ascending offset. -/
def dumpGaps (len : Nat) (ds : List Dump) : List (Nat × Nat) :=
  let inside := fun (o : Nat) => ds.any (fun d => d.off ≤ o && o < up64K (d.off + d.len))
  let limit := fun (o : Nat) => (ds.filter (fun d => o < d.off)).foldl (fun m d => min m d.off) len
  let starts := ((0x10000 :: ds.map (fun d => up64K (d.off + d.len))).filter (fun o => !inside o && o < len)).foldl setAdd []
  starts.map (fun o => (o, limit o - o))

/-- Where an image of `n` regions goes: the first stretch that holds all of it, else the widest one; with the regions that
it takes. -/
def dumpFit (gaps : List (Nat × Nat)) (dump n : Nat) : Option (Nat × Nat) :=
  match gaps.find? (fun g => 0x1400 + n * blockLen dump ≤ g.2) with
  | some g => some (g.1, n)
  | none => match gaps.foldl (fun (acc : Option (Nat × Nat)) g => match acc with
      | some y => if y.2 < g.2 then some g else some y
      | none => some g) none with
    | some g => if 0x1400 ≤ g.2 then some (g.1, (g.2 - 0x1400) / blockLen dump) else none
    | none => none

/-- Regions in an image of a length. -/
def dumpRegs (dump len : Nat) : Nat := (len - 0x1400) / blockLen dump

/-- A directory entry. -/
def dumpWord (x : Launch) (d : Dump) (state : Nat) : Nat :=
  let n := dumpRegs (rcDump x.record) d.len
  packFields [(448, 64, Bits.nat x.fatalRec 511 448), (384, 64, x.ltag.toNat), (320, 64, d.off), (256, 64, d.len), (248, 8, Bits.nat x.fatalRec 63 56),
    (239, 9, n), (236, 3, rcDump x.record), (235, 1, if n < x.place.length then 1 else 0), (234, 1, if d.hold then 1 else 0), (0, 2, state)]

/-- Writes a directory entry of a partition. -/
def dumpPut (s : State) (part num v : Nat) : State := hbmPutNat s ((areaOf (getP s part) 5).2.1 + 64 * num) 64 v

/-- Allocates an image for a graph that ends, or says why there is none: 0 no free entry, 1 no space. -/
def dumpAlloc (s : State) (l : Nat) (x : Launch) : Except Nat State :=
  let p := getP s x.part
  let dump := rcDump x.record
  match (List.range 64).find? (fun k => k != 0 && !p.dumps.any (fun d => d.num == k)) with
  | none => .error 0
  | some k => match dumpFit (dumpGaps (areaOf p 5).2.2 p.dumps) dump x.place.length with
    | none => .error 1
    | some (off, n) =>
      let d : Dump := { num := k, launch := l, off := off, len := 0x1400 + n * blockLen dump, hold := dump == 3, queue := 4 * x.prio + x.qsel, state := 1, going := true }
      .ok (dumpPut (setP s x.part { p with dumps := p.dumps ++ [d] }) x.part k (dumpWord x d 1))

/-- The image that a launch has allocated for the fatal end in progress. -/
def dumpOf (s : State) (l : Nat) (x : Launch) : Option Dump := (getP s x.part).dumps.find? (fun d => d.launch == l && d.going)

/-- DREDGEFULL. -/
def dumpFull (s : State) (l k : Nat) : State := launchRec s l 8 0 { cause := 0x82, arg := k, tval := 0, hdr := 0 }

/-- The wake rings of a graph freeze. -/
def freezeRings (s : State) (l : Nat) : State := (regionsOf s l).foldl (fun s r => setR s r { getR s r with ringFrozen := true }) s

/-! ## Fatal faults (R376) -/

/-- A graph meets a fatal fault, whose record has just been written: it stops until its end is carried out (the event FATAL_END),
its rings freeze, and its image is allocated, or DREDGEFULL says why there is none (R376, R421, R425, R426). A region without a
launch just stops its helm core. -/
def graphFatal (s : State) (r code : Nat) : State :=
  match launchOf s r with
  | some (l, x) =>
    if x.phase == .dredging then s
    else
      let y := { x with phase := .dredging, fault := some code, fatalRec := (getP s x.part).lastRec }
      let s := freezeRings { setL s l y with dredges := s.dredges ++ [l] } l
      if rcDump x.record = 0 then s
      else match dumpAlloc s l y with
        | .error k => dumpFull s l k
        | .ok s => s
  | none => setH s r { getH s r with running := false }

/-- A trap that cannot be taken: NOHANDLER is written and the graph ends (R368). -/
def noHandler (s : State) (r code : Nat) (tval : W64) : State :=
  graphFatal (faultRec s r 256 0 0 1 0 2 { cause := 0x07, arg := code, tval := tval, hdr := 0 }) r 0x07

/-- Whether a helm core can take a synchronous trap (R368). -/
def canTrap (h : Helm) : Bool := ieBit h && h.trapvec != 0 && !h.halted

/-- A synchronous trap of a helm core's own instruction, with its record, delivered by R319: `epc` is the word at
fault, or the next one for TRAP and BRK. -/
def syncTrap (s : State) (r cls : Nat) (t : Trap) (epc : W64) : State :=
  let s := faultRec s r 256 0 0 (srcOf 256 t.cause) 0 cls t
  let h := getH s r
  if canTrap h then
    let cause := causeWord 0 cls t.cause t.arg
    let s := wake s r 8 h.pc.toNat cause.toNat
    setH s r (enterTrap (countH (getH s r) 6) cause t.tval epc)
  else noHandler s r t.cause t.tval

/-- Raises a delivered trap for a helm core; one that falls due while no handler is set, or after the core has halted,
cannot be taken (R319). -/
def deliver (s : State) (r : Nat) (d : Delivered) : State :=
  let h := getH s r
  if h.trapvec = 0 || h.halted then noHandler s r d.code d.tval
  else setH s r { h with delivered := h.delivered ++ [d] }

/-! ## Element faults (R369, R371) -/

/-- A slot's access that stood at its node has faulted: the context is held no longer, and is evaluated again from the next
cycle on (R71, R372). -/
def dropHeld (s : State) (a : Agent) : State :=
  match a with
  | .helm _ => s
  | .elem r e c k => if e < 256 && (getN s r e c).held == some k then setN s r e c { getN s r e c with held := none, late := some k } else s

/-- A window's first overflow, after which its graph re-runs at normal speed (R408). -/
def firstOverflow (x : Launch) (t : Trap) : Bool := (t.cause == 0x63 || t.cause == 0x64) && !x.overflow

/-- A firing, a node input or a unit of an element takes a fabric fault. Before a re-run, and for the first overflow of a
window, the graph stops: the faults of the present cycle of each region are kept for the ROLLBACK notices that name their
firings, and a later one joins the rollback with a record of its own; in the precise re-run the region stops where it stands
(R369, R371, R373, R408). A graph that does not move takes none (R376). -/
def elemFault (s : State) (a : Agent) (t : Trap) : State :=
  let (r, e, c, slot) := agentAt a
  match launchOf s r with
  | none => s
  | some (l, x) =>
    let s := dropHeld s a
    if x.phase == .rolling then
      if (getR s r).faultNow then setL (bufErr s r t.cause) l { x with hits := x.hits ++ [(a, t)] }
      else faultRec s r e c slot (srcOf e t.cause) 0 1 t
    else if x.phase == .rerun && !firstOverflow x t then
      let s := setL s l { x with hits := x.hits ++ [(a, t)] }
      setR s r { getR s r with obsctl := Bits.put (getR s r).obsctl 1 1 1, grace := 0 }
    else if x.phase == .running || x.phase == .rerun then
      let s := (regionsOf s l).foldl (fun s q => setR s q { getR s q with faultNow := true }) (bufErr s r t.cause)
      setL s l { x with phase := .rolling, fault := some t.cause, hits := [(a, t)] }
    else s

/-- A request of the cutter or of a KV unit (R287). -/
def isUnit (w : W32) : Bool := let o := (fieldO w).toNat; 0xC4 ≤ o && o ≤ 0xD1

/-- Where a request goes: 0 global memory, 1 a typed buffer, as a barrier's update and the issue of a copy do, 2 the cutter or a
KV unit (R145, R226, R283, R287). -/
def reqClass (w : W32) : Nat :=
  let o := (fieldO w).toNat
  if isUnit w then 2
  else if o ≤ 0xA3 || (0xAF ≤ o && o ≤ 0xB9) then 1
  else if 0xA9 ≤ o && o ≤ 0xAC then (if (fieldY w).toNat / 2 = 3 then 0 else 1)
  else 0

/-- A helm core has requests of a class held. -/
def helmHolds (h : Helm) (k : Nat) : Bool := h.outstanding.any (fun o => o.queued && reqClass o.word == k)

/-- The executing agent is a helm core that has requests of a class held. -/
def holdsClass (s : State) (k : Nat) : Bool :=
  match s.agent with
  | .helm r => helmHolds (getH s r) k
  | .elem .. => false

/-- No access of an agent stands at a bank of its region any more (R123). -/
def bankDrop (s : State) (a : Agent) : State :=
  let g := getR s (agentR a)
  if g.bankBad.isEmpty && g.bankHeld.isEmpty then s
  else setR s (agentR a) { g with bankBad := g.bankBad.filter (fun x => x.1 != a), bankHeld := g.bankHeld.filter (fun x => x.1 != a) }

/-- The executing agent's access no longer stands at a bank: it has been carried out, or it faults. What a helm core's held
requests have there stays (R123). -/
def bankLeave (s : State) : State := if holdsClass s 1 then s else bankDrop s s.agent

/-- A fault of the executing agent: a trap at its own word in a helm core, a fabric fault in an element (R389). -/
def faultHere (s : State) (t : Trap) : State :=
  let s := bankLeave s
  match s.agent with
  | .helm r => syncTrap s r 1 t ((getH s r).pc.setWidth 64)
  | .elem .. => elemFault s s.agent t

/-! ## Triggers (R72 to R74, R85, R231) -/

/-- The head test of an entry (R73). -/
def headTest (n : Node) (e : W64) : Bool :=
  let tv := Bits.nat e 35 32
  match Bits.nat e 39 38 with
  | 0 => true
  | k => match pairHead (nodePair n (Bits.nat e 37 36)) with
    | none => false
    | some t =>
      if k = 1 then hKind t.hdr == tv % 4
      else if k = 2 then hCtx t.hdr == tv
      else if tv = 0 then hEnd t.hdr == 0 else tv ≤ hEnd t.hdr

/-- Predicates as the entry requires (R73). -/
def predTest (n : Node) (e : W64) : Bool :=
  n.regs.p &&& e.extractLsb' 56 8 == e.extractLsb' 48 8 &&& e.extractLsb' 56 8

/-- Every channel of NEEDI has a head. -/
def needIn (n : Node) (e : W64) : Bool :=
  (List.range 4).all (fun k => !e.getLsbD (44 + k) || (pairHead (nodePair n k)).isSome)

/-- A port's queue has a free entry; on the completion port the entries reserved for tokens still owed count as in use
(R99, R169). -/
def portOpen (n : Node) (k : Nat) : Bool :=
  let p := nodePort n k
  if p.role = 1 then portUse p + n.owed < 2 else portFree p

/-- Every queue of NEEDO has a free entry. -/
def needOut (n : Node) (e : W64) : Bool :=
  (List.range 4).all (fun k => !e.getLsbD (40 + k) || portOpen n k)

/-- An entry holds for a context (R73). -/
def trigHolds (n : Node) (e : W64) : Bool := predTest n e && needIn n e && needOut n e && headTest n e

/-- The entry of an element's trigger and whether it holds: t0 always, t63 never (R74). -/
def elemTrig (el : Elem) (n : Node) (t : Nat) : W64 × Bool :=
  if t = 0 then (0, true) else if t = 63 then (0, false) else let e := aGet 0 el.trig t; (e, trigHolds n e)

/-- The same for a helm core: t1 to t8 test p0 to p7 set, t9 to t16 clear (R85). -/
def helmTrig (h : Helm) (t : Nat) : W64 × Bool :=
  if t = 0 then (0, true)
  else if t = 63 then (0, false)
  else if t ≤ 8 then (0, h.node.regs.p.getLsbD (t - 1))
  else if t ≤ 16 then (0, !h.node.regs.p.getLsbD (t - 9))
  else let e := aGet 0 h.trig t; (e, trigHolds h.node e)

/-- p after a trigger action: CLRM cleared, then SETM set (R75). -/
def trigAction (p : Byte) (e : W64) : Byte := (p &&& ~~~ e.extractLsb' 16 8) ||| e.extractLsb' 24 8

/-- Valid times of a data token, in lane order (R37, R39). -/
def tokTimes (tstep : Nat) (t : Token) : List Nat :=
  let n := if isCoord t.hdr then 8 else 16
  ((List.range n).filter (fun k => maskBit (hMask t.hdr) k)).map (fun k => hT t.hdr + k * tstep)

/-- The samples of a data token, in lane order: a pair of COORD is one sample, its index low and its value high (R39). -/
def tokSamples (t : Token) : List W64 :=
  ((List.range (if isCoord t.hdr then 8 else 16)).filter (fun k => maskBit (hMask t.hdr) k)).map (fun k =>
    (if isCoord t.hdr then t.pay.get (k + 8) else 0) ++ t.pay.get k)

/-- PRE of an AFFINE descriptor (R47). -/
def rtfPre (x : BitVec 128) : Nat := if Bits.nat x 127 125 = 1 then Bits.nat x 89 74 else 0

/-- History samples before time 0: PRE′ zeros, or copies of the time-0 sample under BND 1 (R50). -/
def boundary (rtf : BitVec 128) (h : Nat) (x : W64) : List W64 :=
  List.replicate (rtfPre rtf + h) (if rtf.getLsbD 124 then x else 0)

/-- An input receives a data token: with the first time-0 sample of its CTX tag the history before time 0 is filled (R50).
`h` is H of the token's state class. -/
def beginHist (h : Nat) (p : Pair) (t : Token) : Pair :=
  if hKind t.hdr = 0 && !p.begun.getLsbD (hCtx t.hdr) && (tokTimes p.tstep t).head? == some 0 then
    { p with begun := p.begun ||| BitVec.ofNat 16 (2 ^ hCtx t.hdr),
             hist := aSet p.hist (hCtx t.hdr) (boundary p.rtf h ((tokSamples t).headD 0)) }
  else p

/-- Takes the head off a pair of a node; a data token's times and samples join those its CTX tag has consumed (R57, R69). -/
def dequeue (p : Pair) : Pair :=
  match p.queue with
  | [] => p
  | q :: qs =>
    if hKind q.tok.hdr = 0 then
      let c := hCtx q.tok.hdr
      { p with queue := qs,
               recent := aSet p.recent c (((tokTimes p.tstep q.tok).reverse ++ aGet [] p.recent c).take 255),
               hist := aSet p.hist c (((tokSamples q.tok).reverse ++ aGet [] p.hist c).take (rtfPre p.rtf + 255)) }
    else { p with queue := qs }

/-- The state class entry of a CTX tag, class SL where none is given (R100). -/
def classEnt (n : Node) (ctx : Nat) : ClassEnt := aGet { cls := 0, param := 0, area := 0, w := 0, ring := 0 } n.classes ctx

/-- H of a WIN(H) class, 0 for the others (R48, R59). -/
def winH (n : Node) (ctx : Nat) : Nat := let e := classEnt n ctx; if e.cls = 1 then e.param else 0

/-- Takes the head off a channel of a node. -/
def dequeueCh (n : Node) (k : Nat) : Node := setPair n k (dequeue (nodePair n k))

/-- The channels an instruction's operands and its trigger dequeue; a channel named by both loses one token (R75). -/
def dequeueSet (codes : List Nat) (e : W64) : List Nat :=
  (List.range 4).filter (fun k => codes.contains (20 + k) || e.getLsbD (12 + k))

/-- Takes the head off each channel of a list. -/
def dequeueAll (n : Node) (ch : List Nat) : Node :=
  ch.foldl dequeueCh n

/-- The trigger action and the dequeues, after the instruction's own effect (R75). -/
def afterFire (n : Node) (codes : List Nat) (e : W64) : Node :=
  dequeueAll { n with regs := { n.regs with p := trigAction n.regs.p e } } (dequeueSet codes e)

/-! ## Firing tokens (R37, R41, R66, R99, R395) -/

/-- The lanes of a token whose times a set holds (R66); pair k of COORD has the time of lane k (R39). -/
def filterMask (tstep : Nat) (set : List Ival) (t : Token) : BitVec 16 :=
  maskOf (fun k => maskBit (laneMask t.hdr) k &&
    set.any (fun v => ivHas v (hCtx t.hdr) (hT t.hdr + (if isCoord t.hdr then k % 8 else k) * tstep)))

/-- Position of a token's end: the time of its last valid lane, or T (R40, R395). -/
def endPos (tstep : Nat) (t : Token) : Nat := (tokTimes tstep t).getLastD (hT t.hdr)

/-- The copies of a token for a port's destinations, each masked by that consumer's demand and dropped when empty
(R66, R99); a port that FILTER or COAL writes masks nothing (R256). -/
def copiesFor (p : Port) (q : OutReq) : List (W64 × Token) :=
  match q.dests with
  | some ds => ds.map (fun d => (d, q.tok))
  | none =>
    let one := fun (x : W64 × Nat) =>
      if q.filt && !p.compact && hKind q.tok.hdr == 0 then
        let m := filterMask p.tstep (p.dset.getD x.2 []) q.tok
        let t := { q.tok with hdr := hSetMask q.tok.hdr m }
        if dropped t then none else some (x.1, t)
      else some (x.1, q.tok)
    (p.dests.zip (List.range p.dests.length)).filterMap one

/-- Adds an output token to a queue, with the position of its end; a token with no copy to send is dropped. -/
def pushOut (p : Port) (t : Token) (pos : Nat) (cs : List (W64 × Token)) : Port :=
  if cs.isEmpty then p else { p with queue := p.queue ++ [{ tok := t, copies := cs, pos := pos, new := true }] }

/-- A token is a data token that ends something at a position. -/
def endsAt (pos : Nat) (o : OutTok) : Bool := hEnd o.tok.hdr != 0 && o.pos == pos

/-- The queued end at a position rises to a rank. -/
def raiseEnd (pos en : Nat) (o : OutTok) : OutTok :=
  let raise := fun (h : W64) => if hEnd h < en then hSetEnd h en else h
  if endsAt pos o then
    { o with tok := { o.tok with hdr := raise o.tok.hdr }, copies := o.copies.map (fun c => (c.1, { c.2 with hdr := raise c.2.hdr })) }
  else o

/-- The queued end at a position leaves its token, since the token that follows carries it; a token of nothing else
vanishes. -/
def stripEnd (pos : Nat) (o : OutTok) : Option OutTok :=
  if endsAt pos o then
    let bare := fun (t : Token) => { t with hdr := hSetEnd t.hdr 0 }
    let cs := (o.copies.map (fun c => (c.1, bare c.2))).filter (fun c => !dropped c.2)
    if cs.isEmpty then none else some { o with tok := bare o.tok, copies := cs }
  else some o

/-- A token with valid lanes meets the queued end of its own position: the two become one end, of the higher rank, on the
later token (R41, R395). A copy for a consumer whose copy of the earlier end has left keeps its lanes alone. -/
def mergeEnd (p : Port) (q : OutReq) (pos en : Nat) : Port :=
  let waits := p.queue.flatMap (fun o => if endsAt pos o then o.copies.map (·.1) else [])
  let t := { q.tok with hdr := hSetEnd q.tok.hdr en }
  let cs := (copiesFor p { q with tok := t }).map (fun c => if waits.contains c.1 then c else (c.1, { c.2 with hdr := hSetEnd c.2.hdr 0 }))
  pushOut { p with queue := p.queue.filterMap (stripEnd pos) } t pos (cs.filter (fun c => !dropped c.2))

/-- The stream times that a token takes on its port: those of its lanes, or the one that a compacted token's end has
(R37, R256). -/
def firedTimes (p : Port) (q : OutReq) : List Nat :=
  if hKind q.tok.hdr ≠ 0 then []
  else if q.filt || q.dests.isSome then tokTimes p.tstep q.tok
  else if laneMask q.tok.hdr = 0 then [] else [q.pos.getD (hT q.tok.hdr)]

/-- Puts a token on a port's output queue: one that R39 drops leaves nothing; times past the last stream time and ends
that cannot be coalesced are faults. The lanes of a compacted token have no times of their own (R37, R39, R256, R395). -/
def emitPort (p : Port) (q : OutReq) : Except Trap Port :=
  let t := q.tok
  let data := hKind t.hdr == 0
  let ts := firedTimes p q
  let past := ts.filter (fun x => 0xFFFFFFFFE < x)
  if dropped t then .ok p
  else if data && !past.isEmpty then
    .error { cause := 0x45, arg := 0, tval := BitVec.ofNat 64 (past.headD 0 % 2 ^ 36), hdr := t.hdr }
  else
    let p := { p with top := ts.foldl (fun m x => max m (x + 1)) p.top,
                      pending := if p.spb.isSome then p.pending else ts.foldl (fun l x => ivPass l (hCtx t.hdr) x) p.pending, count := if data then p.count + 1 else p.count }
    let en := hEnd t.hdr
    let pos := q.pos.getD (endPos p.tstep t)
    let fresh : Except Trap Port := .ok (pushOut { p with lastEnd := some (pos, en) } t pos (copiesFor p q))
    if en = 0 then .ok (pushOut p t pos (copiesFor p q))
    else match p.lastEnd with
      | none => fresh
      | some (lp, lr) =>
        if lp < pos then fresh
        else if pos < lp then .error { cause := 0x47, arg := 1, tval := BitVec.ofNat 64 pos, hdr := t.hdr }
        else if p.queue.any (endsAt pos) then
          let p := { p with lastEnd := some (pos, max lr en) }
          .ok (if laneMask t.hdr = 0 then { p with queue := p.queue.map (raiseEnd pos en) } else mergeEnd p q pos (max lr en))
        else if en ≤ lr then
          let bare := { t with hdr := hSetEnd t.hdr 0 }
          .ok (if laneMask t.hdr = 0 then p else pushOut p bare pos (copiesFor p { q with tok := bare }))
        else .error { cause := 0x47, arg := 2, tval := BitVec.ofNat 64 pos, hdr := t.hdr }

/-- Closes the open COAL token of a port, which then stands in the queue's order; an end it carries is at the position
given (R257). -/
def closeCoal (p : Port) (pos : Option Nat) : Except Trap Port :=
  match p.coal with
  | none => .ok p
  | some t => emitPort { p with coal := none } { port := 0, tok := t, filt := false, dests := none, pos := pos }

/-- Fires a token on a port; the open COAL token there is closed first (R257). -/
def firePort (p : Port) (q : OutReq) : Except Trap Port :=
  match closeCoal p none with
  | .error t => .error t
  | .ok p => emitPort p { q with tok := asFired q.tok }

/-- One element or pair of a head, moved to a lane of an open token (R257). -/
def coalPut (open_ : Token) (k : Nat) (src : Token) (j : Nat) (coord : Bool) : Token :=
  let pay := fun i =>
    if i = k then src.pay.get j
    else if coord && i = k + 8 then src.pay.get (j + 8)
    else open_.pay.get i
  let m := maskOf (fun i => maskBit (hMask open_.hdr) i || i == k || (coord && i == k + 8))
  { hdr := hSetMask open_.hdr m, pay := Lanes.ofFn pay }

/-- Opens a COAL token where none is open, appends one lane or pair of a head, and closes a token that is full (R257). -/
def coalStep (head : Token) (coord : Bool) (tstep : Nat) (p : Port) (j : Nat) : Except Trap Port :=
  if !maskBit (hMask head.hdr) j then .ok p
  else
    let cap := if coord then 8 else 16
    let o := p.coal.getD { hdr := mkHdr 0 (hFmt head.hdr) 0 (hCtx head.hdr) 0 (hT head.hdr + j * tstep), pay := 0 }
    let k := ((List.range cap).filter (fun i => maskBit (hMask o.hdr) i)).length
    let p := { p with coal := some (coalPut o k head j coord) }
    if cap ≤ k + 1 then closeCoal p none else .ok p

/-- COAL's firing: the valid lanes or pairs of a head join the port's open token, which a change of CTX closes first and
an end closes after (R257). A firing that fills and closes a token and carries an END fires a second token that holds the END
alone, under the one free entry that it needed: the queue then holds 3 (log 109). -/
def coalPort (p : Port) (head : Token) (coord : Bool) (tstep : Nat) : Except Trap Port := do
  let p ← match p.coal with
    | some o => if hCtx o.hdr != hCtx head.hdr then closeCoal p none else pure p
    | none => pure p
  let p ← (List.range (if coord then 8 else 16)).foldlM (coalStep head coord tstep) p
  let en := hEnd head.hdr
  if en = 0 then pure p
  else
    let o := p.coal.getD { hdr := mkHdr 0 (hFmt head.hdr) 0 (hCtx head.hdr) 0 (hT head.hdr), pay := 0 }
    closeCoal { p with coal := some { o with hdr := hSetEnd o.hdr en } } (some (endPos tstep head))

/-- The high-water mark of a CTX rises to just above the last output computed, before any demand filter (R60, R61). -/
def raiseW (n : Node) (t : Token) (ts : List Nat) : Node :=
  let e := classEnt n (hCtx t.hdr)
  if hKind t.hdr != 0 || e.cls.toNat < 2 then n
  else
    let w := ts.foldl (fun m x => max m (x + 1)) e.w
    { n with classes := aSet n.classes (hCtx t.hdr) { e with w := w } }

/-- Fires the tokens of a firing, in order. -/
def fireAll (n : Node) : List OutReq → Except Trap Node
  | [] => .ok n
  | q :: qs =>
    match firePort (nodePort n q.port) q with
    | .error t => .error t
    | .ok p => fireAll (raiseW (setPort n q.port { p with ended := false }) q.tok (firedTimes (nodePort n q.port) q)) qs

/-- Writes a firing into its context: registers, tokens, COAL (R75 step 1). -/
def commitFire (n : Node) (f : Fire) : Except Trap Node :=
  match fireAll { n with regs := f.regs } f.out with
  | .error t => .error t
  | .ok n =>
    match f.coal with
    | none => .ok n
    | some (k, head, tstep, coord) =>
      match coalPort (nodePort n k) head coord tstep with
      | .error t => .error t
      | .ok p => .ok (raiseW (setPort n k { p with ended := false }) head (tokTimes tstep head))

/-! ## Issue of one instruction (R75, R86, R262, R385, R389) -/

/-- The word of an instruction; events have none and never issue. -/
def wordOf (i : Instr) : W32 := (encode i).getD 0

/-- The operand codes of a word, D first. -/
def codesOf (w : W32) : List Nat :=
  match opRow (fieldO w).toNat with
  | none => []
  | some (_, fmt, _, _, cd, ca, cb) =>
    ((wordCodes fmt w).zip [cd, ca, cb]).filterMap (fun x => if isOpnd x.2 then some x.1 else none)

/-- The ports a word writes: D, and D + 1 for STEER (R268); SRD binds its port and writes nothing (R277). -/
def portsOf (w : W32) : List Nat :=
  let d := (fieldD w).toNat
  if (codesOf w).contains d && classOf d = 8 && fieldO w != 0xA4 then (if fieldO w = 0x8A then [d - 24, d - 23] else [d - 24]) else []

/-- Why a helm core waits before it issues a word: an empty channel it reads, a full queue it writes, or a register an
earlier load has still to write (R86, R262). -/
def issueWait (h : Helm) (w : W32) : WaitKind :=
  let codes := codesOf w
  let reads := if 0x8C ≤ (fieldO w).toNat && (fieldO w).toNat ≤ 0x8F then codes.drop 1 else codes
  if reads.any (fun c => classOf c == 4 && (headOf h.node c).isNone) then .channel
  else if (portsOf w).any (fun k => !portOpen h.node k) then .port
  else if h.outstanding.any (fun o => codes.contains o.dst) then .load
  else .none

/-- Whether a slot's trigger is round-robin: bit ARB of its entry, and t0 as the worked example of R80 has it (log
13). -/
def trigRR (t : Nat) (e : W64) : Bool := t == 0 || e.getLsbD 11

/-- A breakpoint word matches a firing (R209). -/
def bkMatch (w : W64) (e c slot : Nat) : Bool :=
  w.getLsbD 31 && (Bits.nat w 30 22 == 0x1FF || Bits.nat w 30 22 == e) && (Bits.nat w 21 18 == 15 || Bits.nat w 21 18 == c) &&
    (w.getLsbD 12 || Bits.nat w 17 13 == slot)

/-- A stop of a region is asked for. In the cycle of the first one that has not been carried out and in the 4 after it the
region's elements may fire; none may in precise mode (R210, R212). -/
def askGrace (g : Region) (x : Nat × Nat × Nat × Nat × Nat) : Region :=
  let open_ := !g.stopReq.isEmpty || g.obsctl.getLsbD 1
  { g with stopReq := g.stopReq ++ [x], grace := if g.obsctl.getLsbD 2 then 0 else if open_ then g.grace else 5 }

/-- A firing is counted by each breakpoint that it matches, and asks for a stop where the count is reached. With STEP set a
precise region stops after every firing (R209, R210, R212). -/
def bkCheck (g : Region) (e c slot : Nat) : Region :=
  let one := fun (g : Region) (k : Nat) =>
    let w := vGet 0 g.obsbk k
    if bkMatch w e c slot then
      let n : W32 := vGet 0 g.bkCount k + 1
      let g := { g with bkCount := vSet g.bkCount k n }
      let want := Bits.nat w 63 32
      if want = 0 || n.toNat = want then askGrace g (k, k, e, c, slot) else g
    else g
  let g := (List.range 4).foldl one g
  if g.obsctl.getLsbD 2 && g.obsctl.getLsbD 3 then { g with obsctl := Bits.put g.obsctl 1 1 1, grace := 0 } else g

/-- A helm core stands at its instruction: a stall cycle, and the time since which it waits for the same thing (R400). -/
def standAt (s : State) (h : Helm) (k : WaitKind) : Helm :=
  { countH h 2 with wait := k, waitSince := if h.wait = k then h.waitSince else s.now }

/-- The fault of an access whose register a word is the first to use, or which HALT or FENCE waits for (R319, R405). -/
def usedFault (h : Helm) (w : W32) : Option Outstanding :=
  h.outstanding.find? (fun o => o.failed.isSome && ((codesOf w).contains o.dst || fieldO w == 0xE4 || fieldO w == 0xB3))

/-- A firing of the executing element meets the region's breakpoints. -/
def bkHere (s : State) : State :=
  match s.agent with
  | .helm _ => s
  | .elem r el c slot => setR s r (bkCheck (getR s r) el c slot)

/-- The instruction's own effect is written: the trigger action and the dequeues follow, and a helm core counts it and
moves on; an element's context is not eligible again in this cycle (R71, R75, R86, R315). -/
def complete (s : State) (w : W32) (e : W64) (pc : Option (BitVec 20)) : State :=
  let s := bankLeave s
  match s.agent with
  | .helm r =>
    let g := getR s r
    let h := g.helm
    setR s r { g with moved := true,
                      helm := { countH h 0 with node := afterFire h.node (codesOf w) e, pc := pc.getD (h.pc + 4), wait := .none } }
  | .elem _ _ _ slot =>
    let n := afterFire (here s) (codesOf w) e
    let rr := if trigRR (fieldT w).toNat e then (slot + 1) % 32 else n.rr
    let was := if n.held.isSome && s.arms.any (fun a => a.who == s.agent && a.kind == .read) then 32 else slot
    setHere s { n with held := none, late := some was, rr := rr }

/-- The executing element's context stands at its node's answer: its firing has met the breakpoints already. -/
def heldHere (s : State) : Bool := !isHelm s && (here s).held.isSome

/-- What follows the own effect of an instruction that issues: it completes, and an element's firing meets its region's
breakpoints, unless it met them before it was held (R209, R210). -/
def finish (s : State) (w : W32) (e : W64) (pc : Option (BitVec 20)) : State :=
  if heldHere s then complete s w e pc else bkHere (complete s w e pc)

/-- An element's context is held at its node's answer: its firing meets the breakpoints as it fires (R71, R209, R262). -/
def holdHere (s : State) : State :=
  if heldHere s then s else bkHere (setHere s { here s with held := some (agentAt s.agent).2.2.2 })

/-- NODE of the executing firing (R208). -/
def nodeHere (s : State) : W32 := let a := agentAt s.agent; nodeNum s a.1 a.2.1 a.2.2.1 a.2.2.2

/-- The trigger entry of the executing agent's word, and whether it holds. -/
def trigHere (s : State) (t : Nat) : W64 × Bool :=
  match s.agent with
  | .helm r => helmTrig (getH s r) t
  | .elem r e _ _ => elemTrig (getE s r e) (here s) t

/-- Issues an instruction whose own effect is `body`: the static checks first, then the trigger, then the waits of a
helm core, then the effect (R385, R386, R389). In an element a word with a static fault is never loaded (R383), so it
has no effect there. -/
def issue (i : Instr) (s : State) (body : State → Effect) : Host.Outcome State Fault Refusal :=
  let w := wordOf i
  match staticFault (isHelm s) w with
  | some (code, arg) =>
    .next (match s.agent with
      | .helm r => syncTrap s r 1 { cause := code, arg := arg, tval := w.setWidth 64, hdr := 0 } ((getH s r).pc.setWidth 64)
      | .elem .. => s)
  | none =>
    let tr := trigHere s (fieldT w).toNat
    if !tr.2 then
      .next (match s.agent with
        | .helm r => let h := getH s r; setH s r { countH h 1 with pc := h.pc + 4, wait := .none }
        | .elem .. => s)
    else
      let k := match s.agent with | .helm r => issueWait (getH s r) w | .elem .. => .none
      let used := match s.agent with | .helm r => usedFault (getH s r) w | .elem .. => none
      match used with
      | some o => .next (match s.agent with
        | .helm r => faultHere (setH s r { getH s r with outstanding := (getH s r).outstanding.erase o })
            (o.failed.getD { cause := 0, arg := 0, tval := 0, hdr := 0 })
        | .elem .. => s)
      | none =>
      if k != .none then
        .next (match s.agent with
          | .helm r => setH s r (standAt s (getH s r) k)
          | .elem .. => s)
      else
        match body s with
        | .done s => .next (finish s w tr.1 none)
        | .jump s pc => .next (finish s w tr.1 (some pc))
        | .wait k s => .next (match s.agent with
          | .helm r => setH s r (standAt s (getH s r) k)
          | .elem .. => holdHere s)
        | .hold s => .next s
        | .trap t => .next (faultHere s t)
        | .trapFrom s t => .next (faultHere s t)
        | .absent pa => .fault (.absentMemory pa)

/-- Issues an instruction whose effect lies in its own context. In an element an operation of more than one cycle
(`long`) is held in flight and written by OPERATION_COMPLETE (R71, R244). -/
def issueFire (i : Instr) (s : State) (long : Bool) (f : Node → Except Trap Fire) :
    Host.Outcome State Fault Refusal :=
  issue i s (fun s =>
    let n := here s
    let res := match f n with
      | .error t => Except.error t
      | .ok x => (match commitFire n x with | .error t => .error t | .ok n' => .ok (x, n'))
    match s.agent with
    | .elem _ _ _ slot =>
      if long then
        let fl : Flight := match res with
          | .ok (x, _) => { slot := slot, fire := x, trap := none }
          | .error t => { slot := slot, fire := fireRegs n.regs, trap := some t }
        let s := setHere s { n with flight := some fl }
        .hold (match res with | .ok _ => bkHere s | .error _ => s)
      else (match res with | .ok (_, n') => .done (setHere s n') | .error t => .trap t)
    | .helm _ => (match res with | .ok (_, n') => .done (setHere s n') | .error t => .trap t))

/-! ## Slots -/

/-- The word of a slot; an empty slot holds all ones (R384). -/
def slotWord (n : Node) (k : Nat) : W32 := aGet 0xFFFFFFFF n.slots k

/-! ## Who may act -/

/-- The graph of a region is placed and moves. -/
def graphMoves (s : State) (r : Nat) : Bool :=
  match launchOf s r with
  | none => !(getR s r).settled
  | some (_, l) => l.phase == .running || l.phase == .rerun

/-- It moves, and no EBB that restored sources have to inject first keeps it from firing (R374). -/
def graphRuns (s : State) (r : Nat) : Bool :=
  match launchOf s r with
  | none => !(getR s r).settled
  | some (_, l) => (l.phase == .running || l.phase == .rerun) &&
      (match l.cut with | some c => !c.first | none => true)

/-- The cycle in which the first fault of a graph has fallen is not over in a region: its elements still fire, and their
faults join the rollback (R373). -/
def faultCycle (s : State) (r : Nat) : Bool :=
  match launchOf s r with
  | none => false
  | some (_, l) => l.phase == .rolling && (getR s r).faultNow

/-- A region's elements may go on firing: the graph runs, or the cycle of its first fault is not over. -/
def cycleRuns (s : State) (r : Nat) : Bool := graphRuns s r || faultCycle s r

/-- Saved for an EBB: nothing of it acts again (R110). -/
def ebbSaved (s : State) (r : Nat) (saved : Option Nat) : Bool :=
  saved.isSome && (match launchOf s r with
    | some (_, l) => (match l.cut with | some c => c.kind == 2 | none => false)
    | none => false)

/-- STOP (R209). -/
def isStopped (g : Region) : Bool := g.obsctl.getLsbD 1
/-- PREC (R209, R212). -/
def isPrec (g : Region) : Bool := g.obsctl.getLsbD 2

end Sys2Proof.Machine
end

