-- ==== Sys2Proof/Machine/IntOps.lean ====
section
/-!
DEFINITION. Integer and logic instructions (R245 to R247). An element function gets the type (0 .i32, 1 .n32, 5 .q8x4,
6 .i64) and the elements of D, A and B as numbers below 2^w.
-/

namespace Sys2Proof.Machine

/-- The signed value of a number below 2^w. -/
def toSigned (w x : Nat) : Int := if x < 2 ^ (w - 1) then (x : Int) else (x : Int) - (2 ^ w : Int)
/-- An integer modulo 2^w. -/
def wrapInt (w : Nat) (v : Int) : Nat := (v % (2 ^ w : Int)).toNat
/-- The value of an element by the type's signedness. -/
def eltInt (ty x : Nat) : Int := if tySigned ty then toSigned (eltWidth ty) x else (x : Int)
/-- Clamps to the type's range (R245). -/
def satInt (ty : Nat) (v : Int) : Nat :=
  let w := eltWidth ty
  let lo : Int := if tySigned ty then -(2 ^ (w - 1)) else 0
  let hi : Int := if tySigned ty then 2 ^ (w - 1) - 1 else 2 ^ w - 1
  wrapInt w (if v < lo then lo else if v > hi then hi else v)
/-- All ones where a compare holds (R247). -/
def ones (ty : Nat) (c : Bool) : Nat := if c then 2 ^ eltWidth ty - 1 else 0

/-- x ← a. -/
def eMov (_ : Nat) : EltFn := fun _ a _ => (a, 0)
/-- x ← a + b. -/
def eAdd (ty : Nat) : EltFn := fun _ a b => ((a + b) % 2 ^ eltWidth ty, 0)
/-- x ← a − b. -/
def eSub (ty : Nat) : EltFn := fun _ a b => (wrapInt (eltWidth ty) ((a : Int) - b), 0)
/-- x ← sat(a + b). -/
def eAdds (ty : Nat) : EltFn := fun _ a b => (satInt ty (eltInt ty a + eltInt ty b), 0)
/-- x ← sat(a − b). -/
def eSubs (ty : Nat) : EltFn := fun _ a b => (satInt ty (eltInt ty a - eltInt ty b), 0)
/-- Low w bits of a × b. -/
def eMul (ty : Nat) : EltFn := fun _ a b => (a * b % 2 ^ eltWidth ty, 0)
/-- High w bits of the 2w-bit product. -/
def eMulh (ty : Nat) : EltFn := fun _ a b =>
  (wrapInt (eltWidth ty) (eltInt ty a * eltInt ty b / (2 ^ eltWidth ty : Int)), 0)
/-- d + a × b, low w bits. -/
def eMad (ty : Nat) : EltFn := fun d a b => ((d + a * b) % 2 ^ eltWidth ty, 0)
/-- DIV (R246). -/
def eDiv (ty : Nat) : EltFn := fun _ a b =>
  (if b = 0 then 2 ^ eltWidth ty - 1 else wrapInt (eltWidth ty) ((eltInt ty a).tdiv (eltInt ty b)), 0)
/-- REM (R246). -/
def eRem (ty : Nat) : EltFn := fun _ a b =>
  (if b = 0 then a else wrapInt (eltWidth ty) ((eltInt ty a).tmod (eltInt ty b)), 0)
/-- The smaller. -/
def eMin (ty : Nat) : EltFn := fun _ a b => (if eltInt ty a ≤ eltInt ty b then a else b, 0)
/-- The larger. -/
def eMax (ty : Nat) : EltFn := fun _ a b => (if eltInt ty a ≤ eltInt ty b then b else a, 0)
/-- ABS. -/
def eAbs (ty : Nat) : EltFn := fun _ a _ => (if 0 ≤ eltInt ty a then a else wrapInt (eltWidth ty) (-eltInt ty a), 0)
/-- NEG. -/
def eNeg (ty : Nat) : EltFn := fun _ a _ => (wrapInt (eltWidth ty) (-(a : Int)), 0)
/-- AND. -/
def eAnd (_ : Nat) : EltFn := fun _ a b => (a &&& b, 0)
/-- OR. -/
def eOr (_ : Nat) : EltFn := fun _ a b => (a ||| b, 0)
/-- XOR. -/
def eXor (_ : Nat) : EltFn := fun _ a b => (a ^^^ b, 0)
/-- a AND NOT b. -/
def eAndn (ty : Nat) : EltFn := fun _ a b => (a &&& (2 ^ eltWidth ty - 1 - b), 0)
/-- SHL (R246). -/
def eShl (ty : Nat) : EltFn := fun _ a b => (a * 2 ^ (b % eltWidth ty) % 2 ^ eltWidth ty, 0)
/-- SHR (R246). -/
def eShr (ty : Nat) : EltFn := fun _ a b => (a / 2 ^ (b % eltWidth ty), 0)
/-- SAR (R246). -/
def eSar (ty : Nat) : EltFn := fun _ a b =>
  (wrapInt (eltWidth ty) (toSigned (eltWidth ty) a / (2 ^ (b % eltWidth ty) : Int)), 0)
/-- Leading zero bits; w when a = 0. -/
def eClz (ty : Nat) : EltFn := fun _ a _ => (if a = 0 then eltWidth ty else eltWidth ty - 1 - Nat.log2 a, 0)
/-- Set bits among the low `n` bits. -/
def popCount (a : Nat) : Nat → Nat
  | 0 => 0
  | n + 1 => popCount a n + (if a.testBit n then 1 else 0)
/-- POPC. -/
def ePopc (ty : Nat) : EltFn := fun _ a _ => (popCount a (eltWidth ty), 0)
/-- lsb and width of a bit-field descriptor; a width above w acts as w (R246). -/
def bfDesc (w b : Nat) : Nat × Nat := (b % 64 % w, min (b / 256 % 64) w)
/-- BFX (R246). -/
def eBfx (ty : Nat) : EltFn := fun _ a b =>
  let w := eltWidth ty
  let (lsb, wd) := bfDesc w b
  let f := a / 2 ^ lsb % 2 ^ wd
  (if wd = 0 then 0 else if tySigned ty then wrapInt w (toSigned wd f) else f, 0)
/-- BFI (R246). -/
def eBfi (ty : Nat) : EltFn := fun d a b =>
  let w := eltWidth ty
  let (lsb, wd) := bfDesc w b
  let m := (2 ^ wd - 1) * 2 ^ lsb % 2 ^ w
  ((d &&& (2 ^ w - 1 - m)) ||| (a * 2 ^ lsb &&& m), 0)
/-- SEL (R246). -/
def eSel (_ : Nat) : EltFn := fun d a b => (if d ≠ 0 then a else b, 0)
/-- a = b. -/
def eCmpeq (ty : Nat) : EltFn := fun _ a b => (ones ty (a == b), 0)
/-- a ≠ b. -/
def eCmpne (ty : Nat) : EltFn := fun _ a b => (ones ty (a != b), 0)
/-- a < b. -/
def eCmplt (ty : Nat) : EltFn := fun _ a b => (ones ty (decide (eltInt ty a < eltInt ty b)), 0)
/-- a ≤ b. -/
def eCmple (ty : Nat) : EltFn := fun _ a b => (ones ty (decide (eltInt ty a ≤ eltInt ty b)), 0)

/-- A format I or L instruction on source A (or D itself): the destination fixes the type, .i64 for a scalar, else .i32
per lane (R227, R241). -/
def immediate (d a : Nat) (f : Nat → Nat → Nat) (n : Node) : Except Trap Fire :=
  if classOf d = 2 then writeScalar n d (BitVec.ofNat 64 (f 6 (srcVal n a).toNat)) 0
  else
    let m := srcMask n a
    let r := onLanes 32 (fun _ x _ => (f 0 x, 0)) m 0 (srcLanes n a) 0
    writeVec n d a 28 0 m r.1 0 true

/-- An immediate sign-extended to the type (R227). -/
def immOf {k : Nat} (i : BitVec k) (ty : Nat) : Nat := wrapInt (eltWidth ty) i.toInt

/-- NOP has no effect (R245). -/
def execNop (t : BitVec 6) (s : State) : Host.Outcome State Fault Refusal := issue (.nop t) s .done
/-- MOV copies A (R245). -/
def execMov (t : BitVec 6) (d a : BitVec 5) (y : BitVec 3) (s : State) : Host.Outcome State Fault Refusal :=
  issueFire (.mov t d a y) s false (lanewise 0x01 d.toNat a.toNat 28 y.toNat eMov)
/-- MOVI writes a sign-extended immediate (R245). -/
def execMovi (t : BitVec 6) (d : BitVec 5) (i : BitVec 13) (s : State) : Host.Outcome State Fault Refusal :=
  issueFire (.movi t d i) s false (immediate d.toNat 28 (fun ty _ => immOf i ty))
/-- MOVSH shifts D left by 13 and adds an unsigned immediate (R245). -/
def execMovsh (t : BitVec 6) (d : BitVec 5) (i : BitVec 13) (s : State) : Host.Outcome State Fault Refusal :=
  issueFire (.movsh t d i) s false
    (immediate d.toNat d.toNat (fun ty x => (x * 2 ^ 13 + i.toNat) % 2 ^ eltWidth ty))
/-- ADD wraps (R245). -/
def execAdd (t : BitVec 6) (d a b : BitVec 5) (y : BitVec 3) (s : State) : Host.Outcome State Fault Refusal :=
  issueFire (.add t d a b y) s false (lanewise 0x04 d.toNat a.toNat b.toNat y.toNat eAdd)
/-- SUB wraps (R245). -/
def execSub (t : BitVec 6) (d a b : BitVec 5) (y : BitVec 3) (s : State) : Host.Outcome State Fault Refusal :=
  issueFire (.sub t d a b y) s false (lanewise 0x06 d.toNat a.toNat b.toNat y.toNat eSub)
/-- ADDS saturates (R245). -/
def execAdds (t : BitVec 6) (d a b : BitVec 5) (y : BitVec 3) (s : State) : Host.Outcome State Fault Refusal :=
  issueFire (.adds t d a b y) s false (lanewise 0x07 d.toNat a.toNat b.toNat y.toNat eAdds)
/-- SUBS saturates (R245). -/
def execSubs (t : BitVec 6) (d a b : BitVec 5) (y : BitVec 3) (s : State) : Host.Outcome State Fault Refusal :=
  issueFire (.subs t d a b y) s false (lanewise 0x08 d.toNat a.toNat b.toNat y.toNat eSubs)
/-- MUL keeps the low half (R245). -/
def execMul (t : BitVec 6) (d a b : BitVec 5) (y : BitVec 3) (s : State) : Host.Outcome State Fault Refusal :=
  issueFire (.mul t d a b y) s true (lanewise 0x09 d.toNat a.toNat b.toNat y.toNat eMul)
/-- MULH keeps the high half (R245). -/
def execMulh (t : BitVec 6) (d a b : BitVec 5) (y : BitVec 3) (s : State) : Host.Outcome State Fault Refusal :=
  issueFire (.mulh t d a b y) s true (lanewise 0x0A d.toNat a.toNat b.toNat y.toNat eMulh)
/-- MAD adds the product to D (R245). -/
def execMad (t : BitVec 6) (d a b : BitVec 5) (y : BitVec 3) (s : State) : Host.Outcome State Fault Refusal :=
  issueFire (.mad t d a b y) s true (lanewise 0x0B d.toNat a.toNat b.toNat y.toNat eMad)
/-- DIV (R246). -/
def execDiv (t : BitVec 6) (d a b : BitVec 5) (y : BitVec 3) (s : State) : Host.Outcome State Fault Refusal :=
  issueFire (.div t d a b y) s true (lanewise 0x0C d.toNat a.toNat b.toNat y.toNat eDiv)
/-- REM (R246). -/
def execRem (t : BitVec 6) (d a b : BitVec 5) (y : BitVec 3) (s : State) : Host.Outcome State Fault Refusal :=
  issueFire (.rem t d a b y) s true (lanewise 0x0D d.toNat a.toNat b.toNat y.toNat eRem)
/-- MIN (R245). -/
def execMin (t : BitVec 6) (d a b : BitVec 5) (y : BitVec 3) (s : State) : Host.Outcome State Fault Refusal :=
  issueFire (.min t d a b y) s false (lanewise 0x0E d.toNat a.toNat b.toNat y.toNat eMin)
/-- MAX (R245). -/
def execMax (t : BitVec 6) (d a b : BitVec 5) (y : BitVec 3) (s : State) : Host.Outcome State Fault Refusal :=
  issueFire (.max t d a b y) s false (lanewise 0x0F d.toNat a.toNat b.toNat y.toNat eMax)
/-- ABS (R245). -/
def execAbs (t : BitVec 6) (d a : BitVec 5) (y : BitVec 3) (s : State) : Host.Outcome State Fault Refusal :=
  issueFire (.abs t d a y) s false (lanewise 0x10 d.toNat a.toNat 28 y.toNat eAbs)
/-- NEG (R245). -/
def execNeg (t : BitVec 6) (d a : BitVec 5) (y : BitVec 3) (s : State) : Host.Outcome State Fault Refusal :=
  issueFire (.neg t d a y) s false (lanewise 0x11 d.toNat a.toNat 28 y.toNat eNeg)
/-- AND (R245). -/
def execAnd (t : BitVec 6) (d a b : BitVec 5) (y : BitVec 3) (s : State) : Host.Outcome State Fault Refusal :=
  issueFire (.and t d a b y) s false (lanewise 0x12 d.toNat a.toNat b.toNat y.toNat eAnd)
/-- OR (R245). -/
def execOr (t : BitVec 6) (d a b : BitVec 5) (y : BitVec 3) (s : State) : Host.Outcome State Fault Refusal :=
  issueFire (.or t d a b y) s false (lanewise 0x14 d.toNat a.toNat b.toNat y.toNat eOr)
/-- XOR (R245). -/
def execXor (t : BitVec 6) (d a b : BitVec 5) (y : BitVec 3) (s : State) : Host.Outcome State Fault Refusal :=
  issueFire (.xor t d a b y) s false (lanewise 0x16 d.toNat a.toNat b.toNat y.toNat eXor)
/-- ANDN (R245). -/
def execAndn (t : BitVec 6) (d a b : BitVec 5) (y : BitVec 3) (s : State) : Host.Outcome State Fault Refusal :=
  issueFire (.andn t d a b y) s false (lanewise 0x17 d.toNat a.toNat b.toNat y.toNat eAndn)
/-- SHL (R246). -/
def execShl (t : BitVec 6) (d a b : BitVec 5) (y : BitVec 3) (s : State) : Host.Outcome State Fault Refusal :=
  issueFire (.shl t d a b y) s false (lanewise 0x18 d.toNat a.toNat b.toNat y.toNat eShl)
/-- SHR (R246). -/
def execShr (t : BitVec 6) (d a b : BitVec 5) (y : BitVec 3) (s : State) : Host.Outcome State Fault Refusal :=
  issueFire (.shr t d a b y) s false (lanewise 0x1A d.toNat a.toNat b.toNat y.toNat eShr)
/-- SAR (R246). -/
def execSar (t : BitVec 6) (d a b : BitVec 5) (y : BitVec 3) (s : State) : Host.Outcome State Fault Refusal :=
  issueFire (.sar t d a b y) s false (lanewise 0x1C d.toNat a.toNat b.toNat y.toNat eSar)
/-- CLZ (R245). -/
def execClz (t : BitVec 6) (d a : BitVec 5) (y : BitVec 3) (s : State) : Host.Outcome State Fault Refusal :=
  issueFire (.clz t d a y) s false (lanewise 0x1D d.toNat a.toNat 28 y.toNat eClz)
/-- POPC (R245). -/
def execPopc (t : BitVec 6) (d a : BitVec 5) (y : BitVec 3) (s : State) : Host.Outcome State Fault Refusal :=
  issueFire (.popc t d a y) s false (lanewise 0x1E d.toNat a.toNat 28 y.toNat ePopc)
/-- BFX (R246). -/
def execBfx (t : BitVec 6) (d a b : BitVec 5) (y : BitVec 3) (s : State) : Host.Outcome State Fault Refusal :=
  issueFire (.bfx t d a b y) s false (lanewise 0x1F d.toNat a.toNat b.toNat y.toNat eBfx)
/-- BFI (R246). -/
def execBfi (t : BitVec 6) (d a b : BitVec 5) (y : BitVec 3) (s : State) : Host.Outcome State Fault Refusal :=
  issueFire (.bfi t d a b y) s false (lanewise 0x20 d.toNat a.toNat b.toNat y.toNat eBfi)
/-- SEL (R246). -/
def execSel (t : BitVec 6) (d a b : BitVec 5) (y : BitVec 3) (s : State) : Host.Outcome State Fault Refusal :=
  issueFire (.sel t d a b y) s false (lanewise 0x21 d.toNat a.toNat b.toNat y.toNat eSel)
/-- CMPEQ (R247). -/
def execCmpeq (t : BitVec 6) (d a b : BitVec 5) (y : BitVec 3) (s : State) : Host.Outcome State Fault Refusal :=
  issueFire (.cmpeq t d a b y) s false (lanewise 0x22 d.toNat a.toNat b.toNat y.toNat eCmpeq)
/-- CMPNE (R247). -/
def execCmpne (t : BitVec 6) (d a b : BitVec 5) (y : BitVec 3) (s : State) : Host.Outcome State Fault Refusal :=
  issueFire (.cmpne t d a b y) s false (lanewise 0x23 d.toNat a.toNat b.toNat y.toNat eCmpne)
/-- CMPLT (R247). -/
def execCmplt (t : BitVec 6) (d a b : BitVec 5) (y : BitVec 3) (s : State) : Host.Outcome State Fault Refusal :=
  issueFire (.cmplt t d a b y) s false (lanewise 0x24 d.toNat a.toNat b.toNat y.toNat eCmplt)
/-- CMPLE (R247). -/
def execCmple (t : BitVec 6) (d a b : BitVec 5) (y : BitVec 3) (s : State) : Host.Outcome State Fault Refusal :=
  issueFire (.cmple t d a b y) s false (lanewise 0x25 d.toNat a.toNat b.toNat y.toNat eCmple)
/-- ADDI adds a sign-extended immediate (R245). -/
def execAddi (t : BitVec 6) (d a : BitVec 5) (i : BitVec 8) (s : State) : Host.Outcome State Fault Refusal :=
  issueFire (.addi t d a i) s false (immediate d.toNat a.toNat (fun ty x => (eAdd ty 0 x (immOf i ty)).1))
/-- ANDI (R245). -/
def execAndi (t : BitVec 6) (d a : BitVec 5) (i : BitVec 8) (s : State) : Host.Outcome State Fault Refusal :=
  issueFire (.andi t d a i) s false (immediate d.toNat a.toNat (fun ty x => (eAnd ty 0 x (immOf i ty)).1))
/-- ORI (R245). -/
def execOri (t : BitVec 6) (d a : BitVec 5) (i : BitVec 8) (s : State) : Host.Outcome State Fault Refusal :=
  issueFire (.ori t d a i) s false (immediate d.toNat a.toNat (fun ty x => (eOr ty 0 x (immOf i ty)).1))
/-- CMPEQI is signed (R247). -/
def execCmpeqi (t : BitVec 6) (d a : BitVec 5) (i : BitVec 8) (s : State) : Host.Outcome State Fault Refusal :=
  issueFire (.cmpeqi t d a i) s false (immediate d.toNat a.toNat (fun ty x => (eCmpeq ty 0 x (immOf i ty)).1))
/-- CMPLTI is signed (R247). -/
def execCmplti (t : BitVec 6) (d a : BitVec 5) (i : BitVec 8) (s : State) : Host.Outcome State Fault Refusal :=
  issueFire (.cmplti t d a i) s false (immediate d.toNat a.toNat (fun ty x => (eCmplt ty 0 x (immOf i ty)).1))
/-- SHLI: the immediate is a shift count, taken modulo the width (R227, R246). -/
def execShli (t : BitVec 6) (d a : BitVec 5) (i : BitVec 8) (s : State) : Host.Outcome State Fault Refusal :=
  issueFire (.shli t d a i) s false (immediate d.toNat a.toNat (fun ty x => (eShl ty 0 x i.toNat).1))
/-- SHRI: the immediate is a shift count, taken modulo the width (R227, R246). -/
def execShri (t : BitVec 6) (d a : BitVec 5) (i : BitVec 8) (s : State) : Host.Outcome State Fault Refusal :=
  issueFire (.shri t d a i) s false (immediate d.toNat a.toNat (fun ty x => (eShr ty 0 x i.toNat).1))

end Sys2Proof.Machine
end

