-- ==== Sys2Proof/Machine/FloatOps.lean ====
section
/-!
DEFINITION. Floating-point instructions (R197, R248 to R250).
-/

namespace Sys2Proof.Machine

/-- A lane-wise instruction whose element function takes the format and RM (R189). -/
def floatwise (o : Nat) (d a b : BitVec 5) (y : BitVec 3) (f : FFmt → Nat → EltFn) (n : Node) : Except Trap Fire :=
  lanewise o d.toNat a.toNat b.toNat y.toNat (fun ty => f (tyFmt ty) (fpRM n.regs.fp)) n

/-- All ones of a format where a compare holds (R249). -/
def fOnes (f : FFmt) (r : Bool × Fl) : Nat × Fl := (if r.1 then 2 ^ (f.eb + f.fb + 1) - 1 else 0, r.2)

/-- The signed integer an element of B holds for FSCL (R250). -/
def sclInt (f : FFmt) (b : Nat) : Int := toSigned (f.eb + f.fb + 1) b

/-- FADD (R248). -/
def execFadd (t : BitVec 6) (d a b : BitVec 5) (y : BitVec 3) (s : State) : Host.Outcome State Fault Refusal :=
  issueFire (.fadd t d a b y) s true (floatwise 0x30 d a b y (fun f rm _ a b => fAdd f rm a b))
/-- FSUB (R248). -/
def execFsub (t : BitVec 6) (d a b : BitVec 5) (y : BitVec 3) (s : State) : Host.Outcome State Fault Refusal :=
  issueFire (.fsub t d a b y) s true (floatwise 0x31 d a b y (fun f rm _ a b => fSub f rm a b))
/-- FMUL (R248). -/
def execFmul (t : BitVec 6) (d a b : BitVec 5) (y : BitVec 3) (s : State) : Host.Outcome State Fault Refusal :=
  issueFire (.fmul t d a b y) s true (floatwise 0x32 d a b y (fun f rm _ a b => fMul f rm a b))
/-- FFMA: one rounding (R248). -/
def execFfma (t : BitVec 6) (d a b : BitVec 5) (y : BitVec 3) (s : State) : Host.Outcome State Fault Refusal :=
  issueFire (.ffma t d a b y) s true (floatwise 0x33 d a b y (fun f rm d a b => fFma f rm false a b d))
/-- FFMS: D minus the product, one rounding (R248). -/
def execFfms (t : BitVec 6) (d a b : BitVec 5) (y : BitVec 3) (s : State) : Host.Outcome State Fault Refusal :=
  issueFire (.ffms t d a b y) s true (floatwise 0x34 d a b y (fun f rm d a b => fFma f rm true a b d))
/-- FMIN (R249). -/
def execFmin (t : BitVec 6) (d a b : BitVec 5) (y : BitVec 3) (s : State) : Host.Outcome State Fault Refusal :=
  issueFire (.fmin t d a b y) s true (floatwise 0x35 d a b y (fun f _ _ a b => fMinMax f false a b))
/-- FMAX (R249). -/
def execFmax (t : BitVec 6) (d a b : BitVec 5) (y : BitVec 3) (s : State) : Host.Outcome State Fault Refusal :=
  issueFire (.fmax t d a b y) s true (floatwise 0x36 d a b y (fun f _ _ a b => fMinMax f true a b))
/-- FABS clears the sign bit (R248). -/
def execFabs (t : BitVec 6) (d a : BitVec 5) (y : BitVec 3) (s : State) : Host.Outcome State Fault Refusal :=
  issueFire (.fabs t d a y) s true (floatwise 0x37 d a 28 y (fun f _ _ a _ => (a % fSignBit f, 0)))
/-- FNEG inverts the sign bit (R248). -/
def execFneg (t : BitVec 6) (d a : BitVec 5) (y : BitVec 3) (s : State) : Host.Outcome State Fault Refusal :=
  issueFire (.fneg t d a y) s true (floatwise 0x38 d a 28 y (fun f _ _ a _ => (a ^^^ fSignBit f, 0)))
/-- FCMPEQ (R249). -/
def execFcmpeq (t : BitVec 6) (d a b : BitVec 5) (y : BitVec 3) (s : State) : Host.Outcome State Fault Refusal :=
  issueFire (.fcmpeq t d a b y) s true (floatwise 0x39 d a b y (fun f _ _ a b => fOnes f (fCmp f 0 a b)))
/-- FCMPLT (R249). -/
def execFcmplt (t : BitVec 6) (d a b : BitVec 5) (y : BitVec 3) (s : State) : Host.Outcome State Fault Refusal :=
  issueFire (.fcmplt t d a b y) s true (floatwise 0x3A d a b y (fun f _ _ a b => fOnes f (fCmp f 1 a b)))
/-- FCMPLE (R249). -/
def execFcmple (t : BitVec 6) (d a b : BitVec 5) (y : BitVec 3) (s : State) : Host.Outcome State Fault Refusal :=
  issueFire (.fcmple t d a b y) s true (floatwise 0x3B d a b y (fun f _ _ a b => fOnes f (fCmp f 2 a b)))
/-- FCMPUN (R249). -/
def execFcmpun (t : BitVec 6) (d a b : BitVec 5) (y : BitVec 3) (s : State) : Host.Outcome State Fault Refusal :=
  issueFire (.fcmpun t d a b y) s true (floatwise 0x3C d a b y (fun f _ _ a b => fOnes f (fCmp f 3 a b)))
/-- FRCPE (R197). -/
def execFrcpe (t : BitVec 6) (d a : BitVec 5) (y : BitVec 3) (s : State) : Host.Outcome State Fault Refusal :=
  issueFire (.frcpe t d a y) s true (floatwise 0x3D d a 28 y (fun f _ _ a _ => fEst f 0 a))
/-- FRSQE (R197). -/
def execFrsqe (t : BitVec 6) (d a : BitVec 5) (y : BitVec 3) (s : State) : Host.Outcome State Fault Refusal :=
  issueFire (.frsqe t d a y) s true (floatwise 0x3E d a 28 y (fun f _ _ a _ => fEst f 1 a))
/-- FEXP2 (R197). -/
def execFexp2 (t : BitVec 6) (d a : BitVec 5) (y : BitVec 3) (s : State) : Host.Outcome State Fault Refusal :=
  issueFire (.fexp2 t d a y) s true (floatwise 0x3F d a 28 y (fun f _ _ a _ => fEst f 2 a))
/-- FLOG2 (R197). -/
def execFlog2 (t : BitVec 6) (d a : BitVec 5) (y : BitVec 3) (s : State) : Host.Outcome State Fault Refusal :=
  issueFire (.flog2 t d a y) s true (floatwise 0x40 d a 28 y (fun f _ _ a _ => fEst f 3 a))
/-- FDIV (R248). -/
def execFdiv (t : BitVec 6) (d a b : BitVec 5) (y : BitVec 3) (s : State) : Host.Outcome State Fault Refusal :=
  issueFire (.fdiv t d a b y) s true (floatwise 0x41 d a b y (fun f rm _ a b => fDiv f rm a b))
/-- FSQRT (R248). -/
def execFsqrt (t : BitVec 6) (d a : BitVec 5) (y : BitVec 3) (s : State) : Host.Outcome State Fault Refusal :=
  issueFire (.fsqrt t d a y) s true (floatwise 0x42 d a 28 y (fun f rm _ a _ => fSqrt f rm a))
/-- FRND (R250). -/
def execFrnd (t : BitVec 6) (d a : BitVec 5) (y : BitVec 3) (s : State) : Host.Outcome State Fault Refusal :=
  issueFire (.frnd t d a y) s true (floatwise 0x43 d a 28 y (fun f rm _ a _ => fRnd f rm a))
/-- FCLASS raises no flag (R250). -/
def execFclass (t : BitVec 6) (d a : BitVec 5) (y : BitVec 3) (s : State) : Host.Outcome State Fault Refusal :=
  issueFire (.fclass t d a y) s true (floatwise 0x44 d a 28 y (fun f _ _ a _ => (fClass f a, 0)))
/-- FSCL (R250). -/
def execFscl (t : BitVec 6) (d a b : BitVec 5) (y : BitVec 3) (s : State) : Host.Outcome State Fault Refusal :=
  issueFire (.fscl t d a b y) s true (floatwise 0x45 d a b y (fun f rm _ a b => fScl f rm a (sclInt f b)))

end Sys2Proof.Machine
end

