-- ==== Sys2Proof/Machine/ConvertOps.lean ====
section
/-!
DEFINITION. Conversion, packing and the scaled formats (R195, R196, R251 to R253).
-/

namespace Sys2Proof.Machine

/-- A two-element float type. -/
def tyPacked (ty : Nat) : Bool := ty == 3 || ty == 4
/-- A float type. -/
def tyFloat (ty : Nat) : Bool := ty == 2 || ty == 3 || ty == 4

/-- One element from the source type to the destination type (R195, R251). -/
def cvtElt (sat : Bool) (dst src rm x : Nat) : Nat × Fl :=
  if tyFloat src then
    if tyFloat dst then fConv (tyFmt dst) (tyFmt src) rm sat x
    else fToInt (tyFmt src) rm (eltWidth dst) (tySigned dst) x
  else
    let v := eltInt src x
    if tyFloat dst then fOfInt (tyFmt dst) rm v
    else (if sat then satInt dst v else wrapInt (eltWidth dst) v, 0)

/-- One lane: packed to packed takes both elements; otherwise element 0 alone is read and written, element 1 being +0
(R251). -/
def cvtLane (sat : Bool) (dst src rm : Nat) (x : W32) : W32 × Fl :=
  if tyPacked src && tyPacked dst then onLane 16 (fun _ a _ => cvtElt sat dst src rm a) 0 x 0
  else
    let r := cvtElt sat dst src rm (x.toNat % 2 ^ (if tyPacked src then 16 else 32))
    (BitVec.ofNat 32 r.1, r.2)

/-- CVT and CVTS (R251). -/
def convert (sat : Bool) (d a dst src : Nat) (n : Node) : Except Trap Fire :=
  let rm := fpRM n.regs.fp
  if isScalarShape [d, a] then
    let x := (srcVal n a).toNat % 2 ^ (if tyPacked src then 16 else if src = 6 then 64 else 32)
    if dst = 6 then
      let r := cvtElt sat 6 src rm x
      writeScalar n d (BitVec.ofNat 64 r.1) r.2
    else
      let r := if src = 6 then (let e := cvtElt sat dst src rm x; (BitVec.ofNat 32 e.1, e.2))
        else cvtLane sat dst src rm ((srcVal n a).setWidth 32)
      writeScalar n d (extend dst r.1) r.2
  else
    let m := srcMask n a
    let rs := (List.range 16).map (fun k =>
      if maskBit m k then cvtLane sat dst src rm ((srcLanes n a).get k) else ((0 : W32), (0 : Fl)))
    writeVec n d a 28 dst m (Lanes.ofList (rs.map (·.1))) (rs.foldl (fun acc r => acc ||| r.2) 0) true

/-- An instruction over whole lanes: values and validity of A and B give the result's lanes and its lane set. A scalar
stands in every lane, and a scalar-shaped instruction keeps lane 0 (R241, log 11). -/
def laneOp (o d a b y : Nat) (f : Nat → Lanes → Lanes → BitVec 16 → BitVec 16 → Lanes × BitVec 16 × Fl) (n : Node) :
    Except Trap Fire :=
  match effTy n o a y with
  | .error t => .error t
  | .ok ty =>
    let r := f ty (srcLanes n a) (srcLanes n b) (srcMask n a) (srcMask n b)
    if isScalarShape [d, a, b] then
      if ty = 6 then writeScalar n d (srcVal n a) 0 else writeScalar n d (extend ty (r.1.get 0)) r.2.2
    else writeVec n d a b ty r.2.1 r.1 r.2.2 true

/-- Element 0 of a lane, or zero where the lane is invalid (R252). -/
def packElt (w : Nat) (x : Lanes) (v : BitVec 16) (j : Nat) : Nat := if maskBit v j then eltOf w (x.get j) 0 else 0

/-- PACK: element 0 of the lanes of A, then of B, packed in order; an output lane is valid when a lane that supplied it
is (R252). -/
def packLanes (w : Nat) (a b : Lanes) (va vb : BitVec 16) : Lanes × BitVec 16 × Fl :=
  let f := 32 / w
  let e := fun j => if j < 16 then packElt w a va j else packElt w b vb (j - 16)
  let ok := fun j => if j < 16 then maskBit va j else maskBit vb (j - 16)
  let lane := fun k => (List.range f).foldl (fun acc i => acc + e (f * k + i) * 2 ^ (w * i)) 0
  (Lanes.ofFn (fun k => if k < 32 / f then BitVec.ofNat 32 (lane k) else 0),
   maskOf (fun k => decide (k < 32 / f) && (List.range f).any (fun i => ok (f * k + i))), 0)

/-- UNPKL and UNPKH: element k mod f of lane base + k div f, zero-extended (R252). -/
def unpackLanes (w : Nat) (high : Bool) (a : Lanes) (va : BitVec 16) : Lanes × BitVec 16 × Fl :=
  let f := 32 / w
  let src := fun k => (if high then 16 / f else 0) + k / f
  (Lanes.ofFn (fun k => BitVec.ofNat 32 (eltOf w (a.get (src k)) (k % f))), maskOf (fun k => maskBit va (src k)), 0)

/-- The FP16 scale of a scale lane (R43, R185). -/
def scaleOf (b : Nat) : FVal := fUnpack f16 (b % 2 ^ 16)
/-- The zero point of a scale lane for INT8a. -/
def zeroOf (b : Nat) : Nat := b / 2 ^ 16 % 256

/-- QNT: q of R196 for n = 8. -/
def qntElt (rm a b : Nat) : Nat × Fl :=
  let s := scaleOf b
  let z := zeroOf b
  let x := fUnpack f32 a
  if s.isNaN || s.cls == .inf || s.cls == .zero || x.isNaN then (z, flNV)
  else
    let neg := x.neg != s.neg
    if x.cls == .inf then (if neg then 0 else 255, flOF)
    else
      let r := rint rm neg (x.num * s.den) (x.den * s.num)
      let v : Int := (if neg then -(r.1 : Int) else r.1) + z
      let q : Int := if v < 0 then 0 else if v > 255 then 255 else v
      (q.toNat, flIf r.2 flNX ||| flIf (decide (q ≠ v)) flOF)

/-- DEQ: s × (q − z), by IEEE multiplication (R253). -/
def deqElt (rm a b : Nat) : Nat × Fl :=
  let s := fConv f32 f16 rm false (b % 2 ^ 16)
  let m := fMul f32 rm s.1 (fOfInt f32 rm ((a % 256 : Nat) - (zeroOf b : Int))).1
  (m.1, m.2 ||| s.2)

/-- QDOT: d plus the products of the unsigned bytes (R253). -/
def qdotElt (d a b : Nat) : Nat × Fl :=
  ((d + (List.range 4).foldl (fun acc j => acc + a / 256 ^ j % 256 * (b / 256 ^ j % 256)) 0) % 2 ^ 32, 0)

/-- The sum of two magnitudes as a fraction. -/
def fracAdd (a b : Nat × Nat) : Nat × Nat := (a.1 * b.2 + b.1 * a.2, a.2 * b.2)

/-- SCLD: a scale lane from a minimum a and a maximum b (R253). -/
def scldElt (rm a b : Nat) : Nat × Fl :=
  let x := fUnpack f32 a
  let y := fUnpack f32 b
  if x.isNaN || y.isNaN || fLess y x then (0x7E00, flNV)
  else
    let lo : FVal := if x.neg then x else ⟨.zero, false, 0, 1⟩
    let hi : FVal := if y.neg then ⟨.zero, false, 0, 1⟩ else y
    if lo.cls == .inf || hi.cls == .inf then (0x7C00, flOF ||| flNX)
    else
      let w := fracAdd (lo.num, lo.den) (hi.num, hi.den)
      let s := fPack f16 rm false w.1 (w.2 * 255)
      if s.1 = fInf f16 then (0x7C00, flOF ||| flNX)
      else
        let bits := if s.1 = 0 then 0x3C00 else s.1
        let v := fUnpack f16 bits
        let z := rint rm false (lo.num * v.den) (lo.den * v.num)
        (min z.1 255 * 2 ^ 16 + bits, s.2 ||| flIf z.2 flNX)

/-- CVT (R251). -/
def execCvt (t : BitVec 6) (d a : BitVec 5) (c y : BitVec 3) (s : State) : Host.Outcome State Fault Refusal :=
  issueFire (.cvt t d a c y) s true (convert false d.toNat a.toNat y.toNat c.toNat)
/-- CVTS (R251). -/
def execCvts (t : BitVec 6) (d a : BitVec 5) (c y : BitVec 3) (s : State) : Host.Outcome State Fault Refusal :=
  issueFire (.cvts t d a c y) s true (convert true d.toNat a.toNat y.toNat c.toNat)
/-- PACK (R252). -/
def execPack (t : BitVec 6) (d a b : BitVec 5) (y : BitVec 3) (s : State) : Host.Outcome State Fault Refusal :=
  issueFire (.pack t d a b y) s true
    (laneOp 0x52 d.toNat a.toNat b.toNat y.toNat (fun ty x z va vb => packLanes (eltWidth ty) x z va vb))
/-- UNPKL (R252). -/
def execUnpkl (t : BitVec 6) (d a : BitVec 5) (y : BitVec 3) (s : State) : Host.Outcome State Fault Refusal :=
  issueFire (.unpkl t d a y) s true
    (laneOp 0x53 d.toNat a.toNat 28 y.toNat (fun ty x _ va _ => unpackLanes (eltWidth ty) false x va))
/-- UNPKH (R252). -/
def execUnpkh (t : BitVec 6) (d a : BitVec 5) (y : BitVec 3) (s : State) : Host.Outcome State Fault Refusal :=
  issueFire (.unpkh t d a y) s true
    (laneOp 0x54 d.toNat a.toNat 28 y.toNat (fun ty x _ va _ => unpackLanes (eltWidth ty) true x va))

/-- A scaled-format instruction works on whole lanes whatever its type (R253). -/
def scaledOp (o d a b y : Nat) (f : Nat → EltFn) (n : Node) : Except Trap Fire :=
  match effTy n o a y with
  | .error t => .error t
  | .ok ty =>
    let g := f (fpRM n.regs.fp)
    if isScalarShape [d, a, b] then
      let lo := fun c => (srcVal n c).setWidth 32
      let r := onLane 32 g (lo d) (lo a) (lo b)
      writeScalar n d (extend ty r.1) r.2
    else
      let m := srcMask n a &&& srcMask n b
      let r := onLanes 32 g m (srcLanes n d) (srcLanes n a) (srcLanes n b)
      writeVec n d a b ty m r.1 r.2 true

/-- QNT (R196, R253). -/
def execQnt (t : BitVec 6) (d a b : BitVec 5) (y : BitVec 3) (s : State) : Host.Outcome State Fault Refusal :=
  issueFire (.qnt t d a b y) s true (scaledOp 0x55 d.toNat a.toNat b.toNat y.toNat (fun rm _ x z => qntElt rm x z))
/-- DEQ (R253). -/
def execDeq (t : BitVec 6) (d a b : BitVec 5) (y : BitVec 3) (s : State) : Host.Outcome State Fault Refusal :=
  issueFire (.deq t d a b y) s true (scaledOp 0x56 d.toNat a.toNat b.toNat y.toNat (fun rm _ x z => deqElt rm x z))
/-- QDOT (R253). -/
def execQdot (t : BitVec 6) (d a b : BitVec 5) (y : BitVec 3) (s : State) : Host.Outcome State Fault Refusal :=
  issueFire (.qdot t d a b y) s true (scaledOp 0x57 d.toNat a.toNat b.toNat y.toNat (fun _ w x z => qdotElt w x z))
/-- SCLD (R253). -/
def execScld (t : BitVec 6) (d a b : BitVec 5) (y : BitVec 3) (s : State) : Host.Outcome State Fault Refusal :=
  issueFire (.scld t d a b y) s true (scaledOp 0x58 d.toNat a.toNat b.toNat y.toNat (fun rm _ x z => scldElt rm x z))

end Sys2Proof.Machine
end

