-- ==== Sys2Proof/Machine/LaneOps.lean ====
section
/-!
DEFINITION. Lane moves, reductions, FILTER, COAL and masks (R200, R254 to R258).
-/

namespace Sys2Proof.Machine

/-- Lanes of a move: lane k of the result is lane `src k` of A, valid where `ok k` (R254). -/
def moveLanes (a : Lanes) (src : Nat → Nat) (ok : Nat → Bool) : Lanes × BitVec 16 × Fl :=
  (Lanes.ofFn (fun k => a.get (src k % 16)), maskOf ok, 0)

/-- BCAST (R254). -/
def execBcast (t : BitVec 6) (d a b : BitVec 5) (y : BitVec 3) (s : State) : Host.Outcome State Fault Refusal :=
  issueFire (.bcast t d a b y) s false (laneOp 0x60 d.toNat a.toNat b.toNat y.toNat (fun _ x z va _ =>
    let j := (z.get 0).toNat % 16
    moveLanes x (fun _ => j) (fun _ => maskBit va j)))
/-- PERM (R254). -/
def execPerm (t : BitVec 6) (d a b : BitVec 5) (y : BitVec 3) (s : State) : Host.Outcome State Fault Refusal :=
  issueFire (.perm t d a b y) s false (laneOp 0x61 d.toNat a.toNat b.toNat y.toNat (fun _ x z va vb =>
    moveLanes x (fun k => (z.get k).toNat) (fun k => maskBit va ((z.get k).toNat % 16) && maskBit vb k)))
/-- LROT: lanes and VMASK rotate together (R254). -/
def execLrot (t : BitVec 6) (d a : BitVec 5) (i : BitVec 8) (s : State) : Host.Outcome State Fault Refusal :=
  issueFire (.lrot t d a i) s false (fun n =>
    let r := moveLanes (srcLanes n a.toNat) (fun k => k + i.toNat)
      (fun k => maskBit (srcMask n a.toNat) ((k + i.toNat) % 16))
    writeVec n d.toNat a.toNat 28 0 r.2.1 r.1 0 true)
/-- LANEID (R254). -/
def execLaneid (t : BitVec 6) (d : BitVec 5) (y : BitVec 3) (s : State) : Host.Outcome State Fault Refusal :=
  issueFire (.laneid t d y) s false (fun n =>
    writeVec n d.toNat 28 28 y.toNat 0xFFFF (Lanes.ofFn (fun k => BitVec.ofNat 32 k)) 0 true)
/-- INSL: lane n of D becomes lane 0 of A, where that lane is valid (R254; n modulo 16, log 12). -/
def execInsl (t : BitVec 6) (d a : BitVec 5) (i : BitVec 8) (s : State) : Host.Outcome State Fault Refusal :=
  issueFire (.insl t d a i) s false (fun n =>
    let m := maskOf (fun k => k == i.toNat % 16 && maskBit (srcMask n a.toNat) 0)
    writeVec n d.toNat a.toNat 28 0 m (Lanes.ofFn (fun _ => (srcLanes n a.toNat).get 0)) 0 true)
/-- EXTL: every lane becomes lane n of A; a scalar receives it sign-extended, or 0 where it is invalid (R254; log 12). -/
def execExtl (t : BitVec 6) (d a : BitVec 5) (i : BitVec 8) (s : State) : Host.Outcome State Fault Refusal :=
  issueFire (.extl t d a i) s false (fun n =>
    let j := i.toNat % 16
    let x := (srcLanes n a.toNat).get j
    let ok := maskBit (srcMask n a.toNat) j
    if classOf d.toNat = 2 then writeScalar n d.toNat (if ok then x.signExtend 64 else 0) 0
    else writeVec n d.toNat a.toNat 28 0 (if ok then 0xFFFF else 0) (Lanes.ofFn (fun _ => x)) 0 true)

/-! ## Reductions (R200, R255) -/

/-- The valid elements of a source in element order, 2 × lane + half for packed types; none where the lane is invalid. -/
def leaves (w : Nat) (x : Lanes) (m : BitVec 16) : List (Option Nat) :=
  let per := 32 / w
  (List.range (16 * per)).map (fun i =>
    if maskBit m (i / per) then some (eltOf w (x.get (i / per)) (i % per)) else none)

/-- A tree node: with one operand present it passes that operand on unchanged (R200). -/
def joinNode (f : Nat → Nat → Nat × Fl) : Option Nat → Option Nat → Option Nat × Fl
  | some a, some b => let r := f a b; (some r.1, r.2)
  | some a, none => (some a, 0)
  | none, b => (b, 0)

/-- One level of the pairwise tree. -/
def treeLevel (f : Nat → Nat → Nat × Fl) : List (Option Nat) → List (Option Nat) × Fl
  | a :: b :: l =>
    let j := joinNode f a b
    let r := treeLevel f l
    (j.1 :: r.1, j.2 ||| r.2)
  | l => (l, 0)

/-- The pairwise tree, level by level (R200). -/
def treeFold (f : Nat → Nat → Nat × Fl) : Nat → List (Option Nat) → Option Nat × Fl
  | 0, l => (l.headD none, 0)
  | k + 1, l =>
    let r := treeLevel f l
    let t := treeFold f k r.1
    (t.1, r.2 ||| t.2)

/-- The node function of a reduction: 0 RSUM, 1 RMAX, 2 RMIN (R255). -/
def redFn (kind ty rm : Nat) (a b : Nat) : Nat × Fl :=
  if tyFloat ty then
    if kind = 0 then fAdd (tyFmt ty) rm a b else fMinMax (tyFmt ty) (kind == 1) a b
  else if kind = 0 then ((a + b) % 2 ^ 32, 0)
  else if kind = 1 then eMax ty 0 a b else eMin ty 0 a b

/-- The result of a reduction with no valid element (R255). -/
def redEmpty (kind ty : Nat) : Nat :=
  if tyFloat ty then (if kind = 0 then 0 else fSigned (tyFmt ty) (kind == 1) (fInf (tyFmt ty)))
  else if kind = 0 then 0
  else if kind = 1 then (if ty = 0 then 2 ^ 31 else 0)
  else if ty = 0 then 2 ^ 31 - 1 else 2 ^ 32 - 1

/-- A value in every element of a lane. -/
def splat (w v : Nat) : W32 := BitVec.ofNat 32 ((List.range (32 / w)).foldl (fun acc j => acc + v * 2 ^ (w * j)) 0)

/-- RSUM, RMAX and RMIN: the tree's result in every lane of L, or in a scalar; a scalar-shaped one reads lane 0 alone
(R241, R255). -/
def reduce (kind o d a y : Nat) (n : Node) : Except Trap Fire :=
  match effTy n o a y with
  | .error t => .error t
  | .ok ty =>
    let w := eltWidth ty
    let rm := fpRM n.regs.fp
    let m := if classOf a = 2 || classOf a = 16 then (if isScalarShape [d, a] then 1 else 0xFFFF) else srcMask n a
    let r := treeFold (redFn kind ty rm) 5 (leaves w (srcLanes n a) m)
    let v := r.1.getD (redEmpty kind ty)
    if classOf d = 2 || isScalarShape [d, a] then writeScalar n d (extend ty (splat w v)) r.2
    else writeVec n d a 28 ty m (Lanes.ofFn (fun _ => splat w v)) r.2 true

/-- RSUM (R255). -/
def execRsum (t : BitVec 6) (d a : BitVec 5) (y : BitVec 3) (s : State) : Host.Outcome State Fault Refusal :=
  issueFire (.rsum t d a y) s true (reduce 0 0x63 d.toNat a.toNat y.toNat)
/-- RMAX (R255). -/
def execRmax (t : BitVec 6) (d a : BitVec 5) (y : BitVec 3) (s : State) : Host.Outcome State Fault Refusal :=
  issueFire (.rmax t d a y) s true (reduce 1 0x64 d.toNat a.toNat y.toNat)
/-- RMIN (R255). -/
def execRmin (t : BitVec 6) (d a : BitVec 5) (y : BitVec 3) (s : State) : Host.Outcome State Fault Refusal :=
  issueFire (.rmin t d a y) s true (reduce 2 0x65 d.toNat a.toNat y.toNat)

/-- The fold of every valid element up to each one (R200, R255). -/
def scanGo (f : Nat → Nat → Nat × Fl) : Option Nat → List (Option Nat) → List Nat × Fl
  | _, [] => ([], 0)
  | acc, none :: l => let r := scanGo f acc l; (0 :: r.1, r.2)
  | acc, some x :: l =>
    let j := joinNode f acc (some x)
    let v := j.1.getD x
    let r := scanGo f (some v) l
    (v :: r.1, j.2 ||| r.2)

/-- Lanes from elements in element order. -/
def ofElts (w : Nat) (l : List Nat) : Lanes :=
  let per := 32 / w
  Lanes.ofFn (fun k =>
    BitVec.ofNat 32 ((List.range per).foldl (fun acc j => acc + l.getD (k * per + j) 0 * 2 ^ (w * j)) 0))

/-- SCAN (R255): a scalar D is no operand of it. -/
def execScan (t : BitVec 6) (d a : BitVec 5) (y : BitVec 3) (s : State) : Host.Outcome State Fault Refusal :=
  issueFire (.scan t d a y) s true (fun n =>
    match effTy n 0x66 a.toNat y.toNat with
    | .error t => .error t
    | .ok ty =>
      let w := eltWidth ty
      let m := if isScalarShape [d.toNat, a.toNat] then 1 else srcMask n a.toNat
      let r := scanGo (redFn 0 ty (fpRM n.regs.fp)) none (leaves w (srcLanes n a.toNat) m)
      writeVec n d.toNat a.toNat 28 ty m (ofElts w r.1) r.2 true)

/-! ## Compacted streams (R256, R257) -/

/-- TSTEP of the channel an operand names; 1 for any other operand. -/
def srcStep (n : Node) (c : Nat) : Nat := if classOf c = 4 then (nodePair n (chanOf c)).tstep else 1

/-- FILTER: the valid lanes, or pairs, of A move to the low places; an end stays at its place in A's stream (R40, R256). -/
def execFilter (t : BitVec 6) (d a : BitVec 5) (y : BitVec 3) (s : State) : Host.Outcome State Fault Refusal :=
  issueFire (.filter t d a y) s false (fun n =>
    match effTy n 0x67 a.toNat y.toNat with
    | .error t => .error t
    | .ok ty =>
      let c := inPairs n a.toNat
      let x := srcLanes n a.toNat
      let m := if isScalarShape [d.toNat, a.toNat] then 1 else srcMask n a.toNat
      let ks := (List.range (if c then 8 else 16)).filter (maskBit m)
      let k := ks.length
      let out := Lanes.ofFn (fun i =>
        if i < k then x.get (ks.getD i 0) else if c && 8 ≤ i && i < 8 + k then x.get (ks.getD (i - 8) 0 + 8) else 0)
      let m' := maskOf (fun i => decide (i < k) || (c && decide (8 ≤ i ∧ i < 8 + k)))
      if isScalarShape [d.toNat, a.toNat] then
        writeScalar n d.toNat (if ty = 6 then srcVal n a.toNat else extend ty (out.get 0)) 0
      else
        match writeVec n d.toNat a.toNat 28 ty m' out 0 false with
        | .error t => .error t
        | .ok f =>
          let first := match ks with | j :: _ => j * srcStep n a.toNat | [] => 0
          let last := (headOf n a.toNat).map (endPos (srcStep n a.toNat))
          let fix := fun (q : OutReq) => { q with tok := { q.tok with hdr := hSetT q.tok.hdr (hT q.tok.hdr + first) }, pos := last }
          .ok { f with out := f.out.map fix })

/-- COAL: the valid lanes of A join the open token of port D (R257). -/
def execCoal (t : BitVec 6) (d a : BitVec 5) (y : BitVec 3) (s : State) : Host.Outcome State Fault Refusal :=
  issueFire (.coal t d a y) s false (fun n =>
    match effTy n 0x68 a.toNat y.toNat with
    | .error t => .error t
    | .ok ty =>
      let tok : Token := { hdr := fireHdr n a.toNat 28 ty (srcMask n a.toNat), pay := srcLanes n a.toNat }
      .ok { regs := n.regs, out := [], coal := some (d.toNat - 24, tok, srcStep n a.toNat, inPairs n a.toNat) })

/-! ## Masks (R258) -/

/-- MSKG: VMASK of A's head, or 0xFFFF (R258). -/
def execMskg (t : BitVec 6) (d a : BitVec 5) (y : BitVec 3) (s : State) : Host.Outcome State Fault Refusal :=
  issueFire (.mskg t d a y) s false (fun n =>
    match effTy n 0x69 a.toNat y.toNat with
    | .error t => .error t
    | .ok ty =>
      let v : BitVec 16 := match headOf n a.toNat with | some h => hMask h.hdr | none => 0xFFFF
      if classOf d.toNat = 2 || isScalarShape [d.toNat, a.toNat] then writeScalar n d.toNat (v.setWidth 64) 0
      else writeVec n d.toNat a.toNat 28 ty (srcMask n a.toNat) (Lanes.ofFn (fun _ => v.setWidth 32)) 0 true)

/-- The lanes an operand selects: bits of a scalar, or the valid non-zero lanes of a vector or a head (R258, R268). -/
def allowMask (n : Node) (c : Nat) : BitVec 16 :=
  if classOf c = 2 || classOf c = 16 then (srcVal n c).setWidth 16
  else maskOf (fun k => maskBit (srcMask n c) k && (srcLanes n c).get k != 0)

/-- The survivors of a lane set; pairs of a COORD head survive together (R39). -/
def keepMask (pairs : Bool) (m allow : BitVec 16) : BitVec 16 :=
  maskOf (fun k => maskBit m k && maskBit allow (if pairs then k % 8 else k))

/-- MSKS: A's lanes that B allows (R258). -/
def execMsks (t : BitVec 6) (d a b : BitVec 5) (y : BitVec 3) (s : State) : Host.Outcome State Fault Refusal :=
  issueFire (.msks t d a b y) s false (fun n =>
    match effTy n 0x6A a.toNat y.toNat with
    | .error t => .error t
    | .ok ty =>
      let m := keepMask (inPairs n a.toNat) (srcMask n a.toNat) (allowMask n b.toNat)
      if isScalarShape [d.toNat, a.toNat, b.toNat] then
        let old := srcVal n d.toNat
        writeScalar n d.toNat (if maskBit m 0 then extend ty ((srcVal n a.toNat).setWidth 32) else old) 0
      else writeVec n d.toNat a.toNat b.toNat ty m (srcLanes n a.toNat) 0 true)

end Sys2Proof.Machine
end

