-- ==== Sys2Proof/Machine/StreamOps.lean ====
section
/-!
DEFINITION. Headers and tokens, opcodes 0x80 to 0x8B, and MARK (R264 to R269, R273).
-/

namespace Sys2Proof.Machine

/-- A header instruction: A's header, changed by B, into a scalar (R264). -/
def headerOp (d a b : Nat) (f : W64 → W64 → W64) (n : Node) : Except Trap Fire :=
  writeScalar n d (f (srcHdr n a) (srcVal n b)) 0

/-- A firing that may put several tokens on ports. -/
def fireToks (r : Regs) (out : List OutReq) : Fire := { regs := r, out := out, coal := none }

/-- HDR (R264). -/
def execHdr (t : BitVec 6) (d a : BitVec 5) (s : State) : Host.Outcome State Fault Refusal :=
  issueFire (.hdr t d a) s false (headerOp d.toNat a.toNat 28 (fun h _ => h))
/-- HDRT (R264). -/
def execHdrt (t : BitVec 6) (d a b : BitVec 5) (s : State) : Host.Outcome State Fault Refusal :=
  issueFire (.hdrt t d a b) s false (headerOp d.toNat a.toNat b.toNat (fun h x => hSetT h x.toNat))
/-- HDRM (R264). -/
def execHdrm (t : BitVec 6) (d a b : BitVec 5) (s : State) : Host.Outcome State Fault Refusal :=
  issueFire (.hdrm t d a b) s false (headerOp d.toNat a.toNat b.toNat (fun h x => hSetMask h (x.setWidth 16)))
/-- HDRE (R264). -/
def execHdre (t : BitVec 6) (d a b : BitVec 5) (s : State) : Host.Outcome State Fault Refusal :=
  issueFire (.hdre t d a b) s false (headerOp d.toNat a.toNat b.toNat (fun h x => hSetEnd h x.toNat))
/-- HDRF: FMT from b[2:0], KIND from b[4:3] (R264). -/
def execHdrf (t : BitVec 6) (d a b : BitVec 5) (s : State) : Host.Outcome State Fault Refusal :=
  issueFire (.hdrf t d a b) s false
    (headerOp d.toNat a.toNat b.toNat (fun h x => Bits.put (Bits.put h 59 3 x.toNat) 62 2 (Bits.nat x 4 3)))
/-- HDRC (R264). -/
def execHdrc (t : BitVec 6) (d a b : BitVec 5) (s : State) : Host.Outcome State Fault Refusal :=
  issueFire (.hdrc t d a b) s false (headerOp d.toNat a.toNat b.toNat (fun h x => Bits.put h 52 4 x.toNat))

/-- TIME: T into a scalar, or each lane's time modulo 2³² into a vector (R265). -/
def execTime (t : BitVec 6) (d a : BitVec 5) (y : BitVec 3) (s : State) : Host.Outcome State Fault Refusal :=
  issueFire (.time t d a y) s false (fun n =>
    let h := srcHdr n a.toNat
    if y = 6 then writeScalar n d.toNat (BitVec.ofNat 64 (hT h)) 0
    else
      let step := srcStep n a.toNat
      writeVec n d.toNat a.toNat 28 1 (srcMask n a.toNat) (Lanes.ofFn (fun k => BitVec.ofNat 32 (hT h + k * step))) 0 true)
/-- ENDR: END into a scalar, or into every lane of a vector (R265). -/
def execEndr (t : BitVec 6) (d a : BitVec 5) (s : State) : Host.Outcome State Fault Refusal :=
  issueFire (.endr t d a) s false (fun n =>
    let e := hEnd (srcHdr n a.toNat)
    if classOf d.toNat = 2 then writeScalar n d.toNat (BitVec.ofNat 64 e) 0
    else writeVec n d.toNat 28 28 1 0xFFFF (Lanes.ofFn (fun _ => BitVec.ofNat 32 e)) 0 true)

/-- EMIT's token: B's header, A's payload, the VMASK of both (R266). -/
def emitTok (n : Node) (a b : Nat) : Token :=
  let h := srcHdr n b
  let m := match headOf n a with | some x => hMask h &&& hMask x.hdr | none => hMask h
  { hdr := hSetMask h m, pay := srcLanes n a }

/-- A marker token that only the cut logic makes (R42, R266). -/
def isCutMarker (t : Token) : Bool := hKind t.hdr == 2 && (t.pay.get 0 == 1 || t.pay.get 0 == 2)

/-- EMIT (R266): a SNAP or EBB marker is BADMARK (R390). -/
def execEmit (t : BitVec 6) (d a b : BitVec 5) (s : State) : Host.Outcome State Fault Refusal :=
  issueFire (.emit t d a b) s false (fun n =>
    let x := emitTok n a.toNat b.toNat
    if isCutMarker x then .error { cause := 0x20, arg := (x.pay.get 0).toNat, tval := 0, hdr := x.hdr }
    else .ok (fireTok n.regs (d.toNat - 24) x true))

/-- DROP: an end is passed on with VMASK 0 (R267). -/
def execDrop (t : BitVec 6) (d a : BitVec 5) (s : State) : Host.Outcome State Fault Refusal :=
  issueFire (.drop t d a) s false (fun n =>
    match headOf n a.toNat with
    | some x =>
      if hEnd x.hdr != 0 && classOf d.toNat == 8 then
        .ok (fireTok n.regs (d.toNat - 24) { x with hdr := hSetMask x.hdr 0 } true)
      else .ok (fireRegs n.regs)
    | none => .ok (fireRegs n.regs))

/-- The half of a head's lanes, or pairs, that B selects or leaves (R268). -/
def steerMask (n : Node) (x : Token) (b : Nat) (sel : Bool) : BitVec 16 :=
  let allow := allowMask n b
  maskOf (fun k => maskBit (laneMask x.hdr) k && (maskBit allow (if isCoord x.hdr then k % 8 else k) == sel))

/-- STEER: the lanes B selects go to D + 1, the others to D; the END to both (R268). -/
def execSteer (t : BitVec 6) (d a b : BitVec 5) (s : State) : Host.Outcome State Fault Refusal :=
  issueFire (.steer t d a b) s false (fun n =>
    match headOf n a.toNat with
    | some x =>
      let side := fun (k : Nat) (m : BitVec 16) =>
        if m != 0 || hEnd x.hdr != 0 then
          [({ port := k, tok := { x with hdr := hSetMask x.hdr m }, filt := true, dests := none, pos := none } : OutReq)]
        else []
      .ok (fireToks n.regs (side (d.toNat - 24) (steerMask n x b.toNat false) ++
        side (d.toNat - 23) (steerMask n x b.toNat true)))
    | none => .ok (fireRegs n.regs))

/-- The destinations of a routed head: the owner of its lowest valid pair's word, or every distinct one for an end
alone (R269). -/
def routeDests (n : Node) (x : Token) : List W64 :=
  match (List.range 8).find? (maskBit (hMask x.hdr)) with
  | some k => [n.routes.getD ((n.rbase.toNat + 4 * (x.pay.get k).toNat) / 64 % 16) 0]
  | none => if hEnd x.hdr = 0 then [] else n.routes.eraseDups

/-- ROUTE (R269): a head that is not COORD is ILLTAG. -/
def execRoute (t : BitVec 6) (d a : BitVec 5) (s : State) : Host.Outcome State Fault Refusal :=
  issueFire (.route t d a) s false (fun n =>
    match headOf n a.toNat with
    | some x =>
      if !isCoord x.hdr then .error (illTag x.hdr)
      else
        let ds := routeDests n x
        if ds.isEmpty then .ok (fireRegs n.regs)
        else .ok (fireToks n.regs [{ port := d.toNat - 24, tok := x, filt := false, dests := some ds, pos := none }])
    | none => .ok (fireRegs n.regs))

/-- MARK's token (R273). -/
def markTok (node : W32) (kind v : W64) : Token :=
  { hdr := mkHdr 2 7 0 0 0x0007 0, pay := Lanes.ofList [kind.setWidth 32, v.setWidth 32, node] }

/-- MARK (R273): kinds 1 and 2 are BADMARK. -/
def execMark (t : BitVec 6) (d a b : BitVec 5) (s : State) : Host.Outcome State Fault Refusal :=
  issueFire (.mark t d a b) s false (fun n =>
    let x := markTok (nodeHere s) (srcVal n a.toNat) (srcVal n b.toNat)
    if isCutMarker x then .error { cause := 0x20, arg := (x.pay.get 0).toNat, tval := 0, hdr := 0 }
    else .ok (fireTok n.regs (d.toNat - 24) x true))

end Sys2Proof.Machine
end

