-- ==== Sys2Proof/Machine/DemandOps.lean ====
section
/-!
DEFINITION. Demand: where it goes, how an input maps, reduces, holds and forwards it, how state classes extend it, and
the instructions DMD, DMDR, DMDK and RTFW with the events of the demand network (R44 to R66, R270 to R272).
-/

namespace Sys2Proof.Machine

/-! ## Places in the placement (R99) -/

/-- The logical region a destination entry names from region `r` (R4, R96, R99). -/
def destRegion (s : State) (r : Nat) (e : W64) : Nat :=
  match launchOf s r with
  | none => r
  | some (_, l) =>
    let o := l.origin
    64 * ((o / 64 + Bits.nat e 63 62) % 4) + 8 * ((o / 8 + Bits.nat e 61 59) % 8) + (o + Bits.nat e 58 56) % 8

/-- The regions of the graph of a region. -/
def graphOf (s : State) (r : Nat) : List Nat :=
  match (getR s r).launch with
  | some l => regionsOf s l
  | none => [r]

/-- The nodes of a region: element (256 the helm core), context, node. -/
def nodesOf (g : Region) : List (Nat × Nat × Node) :=
  g.elems.flatMap (fun e => e.2.ctxs.map (fun c => (e.1, c.1, c.2))) ++ [(256, 0, g.helm.node)]

/-- The destinations of a port: its own, or for a route port the route table's (R99). -/
def portDests (n : Node) (k : Nat) : List W64 := if (nodePort n k).role = 2 then n.routes else (nodePort n k).dests

/-! ## Reduction chains (R103) -/

/-- NHOP of a chain. -/
def chainHops (x : Lanes) : Nat := Bits.nat x 2 0
/-- OUT of a chain. -/
def chainOut (x : Lanes) : W64 := x.extractLsb' 64 64
/-- A hop of a chain. -/
def chainHop (x : Lanes) (h : Nat) : W64 := x.extractLsb' (128 + 64 * h) 64

/-- A destination entry names a channel of an element or helm core of a region. -/
def namesChan (s : State) (q r e ch : Nat) (d : W64) : Bool :=
  d.getLsbD 44 && destRegion s q d == r && Bits.nat d 55 47 == e && Bits.nat d 46 45 == ch

/-- The outputs of a region's graph with a destination that passes a test, each with the number of that destination. -/
def outputsTo (s : State) (r : Nat) (ok : Nat → W64 → Bool) : List (At × Nat) :=
  (graphOf s r).flatMap (fun q => (nodesOf (getR s q)).flatMap (fun x =>
    (List.range 4).flatMap (fun k =>
      let ds := portDests x.2.2 k
      ((List.range ds.length).filter (fun i => ok q (ds.getD i 0))).map (fun i => (⟨q, x.1, x.2.1, k⟩, i)))))

/-- The outputs that are local inputs of a chain's hops; a hop of 6 or more stands for all of them. -/
def hopFeeders (s : State) (r chain hop : Nat) : List (At × Nat) :=
  outputsTo s r (fun _ d => d.getLsbD 44 && Bits.nat d 55 47 == 0x102 && Bits.nat d 43 36 == chain && (6 ≤ hop || Bits.nat d 35 32 == hop))

/-- The chains whose sum goes to a channel: number and last hop's place. -/
def chainsInto (s : State) (r e ch : Nat) : List (Nat × At) :=
  match launchOf s r with
  | none => []
  | some (_, x) => ((List.range x.chains.length).filter (fun k => namesChan s x.origin r e ch (chainOut (x.chains.getD k 0)))).map
      (fun k => (k, ⟨x.origin, 258, k, chainHops (x.chains.getD k 0) - 1⟩))

/-- The outputs that feed a channel of an element or of a helm core, each with the number of the destination that does
(R99); an output feeds it also through a reduction chain. -/
def feeders (s : State) (r e ch : Nat) : List (At × Nat) :=
  outputsTo s r (fun q d => namesChan s q r e ch d) ++ (chainsInto s r e ch).flatMap (fun k => hopFeeders s r k.1 6)

/-- Some destination of the graph names the channel (R109). -/
def isFed (s : State) (r e ch : Nat) : Bool := !(feeders s r e ch).isEmpty

/-- Where the cut markers of a channel come from (R103, R110). -/
def markersOf (s : State) (r e ch : Nat) : List At :=
  (outputsTo s r (fun q d => namesChan s q r e ch d)).map (·.1) ++
    ((chainsInto s r e ch).filter (fun k => !(hopFeeders s r k.1 6).isEmpty)).map (·.2)

/-! ## Range-transfer functions (R47 to R50) -/

/-- KIND of a descriptor. -/
def rtfKind (x : BitVec 128) : Nat := Bits.nat x 127 125

/-- A descriptor that R47 forbids. -/
def rtfBad (x : BitVec 128) : Bool :=
  rtfKind x ≥ 6 || (rtfKind x == 1 && (Bits.nat x 121 106 == 0 || Bits.nat x 105 90 == 0))

/-- The range an input asks for, clipped; none where nothing is asked (R48 to R50). HELM maps nothing by itself. -/
def rtfMap (x : BitVec 128) (h : Nat) (d : Ival) : Option Ival :=
  let clip := fun (lo hi : Int) (step : Nat) =>
    let hi := if d.hi = streamEnd && rtfKind x ≠ 2 then (streamEnd : Int) else min hi streamEnd
    if hi ≤ 0 ∨ hi ≤ max lo 0 then none else some { d with lo := (max lo 0).toNat, hi := hi.toNat, step := step }
  match rtfKind x with
  | 0 => clip ((d.lo : Int) - h) d.hi (if h = 0 then d.step else 1)
  | 1 =>
    let m := Bits.nat x 121 106
    let q := Bits.nat x 105 90
    let pre := Bits.nat x 89 74 + h
    let post := Bits.nat x 73 58
    let step := if d.step * m % q = 0 && 1 ≤ d.step * m / q && d.step * m / q ≤ 255 && pre = 0 && post = 0
      then d.step * m / q else 1
    clip ((d.lo * m / q : Nat) - (pre : Int)) ((d.hi - 1) * m / q + 1 + post : Nat) step
  | 2 => clip (Bits.nat x 121 86) (Bits.nat x 85 50) 1
  | 3 => clip 0 streamEnd 1
  | _ => none

/-! ## Inputs (R53 steps 4 and 5, R55, R57) -/

/-- The times just below the lowest time left that a WIN(H) input asks for again: the lowest piece is extended, unless
those times are the last it consumed of the tag (R57). -/
def winBack (p : Pair) (h : Nat) (d : Ival) (ps : List Ival) : List Ival :=
  match ivSort ps with
  | [] => []
  | v :: vs =>
    let low := max (v.lo - h) d.lo
    let need := ((List.range (v.lo - low)).map (fun k => low + k)).reverse
    if h = 0 || (aGet [] p.recent d.ctx).take need.length == need then v :: vs else { v with lo := low } :: vs

/-- What of a demand at an input is left to forward (R53 step 4, R54, R57). -/
def reduceAt (p : Pair) (h : Nat) (d : Ival) : List Ival :=
  let h := if rtfKind p.rtf ≤ 1 then h else 0
  winBack p h d (ivReduce (p.served ++ p.pending) (if ivEmpty d then [] else [d]))

/-- Changes a pair of a context. -/
def withPair (s : State) (r e c ch : Nat) (f : Pair → Pair) : State :=
  let n := getN s r e c
  setN s r e c (setPair n ch (f (nodePair n ch)))

/-- An input of a node holds a piece (R55). -/
def nodeHolds (n : Node) : Bool := (List.range 4).any (fun ch => !(nodePair n ch).held.isEmpty)

/-- Sends a piece upstream to every output that feeds the channel, and unites it with the pending set; a piece for which
no entry is free is held, and nothing of the node is forwarded while one is (R55). -/
def forwardPiece (s : State) (r e c ch : Nat) (v : Ival) (ext : Bool) : State :=
  let n := getN s r e c
  let d : Demand := { lo := v.lo, hi := v.hi, step := v.step, ctx := v.ctx, inp := ch, ext := ext }
  let pend := ivAdd (nodePair n ch).pending v
  if nodeHolds n || 8 < pend.length then withPair s r e c ch (fun p => { p with held := p.held ++ [d] })
  else
    let s := withPair s r e c ch (fun p => { p with pending := pend })
    let ls := (feeders s r e ch).map (fun f => ({ src := ⟨r, e, c, ch⟩, dst := f.1, dem := d, slot := f.2 } : DLink))
    { s with dlinks := s.dlinks ++ ls }

/-- A mapped demand enters an input: reduced, then forwarded (R53 steps 4 and 5). -/
def enterInput (s : State) (r e c ch : Nat) (v : Ival) (ext : Bool) : State :=
  let n := getN s r e c
  (reduceAt (nodePair n ch) (winH n v.ctx) v).foldl (fun s v => forwardPiece s r e c ch v ext) s

/-! ## HELM inputs (R51, R271) -/

/-- The demand token in 128 bits (R44). -/
def demandWord (d : Demand) : Nat :=
  packFields [(92, 36, d.lo), (56, 36, d.hi), (48, 8, d.step), (44, 4, d.ctx), (42, 2, d.inp), (41, 1, if d.ext then 1 else 0)]

/-- The demand that lanes 0 to 3 of a vector hold; its IN field is ignored (R270). -/
def demandOf (x : Lanes) : Ival × Bool :=
  ({ lo := Bits.nat x 127 92, hi := Bits.nat x 91 56, step := Bits.nat x 55 48, ctx := Bits.nat x 47 44 }, x.getLsbD 41)

/-- The message a HELM demand is posted as (R271). -/
def demandMsg (d : Demand) (e ch c : Nat) (node : W32) : Lanes :=
  BitVec.ofNat 512 (packFields [(0, 128, demandWord d), (128, 16, e), (144, 8, ch), (152, 8, c), (160, 32, node.toNat),
    (480, 32, 0xFFFFFFFF)])

/-- Posts the HELM demands of a region that have not been posted, while the receive queue has room (R271). -/
def postAsked (s : State) (r : Nat) : State :=
  let one := fun (s : State) (x : Nat × Nat × Nat) =>
    let p := nodePair (getN s r x.1 x.2.1) x.2.2
    let new := (p.asked.drop p.posted).take (64 - (getH s r).recv.length)
    let node := (((getR s r).nmap.find? (fun k => k.1 / 512 == x.1 && k.1 / 32 % 16 == x.2.1)).map
      (fun k => k.2.extractLsb' 96 32)).getD (0xFFFFFFFF : W32)
    let s := setH s r { getH s r with recv := (getH s r).recv ++ new.map (fun d => demandMsg d x.1 x.2.2 x.2.1 node) }
    withPair s r x.1 x.2.1 x.2.2 (fun p => { p with posted := p.posted + new.length })
  let inputs := (nodesOf (getR s r)).flatMap (fun x => (List.range 4).map (fun k => (x.1, x.2.1, k)))
  inputs.foldl (fun s x => if (nodePair (getN s r x.1 x.2.1) x.2.2).asked.isEmpty then s else one s x) s

/-! ## State classes (R58 to R61) -/

/-- An entry covers every time of a piece: of its CTX, its step dividing the piece's, in one phase. -/
def ivCovers (e d : Ival) : Bool :=
  e.ctx == d.ctx && 0 < e.step && d.step % e.step == 0 && e.lo % e.step == d.lo % e.step

/-- Every time of a demand lies in a set. -/
def ivAll (set : List Ival) (d : Ival) : Bool :=
  let rest := set.foldl (fun (ds : List Ival) e =>
    if ivCovers e d then ds.flatMap (ivCut { e with step := 1 }) else ds) [d]
  rest.all (fun v => (List.range ((v.hi - v.lo + v.step - 1) / v.step)).all (fun k =>
    set.any (fun e => ivHas e d.ctx (v.lo + k * v.step))))

/-- The checkpoint entry of a CTX tag whose time is `c`: its number in the ring (R61, R274). -/
def checkpointAt (a : Mem) (area c : Nat) : Option Nat :=
  if c = 0 then some 0
  else ((List.range 15).map (· + 1)).find? (fun k => memNat a (area + 640 * k + 584) 8 == c)

/-- What a state class makes of a demand on a port: nothing left, a range with EXT and a RELOAD time, or a fault (R60,
R61). `before` is the port's demand set before the demand arrived. -/
def classExtend (n : Node) (a : Mem) (before : List Ival) (d : Ival) : Except Trap (Option (Ival × Bool × Option Nat)) :=
  let e := classEnt n d.ctx
  let above : Ival × Bool × Option Nat := ({ d with lo := e.w, step := 1 }, decide (e.w < d.lo) || decide (1 < d.step), none)
  match e.cls.toNat with
  | 2 =>
    let below := { d with hi := min d.hi e.w }
    if !ivEmpty below && !ivAll before below then
      .error { cause := 0x41, arg := d.ctx, tval := BitVec.ofNat 64 e.w, hdr := 0 }
    else if d.hi ≤ e.w then .ok none
    else .ok (some above)
  | 3 =>
    if e.w ≤ d.lo then .ok (some above)
    else
      let c := d.lo / max e.param 1 * max e.param 1
      match checkpointAt a (e.area + 10240 * d.ctx) c with
      | some _ => .ok (some ({ d with lo := c, step := 1 }, true, some c))
      | none => .error { cause := 0x42, arg := d.ctx, tval := BitVec.ofNat 64 c, hdr := 0 }
  | _ => .ok (some (d, false, none))

/-! ## Arrival at a node output (R53) -/

/-- A node whose outputs are sources: it is bound by SRD there, is a helm core, or no bound input of it outside its BACK
record is fed (R65, R109). -/
def isSource (s : State) (r e c k : Nat) : Bool :=
  let n := getN s r e c
  (nodePort n k).spb.isSome || e == 256 ||
    (List.range 4).all (fun ch => let p := nodePair n ch; p.ctxset == 0 || p.back || !p.fed)

/-- The demand channel of an output does not accept: an input of the node holds a piece, or a HELM input it asks has its
five places full (R51, R55), or the output's own pending set is full (R65). -/
def demandStalls (s : State) (x : DLink) : Bool :=
  let n := getN s x.dst.r x.dst.e x.dst.c
  let v : Ival := { lo := x.dem.lo, hi := x.dem.hi, step := x.dem.step, ctx := x.dem.ctx }
  nodeHolds n || (List.range 4).any (fun ch =>
    let p := nodePair n ch
    (p.ctxset.getLsbD x.dem.ctx && rtfKind p.rtf == 5 && 5 ≤ p.asked.length)) ||
  (isSource s x.dst.r x.dst.e x.dst.c x.dst.n && 8 < (ivAdd (nodePort n x.dst.n).pending v).length)

/-- One input of a node takes a demand: a HELM input queues it, any other maps and forwards it; RELOAD goes before the
data of an extended range, all of which the input asks for again, what it was served of it before among it (R48, R51, R61;
log 103). A sink is asked by its own agent alone (R63, R270). -/
def demandInput (s : State) (r e c ch : Nat) (tok : Demand) (v : Ival) (ext : Bool) (reload : Option Nat) : State :=
  let n := getN s r e c
  let p := nodePair n ch
  if !p.ctxset.getLsbD v.ctx || p.sink then s
  else if rtfKind p.rtf = 5 then withPair s r e c ch (fun p => { p with asked := p.asked ++ [tok] })
  else match rtfMap p.rtf (winH n v.ctx) v with
    | none => s
    | some w =>
      let s := match reload with
        | some t => withPair s r e c ch (fun p => { p with reload := p.reload ++ [(w, t)], served := p.served.flatMap (ivCut { w with step := 1 }) })
        | none => s
      enterInput s r e c ch w ext

/-- The outputs that a restart from a checkpoint computes anew below the demand that asked for it count as not asked for,
so that their lanes leave invalid (R61). -/
def reseed (n : Node) (ctx c lo : Nat) : Node :=
  { n with ports := n.ports.map (fun p => { p with dset := p.dset.map (fun l => l.flatMap (ivCut { lo := c, hi := lo, step := 1, ctx := ctx })) }) }

/-- The demand that an arrival makes of the output it comes to. -/
def linkIval (x : DLink) : Ival := { lo := x.dem.lo, hi := x.dem.hi, step := x.dem.step, ctx := x.dem.ctx }

/-- What the state class of a node makes of a demand that arrives at one of its outputs (R53 step 1). -/
def classAnswer (s : State) (x : DLink) : Except Trap (Option (Ival × Bool × Option Nat)) :=
  let n := getN s x.dst.r x.dst.e x.dst.c
  classExtend n (vGet Buf.reset (getR s x.dst.r).bufs 1).mem ((nodePort n x.dst.n).dset.getD x.slot []) (linkIval x)

/-- The fault that a node meets with a demand that arrives, where its state class refuses it: the demand is not taken then, and
is evaluated again (R60, R61, R372, R396). A port that SRD binds reads what it is asked for itself. -/
def demandFault (s : State) (x : DLink) : Option Trap :=
  let p := nodePort (getN s x.dst.r x.dst.e x.dst.c) x.dst.n
  if p.spb.isSome || p.ended then none else match classAnswer s x with | .error t => some t | .ok _ => none

/-- A demand arrives at a node output (R53): the port's own set grows (R66), a source keeps it as a pending entry (R65),
and the node's inputs ask for what it maps to. A port that SRD has bound reads what it is asked for itself. -/
def demandArrive (s : State) (x : DLink) : State :=
  let (r, e, c, k) := (x.dst.r, x.dst.e, x.dst.c, x.dst.n)
  let n := getN s r e c
  let d := linkIval x
  let answer := classAnswer s x
  let p := nodePort n k
  let before := p.dset.getD x.slot []
  let sets := (List.range (max p.dset.length (x.slot + 1))).map (fun i =>
    if i = x.slot then ivAdd before d else p.dset.getD i [])
  let src := isSource s r e c k && !p.ended
  let p := { p with dset := sets, pending := if src then ivAdd p.pending d else p.pending }
  let s := setN s r e c (setPort n k p)
  let s := if e < 256 then setE s r e { getE s r e with counters := bump (getE s r e).counters 13 } else s
  if p.spb.isSome || p.ended then s
  else match answer with
    | .error _ | .ok none => s
    | .ok (some (v, ext, reload)) =>
      let tok : Demand := { lo := v.lo, hi := v.hi, step := v.step, ctx := v.ctx, inp := x.dem.inp, ext := ext || x.dem.ext }
      let s := match reload with | some c0 => setN s r e c (reseed (getN s r e c) d.ctx c0 d.lo) | none => s
      let s := [0, 1, 2, 3].foldl (fun s ch => demandInput s r e c ch tok v (ext || x.dem.ext) reload) s
      postAsked s r

/-- DEMAND_ARRIVAL: the first demand on its way to a node output arrives, unless its channel does not accept (R46, R53). One that
the node's state class refuses is a fabric fault; it stands there while the region is stopped, and is evaluated again once the
region runs (R372, R396). A graph that does not move takes none. -/
def execDemandArrival (at_ : At) (s : State) : Host.Outcome State Fault Refusal :=
  match s.dlinks.find? (fun x => x.dst == at_) with
  | some x =>
    if demandStalls s x || !graphMoves s x.dst.r then .next s
    else match demandFault s x with
      | some t => .next (if (getR s x.dst.r).obsctl.getLsbD 1 then s else elemFault s (.elem x.dst.r x.dst.e x.dst.c 0) t)
      | none => .next (demandArrive { s with dlinks := s.dlinks.erase x } x)
  | none => .next s

/-- Forwards what the inputs of a node hold, in the order of its channels, until a piece finds no free entry (R55). -/
def releaseHeld (s : State) (r e c : Nat) : State :=
  let held := (List.range 4).flatMap (fun ch => ((nodePair (getN s r e c) ch).held).map (fun d => (ch, d)))
  let s := [0, 1, 2, 3].foldl (fun s ch => withPair s r e c ch (fun p => { p with held := [] })) s
  held.foldl (fun s x => forwardPiece s r e c x.1 { lo := x.2.lo, hi := x.2.hi, step := x.2.step, ctx := x.2.ctx } x.2.ext) s

/-- DEMAND_HELD_RELEASE: a pending entry has freed at the input whose piece stands first, and what the node holds is
forwarded (R55). -/
def execDemandHeldRelease (at_ : At) (s : State) : Host.Outcome State Fault Refusal :=
  let n := getN s at_.r at_.e at_.c
  let p := nodePair n at_.n
  match p.held with
  | [] => .next s
  | d :: _ =>
    if (List.range (min at_.n 4)).any (fun ch => !(nodePair n ch).held.isEmpty) then .next s
    else if 8 < (ivAdd p.pending { lo := d.lo, hi := d.hi, step := d.step, ctx := d.ctx }).length then .next s
    else .next (releaseHeld s at_.r at_.e at_.c)

/-! ## Data arriving at an input (R56, R64) -/

/-- A valid data lane has arrived at an input: its time joins the served set, on the grids of the pending entries that
hold it, else as an entry of step 1 unless it is there; a ninth entry drops one, with a notice (R56, R344, R394). -/
def serveTime (s : State) (r e c ch : Nat) (hdr : W64) (t : Nat) : State :=
  let n := getN s r e c
  let p := nodePair n ch
  let ctx := hCtx hdr
  let add := fun (acc : List Ival × List Ival) (step : Nat) =>
    let x := servedAdd acc.1 { lo := t, hi := t + step, step := step, ctx := ctx }
    (x.1, acc.2 ++ x.2.toList)
  let grids := ivGrids p.pending ctx t
  let grids := if grids.isEmpty && !p.served.any (fun v => ivHas v ctx t) then [1] else grids
  let sv := grids.foldl add (p.served, [])
  let s := withPair s r e c ch (fun p =>
    { p with pending := ivPass p.pending ctx t, served := sv.1, seenTop := max p.seenTop (t + 1) })
  let s := { s with reqs := s.reqs.map (fun q =>
    if q.sink = ⟨r, e, c, ch⟩ then { q with left := q.left.flatMap (ivCut { lo := t, hi := t + 1, step := 1, ctx := ctx }) } else q) }
  sv.2.foldl (fun s v =>
    let x := BitVec.ofNat 64 (packFields [(0, 36, v.lo), (36, 8, v.step), (44, 4, v.ctx)])
    faultRec s r e c 0 (srcOf e 0x40) 0 0 { cause := 0x40, arg := ch + 4 * c, tval := x, hdr := hdr }) s

/-- Elements of one lane of a scaled token: 4 codes of 8 bits, 8 of 4 (R185). -/
def laneElems (t : Token) : Nat := if hFmt t.hdr = 3 then 4 else 8

/-- The first of n elements of a burst, from number `e` on, that no group of its scale token scales: UNSCALED (R186,
R394). -/
def unscaled (gl : Nat) (scale : Token) (hdr : W64) (e n : Nat) : Option Trap :=
  let len := 16 * 2 ^ gl
  ((List.range n).map (fun i => e + i)).findSome? (fun e =>
    if 16 * len ≤ e then some { cause := 0x46, arg := 1, tval := BitVec.ofNat 64 e, hdr := hdr }
    else if !maskBit (hMask scale.hdr) (e / len) then some { cause := 0x46, arg := 0, tval := BitVec.ofNat 64 e, hdr := hdr }
    else none)

/-- A scale token opens a burst of its channel and CTX, and the elements of the data that follow are counted in it
(R43, R186). -/
def burstToken (s : State) (r e c ch : Nat) (t : Token) : State :=
  let p := nodePair (getN s r e c) ch
  let ctx := hCtx t.hdr
  if hKind t.hdr = 3 then withPair s r e c ch (fun p => { p with bursts := aSet p.bursts ctx (t, 0) })
  else match aFind p.bursts ctx with
    | none => s
    | some (sc, k) =>
      if hKind t.hdr ≠ 0 || !(hFmt t.hdr == 3 || hFmt t.hdr == 4) then s
      else
        let n := ((List.range 16).filter (maskBit (hMask t.hdr))).length * laneElems t
        let s := withPair s r e c ch (fun p => { p with bursts := aSet p.bursts ctx (sc, k + n) })
        match unscaled p.gl.toNat sc t.hdr k n with
        | some x => elemFault s (.elem r e c 0) x
        | none => s

/-- The first time-0 sample of a tag at an input fills the history before time 0 (R50). -/
def fillHist (s : State) (r e c ch : Nat) (t : Token) : State :=
  let n := getN s r e c
  withPair s r e c ch (fun p => beginHist (winH n (hCtx t.hdr)) p t)

/-- A token has arrived at an input. Data alone takes part in demand (R36); its first time-0 sample fills the history
(R50), once it is in the channel's format: one that is `away` to be converted does so as it comes back (R81). A rank-7 end is
remembered (R64). -/
def serveToken (s : State) (r e c ch : Nat) (away : Bool) (t : Token) : State :=
  let s := burstToken s r e c ch t
  if hKind t.hdr ≠ 0 then s
  else
    let s := withPair s r e c ch (fun p => { p with ended := p.ended || hEnd t.hdr == 7 })
    let s := if away then s else fillHist s r e c ch t
    (tokTimes (nodePair (getN s r e c) ch).tstep t).foldl (fun s x => serveTime s r e c ch t.hdr x) s

/-! ## DMD, DMDR, DMDK and RTFW (R270 to R272) -/

/-- BADDMD (R390). -/
def badDmd (k : Nat) (sel : W64) : Trap := { cause := 0x1F, arg := k, tval := sel, hdr := 0 }

/-- The node selector of the executing agent: ELEM in [8:0], the context in [12:9] (R270). -/
def ownSel (s : State) : W64 := let a := agentAt s.agent; BitVec.ofNat 64 (a.2.1 + 512 * a.2.2.1)

/-- The context an operand B selects: z is the agent's own; an element may name one of its own contexts, and only a helm core
another element (R270, R390). -/
def dmdTarget (s : State) (b : Nat) : Except Trap (W64 × Nat × Nat) :=
  if b = 28 then .ok (ownSel s, (agentAt s.agent).2.1, (agentAt s.agent).2.2.1)
  else
    let sel := srcVal (here s) b
    if !isHelm s && Bits.nat sel 8 0 ≠ (agentAt s.agent).2.1 then .error (badDmd 2 sel) else .ok (sel, Bits.nat sel 8 0, Bits.nat sel 12 9)

/-- A sink, or a HELM input that its region's helm core names (R270). -/
def dmdLegal (s : State) (e c ch : Nat) : Bool :=
  let p := nodePair (getN s (hereR s) e c) ch
  e ≤ 256 && c < 12 && p.ctxset != 0 && (p.sink || (isHelm s && rtfKind p.rtf == 5))

/-- Enters a demand at a target input (R270): clipped, reduced, forwarded. The channel of a node that holds a piece
does not accept (R55), and the instruction waits there. -/
def dmdEnter (s : State) (e c ch : Nat) (v : Ival) (ext : Bool) : Effect :=
  let v := { v with hi := min v.hi streamEnd }
  if ivEmpty v then .done s
  else if nodeHolds (getN s (hereR s) e c) then .wait .unit s
  else .done (enterInput s (hereR s) e c ch v ext)

/-- DMD (R270). -/
def execDmd (t : BitVec 6) (d a b : BitVec 5) (s : State) : Host.Outcome State Fault Refusal :=
  issue (.dmd t d a b) s (fun s =>
    let ag := agentAt s.agent
    if !dmdLegal s ag.2.1 ag.2.2.1 (chanOf d.toNat) then .trap (badDmd 1 (ownSel s))
    else
      dmdEnter s ag.2.1 ag.2.2.1 (chanOf d.toNat)
        { lo := (srcVal (here s) a.toNat).toNat, hi := (srcVal (here s) b.toNat).toNat, step := 1, ctx := 0 } false)

/-- DMDR (R270). -/
def execDmdr (t : BitVec 6) (d a b : BitVec 5) (s : State) : Host.Outcome State Fault Refusal :=
  issue (.dmdr t d a b) s (fun s =>
    match dmdTarget s b.toNat with
    | .error x => .trap x
    | .ok (sel, e, c) =>
      let v := demandOf (srcLanes (here s) a.toNat)
      if !dmdLegal s e c (chanOf d.toNat) then .trap (badDmd 1 sel)
      else if v.1.step = 0 then .trap (badDmd 3 sel)
      else dmdEnter s e c (chanOf d.toNat) v.1 v.2)

/-- Retires the oldest open HELM demand of an input; a place frees, and what still waits may be posted (R271). -/
def retireAsked (s : State) (r e c ch : Nat) : State :=
  postAsked (withPair s r e c ch (fun p => { p with asked := p.asked.drop 1, posted := p.posted - 1 })) r

/-- DMDK: forwards the demand in A, or nothing, then retires the oldest open HELM demand (R271). -/
def execDmdk (t : BitVec 6) (d a b : BitVec 5) (s : State) : Host.Outcome State Fault Refusal :=
  issue (.dmdk t d a b) s (fun s =>
    match dmdTarget s b.toNat with
    | .error x => .trap x
    | .ok (sel, e, c) =>
      let ch := chanOf d.toNat
      let v := demandOf (srcLanes (here s) a.toNat)
      if !dmdLegal s e c ch then .trap (badDmd 1 sel)
      else if a ≠ 28 && v.1.step = 0 then .trap (badDmd 3 sel)
      else if (nodePair (getN s (hereR s) e c) ch).asked.isEmpty then .trap (badDmd 4 sel)
      else
        match (if a = 28 then Effect.done s else dmdEnter s e c ch v.1 v.2) with
        | .done s => .done (retireAsked s (hereR s) e c ch)
        | x => x)

/-- A descriptor with its reserved bits read as zero (R47). -/
def rtfKept (x : BitVec 128) : BitVec 128 :=
  let low := if rtfKind x = 2 then 50 else 58
  (x >>> low <<< low) &&& ~~~((3 : BitVec 128) <<< 122)

/-- RTFW: the descriptor of an input (R272). -/
def execRtfw (t : BitVec 6) (d a b : BitVec 5) (s : State) : Host.Outcome State Fault Refusal :=
  issue (.rtfw t d a b) s (fun s =>
    match dmdTarget s b.toNat with
    | .error x => .trap x
    | .ok (sel, e, c) =>
      let ch := chanOf d.toNat
      let x : BitVec 128 := (srcLanes (here s) a.toNat).setWidth 128
      if 256 < e || 12 ≤ c || (nodePair (getN s (hereR s) e c) ch).ctxset = 0 then .trap (badDmd 6 sel)
      else if rtfBad x then .trap (badDmd 5 sel)
      else .done (withPair s (hereR s) e c ch (fun p => { p with rtf := rtfKept x })))

end Sys2Proof.Machine
end

