-- ==== Sys2Proof/Machine/MemOps.lean ====
section
/-!
DEFINITION. Memory nodes: translation and the walk (R124 to R127), the graph's window (R132 to R135), full-empty pages
(R138), compressed sectors (R139), access counters (R141, R142), typed buffers with presence, banks and journal (R118 to
R123, R136), and the waits and deferred reads armed at a node (R121, R138, R180, R285, R332). An access performs when
its instruction executes (log 15).
-/

namespace Sys2Proof.Machine

/-! ## Traps of accesses -/

/-- A trap with no header. -/
def mkTrap (cause arg : Nat) (tval : Nat) : Trap := { cause := cause, arg := arg, tval := BitVec.ofNat 64 tval, hdr := 0 }

/-- Address of a memory operand: a + b, modulo 2³² for a typed buffer and 2⁵⁷ for global memory; a channel whose lane 0
is invalid is ILLADDR (R261, R390). -/
def addrOf (n : Node) (a b space : Nat) : Except Trap Nat :=
  let bad := fun (c k : Nat) => match headOf n c with
    | some t => if maskBit (laneMask t.hdr) 0 then none else some ({ cause := 0x1A, arg := k, tval := t.hdr, hdr := t.hdr } : Trap)
    | none => none
  match bad a 0, bad b 1 with
  | some t, _ => .error t
  | none, some t => .error t
  | none, none => .ok (((srcVal n a).toNat + (srcVal n b).toNat) % (if space = 3 then 2 ^ 57 else 2 ^ 32))

/-- Size of a typed buffer (R118). -/
def bufSize (sp : Nat) : Nat := if sp = 2 then 0x80000 else 0x100000

/-- The journal range of C (R118). -/
def inJournal (sp a n : Nat) : Bool := sp == 2 && 0x70000 < a + n && a < 0x80000

/-- ALIGN, OUTBUF and JOURNAL of a typed-buffer access of width `n`, in this order (R119, R120, R390, R391). -/
def bufCheck (sp a n : Nat) : Option Trap :=
  if a % n ≠ 0 then some (mkTrap 0x1B n.log2 a)
  else if bufSize sp < a + n then some (mkTrap 0x1C sp a)
  else if inJournal sp a n then some (mkTrap 0x1D 0 a)
  else none

/-- ALIGN of an access of width `n` (R279, R280). -/
def alignCheck (a n : Nat) : Option Trap := if a % n ≠ 0 then some (mkTrap 0x1B n.log2 a) else none

/-- The first fault of a list of checks in cause order (R391). -/
def firstFault (l : List (Option Trap)) : Option Trap :=
  let ts := l.filterMap id
  match ts.find? (fun t => t.cause == 0x1B) with
  | some t => some t
  | none => match ts.find? (fun t => t.cause == 0x1C) with
    | some t => some t
    | none => ts.head?

/-- Addresses of the 4-byte words that an access touches; one of no byte still names the word it stands at. -/
def wordsOf (a n : Nat) : List Nat := (List.range ((a % 4 + n + 3) / 4)).map (fun k => a / 4 * 4 + 4 * k)

/-- The part of a write that lies in a word: its address and its bytes. -/
def wordPart (a : Nat) (bs : List Byte) (w : Nat) : Nat × List Byte :=
  let lo := max w a
  (lo, (bs.drop (lo - a)).take (w + 4 - lo))

/-! ## Translation (R124 to R127) -/

/-- Levels of a walk: index bits, the leaf type allowed, whether a table is allowed, and the alignment of the next table
(R125). -/
def walkLevels : List (Nat × Nat × Nat × Bool × Nat) :=
  [(53, 48, 0, true, 12), (47, 39, 0, true, 12), (38, 30, 3, true, 12), (29, 21, 2, true, 8), (20, 16, 1, false, 0)]

/-- Address bits of a page by its leaf type. -/
def pageBits (typ : Nat) : Nat := if typ = 3 then 30 else if typ = 2 then 21 else 16

/-- The leaf checks of R127: owner, then the permissions of an access: 0 read, 1 write, 2 atomic; none for
any other. -/
def leafCheck (part kind : Nat) (e : W64) : Option Nat :=
  if Bits.nat e 44 40 ≠ part then some 5
  else if kind = 0 && !e.getLsbD 1 then some 6
  else if kind = 1 && !e.getLsbD 2 then some 7
  else if kind = 2 && !(e.getLsbD 1 && e.getLsbD 2) then some 8
  else none

/-- A walk from a table: the physical address and the leaf, or the number of XLATE (R125 to R127, R404). -/
def walkFrom (m : Mem) (part va kind : Nat) : List (Nat × Nat × Nat × Bool × Nat) → Nat → Except Nat (Nat × W64)
  | [], _ => .error 3
  | (hi, lo, leaf, table, al) :: ls, base =>
    let e : W64 := BitVec.ofNat 64 (memNat m (base + 8 * (va / 2 ^ lo % 2 ^ (hi - lo + 1))) 8)
    let typ := Bits.nat e 7 6
    let addr := Bits.nat e 39 8 * 256
    let low := if typ = 0 then al else pageBits typ
    if !e.getLsbD 0 then .error 1
    else if Bits.nat e 63 45 ≠ 0 then .error 2
    else if (typ = 0 && !table) || (typ ≠ 0 && typ ≠ leaf) then .error 3
    else if (typ = 0 && (Bits.nat e 5 1 ≠ 0 || Bits.nat e 44 40 ≠ 0)) || addr % 2 ^ low ≠ 0 then .error 2
    else if addr / 2 ^ 37 ≠ va / 2 ^ 54 % 8 then .error 4
    else if typ = 0 then walkFrom m part va kind ls addr
    else match leafCheck part kind e with
      | some k => .error k
      | none => .ok (addr + va % 2 ^ low, e)

/-- Translates an address for an access of a partition (R127). A partition with no root for a stack has no valid
entry. -/
def xlate (s : State) (part va kind : Nat) : Except Nat (Nat × W64) :=
  match (getP s part).roots[va / 2 ^ 54 % 8]? with
  | some root => walkFrom s.hbm part va kind walkLevels root
  | none => .error 1

/-- Each stack populates 80 GB (R1, R124). -/
def populated (pa : Nat) : Bool := pa % 2 ^ 37 < 80 * 10 ^ 9

/-- FE of a leaf. -/
def leafFE (e : W64) : Bool := e.getLsbD 3
/-- COMP of a leaf. -/
def leafComp (e : W64) : Bool := e.getLsbD 4
/-- MIG of a leaf. -/
def leafMig (e : W64) : Bool := e.getLsbD 5

/-! ## Presence and poison (R138, R410) -/

/-- A word of an FE page is full: in memory, or filled by the graph's own window (R138). -/
def viewFull (s : State) (l : Option Nat) (w : Nat) : Bool :=
  setHas s.full w || (match l.bind (getL s) with
    | some x => setHas x.fills w || x.commits.any (fun c => setHas c.2.2.1 w)
    | none => false)

/-- Every byte of a line lies in a graph's window. -/
def windowLine (s : State) (l : Option Nat) (line : Nat) : Bool :=
  match l.bind (getL s) with
  | some x => (List.range 64).all (fun k => (ovRead x.win (64 * line + k)).isSome)
  | none => false

/-- A line is poisoned, or its pseudo-channel is offline (R410, R412). -/
def poisoned (s : State) (line : Nat) : Bool :=
  setHas s.poison line || s.pcs.any (fun x => x.2.2 && x.1 == line / 2 ^ 31 && x.2.1 == (Config.pcOf line).toNat)

/-! ## Access counters (R141, R142, R416) -/

/-- Posts a notice for a granule, unless the queue is full. -/
def postNotice (s : State) (part va count : Nat) (g : Nat) : State :=
  let p := getP s part
  let (_, base, n) := areaOf p 4
  let prod := memNat s.hbm base 8
  let cons := memNat s.hbm (base + 8) 8
  let s := if n ≤ prod - cons then { s with granules := aSet s.granules g { count := count, queued := false, missed := true } } else s
  if n = 0 then s
  else if n ≤ prod - cons then
    if p.nqFull then s
    else partRec (setP s part { p with nqFull := true }) part 0 0 3 (va / 2 ^ 54 % 8) 0 (mkTrap 0x6C 0 (va / 65536 * 65536))
  else
    let w := packFields [(64, 64, va / 65536 * 65536), (48, 16, count), (0, 40, s.now)]
    let s := hbmPutNat s (base + 64 + 16 * (prod % n)) 16 w
    let s := hbmPutNat s base 8 (prod + 1)
    { s with granules := aSet s.granules g { count := count, queued := true, missed := false } }

/-- The counter of the granule of a consumed entry is reset. -/
def noticeReset (s : State) (part base n i : Nat) : State :=
  match xlate s part (memNat s.hbm (base + 64 + 16 * (i % n) + 8) 8) 3 with
  | .ok (pa, _) => { s with granules := aDel s.granules (pa / 65536) }
  | .error _ => s

/-- CONS of a partition's notice queue has been written, whoever wrote it: the entries that it passes are consumed; a write
outside [old CONS, PROD] is ignored, with a notice (R142, R143, R416). -/
def consMoved (s : State) (part old v : Nat) : State :=
  let p := getP s part
  let ar := areaOf p 4
  let n := ar.2.2
  let base := ar.2.1
  if n = 0 || v = old then s
  else if v < old || memNat s.hbm base 8 < v then
    partRec (hbmPutNat s (base + 8) 8 old) part 0 0 3 (base / 2 ^ 37) 0 (mkTrap 0x6D 0 v)
  else
    let s := (List.range (min (v - old) n)).foldl (fun s i => noticeReset s part base n (old + i)) s
    setP s part { getP s part with nqFull := false }

/-- A write of memory has reached the CONS words that it covers (R143): `s0` is the device before it. -/
def consWatch (s0 s : State) (pa n : Nat) : State :=
  (s.parts.filter (fun e => let ar := areaOf e.2 4; ar.2.2 != 0 && ar.2.1 + 8 < pa + n && pa < ar.2.1 + 16)).foldl (fun s e =>
    let a := (areaOf e.2 4).2.1 + 8
    consMoved s e.1 (memNat s0.hbm a 8) (memNat s.hbm a 8)) s

/-- A 64-byte access reaches the base die: the granule's counter rises, and a notice is posted as it reaches the
partition's threshold from below; a granule whose notice found the queue full is posted at its next access after space
frees (R141). -/
def touch (s : State) (part va pa : Nat) (leaf : W64) : State :=
  if !leafMig leaf then s
  else
    let g := pa / 65536
    let c := aGet { count := 0, queued := false, missed := false } s.granules g
    let n := min (c.count + 1) 0xFFFF
    let th := (getP s part).thresh.toNat
    let s := { s with granules := aSet s.granules g { c with count := n } }
    if th ≠ 0 && th ≤ n && !c.queued && (c.count < th || c.missed) then postNotice s part va n g else s

/-! ## Direct writes of memory (R134, R139) -/

/-- Writes bytes to memory itself: the words of an FE page become full, a compressed sector is coded again, a whole line's
poison is cleared, and a CONS word it covers moves (R138, R139, R143, R410). -/
def memStore (s : State) (pa : Nat) (bs : List Byte) (fe comp : Bool) : State :=
  let m := memWriteN s.hbm pa bs
  let s0 := s
  let s := { s with hbm := m }
  let s := if fe then { s with full := (wordsOf pa bs.length).foldl setAdd s.full } else s
  let s := if comp then { s with clen := aSet s.clen (pa / 4096) (sectorCode m pa) } else s
  let s := if pa % 64 = 0 && bs.length = 64 then { s with poison := setDel s.poison (pa / 64) } else s
  consWatch s0 s pa bs.length

/-! ## Commit buffer (R135, R408, R409) -/

/-- Launches placed on the device (R135, R444). -/
def placedCount (s : State) : Nat :=
  (s.launches.filter (fun e => !(e.2.phase == .waiting || e.2.phase == .preempted || e.2.phase == .ended))).length

/-- Lines of a window on a stack. -/
def winLines (x : Launch) (stack : Nat) : Nat :=
  ((x.win.map (fun c => c.1 / 64)).filter (fun k => k / 2 ^ 31 == stack)).eraseDups.length

/-- The share of a graph on one base die, in 64-byte lines (R135). -/
def shareLines (s : State) : Nat := 131072 / max 1 (placedCount s)

/-- Whether a store may enter the commit buffer: 0 yes, 1 it waits because the share has shrunk below what the graph holds on
the die (R409), 2 it would pass 100% (R135). -/
def shareTest (s : State) (x : Launch) (pa n : Nat) : Nat :=
  let stack := pa / 2 ^ 37
  let have_ := winLines x stack
  let lines := ((List.range n).map (fun k => (pa + k) / 64)).eraseDups
  let new := (lines.filter (fun k => !x.win.any (fun c => c.1 / 64 == k))).length
  if shareLines s < have_ then 1 else if new = 0 then 0 else if shareLines s < have_ + new then 2 else 0

/-- Asks for an early SNAP of a region's graph. -/
def askSnap (s : State) (r : Nat) : State :=
  match launchOf s r with
  | some (l, x) => setL s l { x with wantSnap := true }
  | none => s

/-- An early SNAP is asked for once a share passes 75%, or 37.5% after an overflow (R108, R135, R408). -/
def shareEarly (s : State) (x : Launch) (stack : Nat) : Bool :=
  (if x.lowered then 3 else 6) * shareLines s < 8 * winLines x stack

/-- The shares shrink as a launch is placed: a graph whose held lines then pass 75% asks for an early SNAP (R135). -/
def shareAll (s : State) : State :=
  { s with launches := aMap (fun _ x => { x with wantSnap := x.wantSnap || (List.range 8).any (shareEarly s x) }) s.launches }

/-! ## Typed buffers (R118 to R123, R136) -/

/-- A buffer of a region. -/
def getBuf (g : Region) (sp : Nat) : Buf := vGet Buf.reset g.bufs sp

/-- Bank of an address, 0 to 47 as in BGATE (R119, R123). -/
def bankOf (sp a : Nat) : Nat := 16 * sp + a / 64 % 16

/-- The access of the executing agent is held at a waking bank (R123). -/
def bankHold (s : State) (r b : Nat) : State :=
  let g := getR s r
  if g.bankHeld.contains (s.agent, b) then s else setR s r { g with bankHeld := g.bankHeld ++ [(s.agent, b)] }

/-- An agent still stands at the access that a bank has held: a helm core at its instruction or with a request held, an element
at its slot, a copy in flight, the matrix node at a command. -/
def stillStands (s : State) (a : Agent) : Bool :=
  match a with
  | .helm r => (getH s r).wait != .none || helmHolds (getH s r) 1
  | .elem r e c slot =>
    if e < 256 then (getN s r e c).held == some slot || (match (getN s r e c).flight with | some f => f.slot == slot | none => false)
    else if e = 256 then decide (64 ≤ slot) && decide (slot / 32 - 2 < (getH s r).copies.length)
    else !(getR s r).mmq.isEmpty || (getR s r).mmDrain.isSome

/-- A bank holds an access that arrived before the executing agent's, which goes first (R123). -/
def bankBefore (s : State) (r b : Nat) : Bool :=
  match (getR s r).bankHeld.find? (fun x => x.2 == b && stillStands s x.1) with
  | some x => x.1 != s.agent
  | none => false

/-- The executing agent's access of a row is served at a bank (R119, R206). -/
def bankServed (s : State) (r b : Nat) : State :=
  let g := getR s r
  setR s r { g with bankHeld := g.bankHeld.filter (fun x => x != (s.agent, b)), bankNow := b :: g.bankNow }

/-- A bank that is waking holds an access, and serves what it holds in arrival order; a gated one refuses it. An access that a
bank held as its self-test failed takes BANKWAKE, and one that it held as it was gated BANKGATED (R123, R414, R415). -/
def bankTest (s : State) (r sp a : Nat) : Option Acc :=
  let b := bankOf sp a
  let g := getR s r
  if g.bankBad.contains (s.agent, b, 0x6B) then some (.bad (mkTrap 0x6B b 0))
  else if g.bankBad.contains (s.agent, b, 0x6A) then some (.bad (mkTrap 0x6A b a))
  else if g.waking.getLsbD b then some (.busy (bankHold s r b))
  else if g.bgate.getLsbD b then some (.bad (mkTrap 0x6A b a))
  else if bankBefore s r b then some (.busy (bankHold s r b))
  else none

/-- The first bank of a set of words that is waking, or has an earlier access to serve, holds the executing agent's. -/
def wakeHold (s : State) (r : Nat) (ws : List (Nat × Nat)) : Option State :=
  (ws.find? (fun w => (getR s r).waking.getLsbD (bankOf w.1 w.2) || bankBefore s r (bankOf w.1 w.2))).map (fun w => bankHold s r (bankOf w.1 w.2))

/-- A word of a buffer. -/
def bufWord (g : Region) (sp a : Nat) : Nat := memNat (getBuf g sp).mem a 4

/-- Presence of the words of a line, word 0 lowest. -/
def linePresence (b : Buf) (line : Nat) : BitVec 16 := maskOf (fun k => setHas b.full (64 * line + 4 * k))

/-- A line lies in a scratch range (R102, R136). -/
def isScratch (g : Region) (sp line : Nat) : Bool :=
  g.scratch.any (fun x => x.1 == sp && x.2.1 ≤ 64 * line && 64 * line < x.2.1 + x.2.2)

/-- The first write of a window to a line journals its old contents; none where a 513th entry would be needed (R136). -/
def journalLine (g : Region) (sp line : Nat) : Option Region :=
  if isScratch g sp line || g.launch.isNone || g.journal.any (fun j => j.space == sp && j.line == line) then some g
  else if 512 ≤ g.journal.length then none
  else
    let b := getBuf g sp
    some { g with journal := g.journal ++
      [{ space := sp, line := line, old := memReadN b.mem (64 * line) 64, present := linePresence b line, bad := false }] }

/-- Writes bytes of one line: contents, presence, and the poison of a whole row (R121, R136, R413). -/
def bufPut (g : Region) (sp a : Nat) (bs : List Byte) : Region :=
  let b := getBuf g sp
  let b := { b with mem := memWriteN b.mem a bs, full := (wordsOf a bs.length).foldl setAdd b.full,
                    poison := if a % 64 = 0 && bs.length = 64 then setDel b.poison (a / 64) else b.poison }
  { g with bufs := vSet g.bufs sp b }

/-- Asks for an early SNAP of a region's graph where its journal has passed its threshold (R136, R408). -/
def journalEarly (s : State) (r : Nat) : State :=
  match launchOf s r with
  | some (l, x) =>
    if (if x.lowered then 192 else 384) ≤ (getR s r).journal.length then setL s l { x with wantSnap := true } else s
  | none => s

/-! ## Waits and deferred reads at a node -/

/-- A word that an armed access reads is full. -/
def armFull (s : State) (a : Arm) (w : Nat) : Bool :=
  if a.space = 3 then viewFull s (armView s a) w else setHas (getBuf (getR s (agentR a.who)) a.space).full w

/-- A word as an armed access sees it. -/
def armWord (s : State) (a : Arm) (w : Nat) : W32 :=
  BitVec.ofNat 32 (if a.space = 3 then viewNat s (armView s a) w 4 else bufWord (getR s (agentR a.who)) a.space w)

/-- Words by number into a register: lanes of a vector, or words 0 and 1 of a scalar (R261, R280). -/
def writeDst (x : Regs) (dst : Nat) (got : List (Nat × W32)) : Regs :=
  let word := fun k => (got.find? (fun g => g.1 == k)).map (·.2)
  match classOf dst with
  | 1 => setV x dst (Lanes.ofFn (fun k => (word k).getD ((getV x dst).get k)))
  | 2 => setS x (dst - 8) ((word 1).getD 0 ++ (word 0).getD 0)
  | _ => x

/-- A deferred load of a helm core meets a fault, which the core takes at the first use of the register (R405). -/
def outFail (s : State) (r : Nat) (word : W32) (t : Trap) : State :=
  let h := getH s r
  setH s r { h with outstanding := h.outstanding.map (fun o =>
    if o.word == word && o.failed.isNone then { o with failed := some t } else o) }

/-- Replaces an armed access. -/
def setArm (s : State) (a b : Arm) : State := { s with arms := s.arms.map (fun x => if x = a then b else x) }
/-- Takes an armed access away. -/
def delArm (s : State) (a : Arm) : State := { s with arms := s.arms.erase a }

/-- A helm core's load or atomic has answered: its register is written and it is no longer outstanding (R262). No two
outstanding ones are of one word, since the second would wait for the first one's register. -/
def helmAnswer (s : State) (r : Nat) (word : W32) (got : List (Nat × W32)) : State :=
  let h := getH s r
  match h.outstanding.find? (fun o => o.word == word && o.failed.isNone) with
  | some o => setH s r { h with node := { h.node with regs := writeDst h.node.regs o.dst got },
                                outstanding := h.outstanding.erase o }
  | none => s

/-- An armed access is answered: a helm core's load writes its register; any other wait keeps its answer until its
instruction is tried again, and a gather for a port until the port has a free entry. -/
def release (s : State) (a : Arm) (got : List (Nat × W32)) (v : W64) : State :=
  match a.who, a.kind with
  | .helm r, .read =>
    if classOf (fieldD a.word).toNat = 8 then setArm s a { a with need := [], got := got, released := some v }
    else helmAnswer (delArm s a) r a.word got
  | .helm r, .atomic => helmAnswer (delArm s a) r a.word got
  | _, _ => setArm s a { a with need := [], got := got, released := some v }

/-! ## Atomics (R225, R280) -/

/-- The new value of an atomic on a w-bit word: 0 add, 1 min, 2 max, 3 xchg, 4 and, 5 or, 6 fadd. -/
def atomNew (op w old x : Nat) : Nat :=
  match op with
  | 0 => (old + x) % 2 ^ w
  | 1 => if toSigned w x < toSigned w old then x else old
  | 2 => if toSigned w old < toSigned w x then x else old
  | 3 => x
  | 4 => old &&& x
  | 5 => old ||| x
  | _ => (fAdd ⟨8, 23⟩ 0 old x).1 % 2 ^ 32

/-- The update of an atomic's word: ATOM, ATOMR or CAS by its opcode (R280). -/
def atomUpdate (w : W32) (dval bval : W64) (old : Nat) : Nat :=
  let o := (fieldO w).toNat
  if o = 0xAB then (if old = dval.toNat % 2 ^ 32 then bval.toNat % 2 ^ 32 else old)
  else if o = 0xAA then atomNew (fieldB w).toNat 64 old dval.toNat
  else atomNew (fieldB w).toNat 32 old (dval.toNat % 2 ^ 32)

/-- Width in bytes of an atomic. -/
def atomWidth (w : W32) : Nat := if fieldO w = 0xAA then 8 else 4

/-- The words of an atomic's old value. -/
def atomGot (n old : Nat) : List (Nat × W32) :=
  if n = 8 then [(0, BitVec.ofNat 32 old), (1, BitVec.ofNat 32 (old / 2 ^ 32))] else [(0, BitVec.ofNat 32 old)]

/-- A memory fault of an access that a helm core has moved on from is delivered at its next boundary; in an element it
is the firing's fabric fault (R319, R405). An overflow of the window or of the journal rolls the graph back (R408). -/
def memFault (s : State) (a : Agent) (t : Trap) : State :=
  match a with
  | .elem .. => elemFault s a t
  | .helm r =>
    if t.cause = 0x63 || t.cause = 0x64 then elemFault s a t
    else
      let s := faultRec s r 256 0 0 1 0 1 t
      deliver s r { rank := 2, cls := 1, code := t.cause, arg := t.arg, tval := t.tval }

/-- What an armed atomic's node says as it performs: 0 it may; 1 it stays, for the share has shrunk; 2 the share would be
passed; 3 the journal is full (R135, R136, R408, R409). -/
def armTest (s : State) (a : Arm) (n : Nat) : Nat :=
  if a.space ≠ 3 then (if (journalLine (getR s (agentR a.who)) a.space (a.addr / 64)).isNone then 3 else 0)
  else match (armView s a).bind (getL s) with
    | some x => shareTest s x a.addr n
    | none => 0

/-- Writes bytes at an armed access's node: into its region's buffer, with its journal, its graph's window, or memory
itself (R134 to R136, R139). -/
def armPut (s : State) (a : Arm) (bs : List Byte) : State :=
  let r := agentR a.who
  if a.space ≠ 3 then
    let g := (journalLine (getR s r) a.space (a.addr / 64)).getD (getR s r)
    journalEarly (setR s r (bufPut g a.space a.addr bs)) r
  else match armView s a with
    | some l => (match getL s l with
      | some x =>
        let x := { x with win := ovWriteN x.win a.addr bs, fills := (wordsOf a.addr bs.length).foldl setAdd x.fills }
        setL s l { x with wantSnap := x.wantSnap || shareEarly s x (a.addr / 2 ^ 37) }
      | none => s)
    | none => memStore s a.addr bs true (inComp s a.addr)

/-- The line of an armed access's word is poisoned, as the access sees it (R410). -/
def armPoison (s : State) (a : Arm) (w : Nat) : Bool :=
  a.space == 3 && a.kind != .fence && poisoned s (w / 64) && !windowLine s (armView s a) (w / 64)

/-- The virtual address of a numbered word of a load or atomic that a helm core has issued. -/
def outAddr (s : State) (r : Nat) (word : W32) (k : Nat) : Nat :=
  match (getH s r).outstanding.find? (fun o => o.word == word && o.failed.isNone) with
  | some o => ((o.words.find? (fun w => w.1 == k)).map (·.2)).getD o.addr.toNat
  | none => 0

/-- An armed access meets poison at a numbered word: the register that a helm core's load or atomic owes takes the fault; any
other requester tries again, and meets the poison itself (R405, R410). -/
def armSpoilt (s : State) (a : Arm) (k : Nat) : State :=
  match a.who, a.kind with
  | .helm r, .read => outFail (delArm s a) r a.word (mkTrap 0x66 0 (outAddr s r a.word k))
  | .helm r, .atomic => outFail (delArm s a) r a.word (mkTrap 0x66 2 (outAddr s r a.word k))
  | _, _ => delArm s a

/-- The first poisoned word of an armed access, by number and address. -/
def armSpoil (s : State) (a : Arm) : Option (Nat × Nat) :=
  let own : List (Nat × Nat) := match a.kind with | .read => [] | _ => [(0, a.addr)]
  (a.need ++ own).find? (fun w => armPoison s a w.2)

/-- Applies one armed access to its node after a word has been written, and says whether it wrote the word again: the
order is the order of arrival (R121, R138, R174, R180, R285, R332). -/
def stepArm (s : State) (a : Arm) : State × Bool :=
  if !s.arms.contains a || a.released.isSome || (a.kind != .read && !a.more.isEmpty) then (s, false)
  else match armSpoil s a with
  | some w => (armSpoilt s a w.1, false)
  | none => match a.kind with
    | .read =>
      let new := a.need.filter (fun x => armFull s a x.2)
      let got := a.got ++ new.map (fun x => (x.1, armWord s a x.2))
      let left := a.need.filter (fun x => !armFull s a x.2)
      if new.isEmpty then (s, false)
      else if left.isEmpty && a.more.isEmpty then (release s a got 0, false)
      else (setArm s a { a with need := left, got := got }, false)
    | .atomic =>
      if a.need.any (fun x => !armFull s a x.2) then (s, false)
      else
        let n := atomWidth a.word
        match armTest s a n with
        | 1 => (match launchOf s (agentR a.who) with | some (l, x) => setL s l { x with wantSnap := true } | none => s, false)
        | 2 => (memFault (delArm s a) a.who (mkTrap 0x63 (a.addr / 2 ^ 37) a.addr), false)
        | 3 => (memFault (delArm s a) a.who (mkTrap 0x64 a.space a.addr), false)
        | _ =>
        let old := if a.space = 3 then viewNat s (armView s a) a.addr n else memNat (getBuf (getR s (agentR a.who)) a.space).mem a.addr n
        let s := armPut s a (Bits.bytesOf n (atomUpdate a.word a.dval a.bval old))
        (release s a (atomGot n old) 0, true)
    | .waitNe =>
      if a.need.any (fun x => !armFull s a x.2) then (s, false)
      else
        let x := armWord s a a.addr
        let a' := { a with need := [] }
        if x.setWidth 64 = a.operand then (setArm s a a', false) else (release s a [] (x.setWidth 64), false)
    | .barrier =>
      let obj := memNat (getBuf (getR s (agentR a.who)) a.space).mem a.addr 16
      if obj.testBit 71 = a.operand.getLsbD 0 then (s, false) else (release s a [] 0, false)
    | .fence =>
      let x := memNat s.hbm a.addr 8
      if x < a.operand.toNat then (s, false) else (release s a [] (BitVec.ofNat 64 x), false)

/-- An armed access concerns a word: it waits for it, or watches it. -/
def concerns (a : Arm) (space r w : Nat) : Bool :=
  a.space == space && (space == 3 || agentR a.who == r) &&
    (a.need.any (fun x => x.2 == w) || (a.addr / 4 * 4 ≤ w && w < a.addr + (match a.kind with
      | .barrier => 16
      | .fence => 8
      | _ => 4)))

/-- Checks the waits and deferred reads of a word after a write or an atomic; an atomic that was deferred is applied and
checks them again. -/
def notifyGo (space r w : Nat) : Nat → State → State
  | 0, s => s
  | k + 1, s =>
    (s.arms.filter (fun a => concerns a space r w)).foldl (fun s a =>
      let x := stepArm s a
      if x.2 then notifyGo space r w k x.1 else x.1) s

/-- Checks the waits and deferred reads of the words of a write. -/
def notify (s : State) (space r a n : Nat) : State :=
  (wordsOf a n).foldl (fun s w => notifyGo space r w (s.arms.length + 1) s) s

/-- Atomics that a shrunken share has held back are tried again once the window is empty (R409). -/
def retryArms (s : State) : State :=
  (s.arms.filter (fun a => a.kind == .atomic && a.space == 3)).foldl (fun s a =>
    let x := stepArm s a
    if x.2 then notify x.1 3 0 a.addr (atomWidth a.word) else x.1) s

/-! ## Stores -/

/-- An element of a graph with flagged races writes words: another element's read in the same cycle may still return them as they
were (R179). -/
def raceNote (s : State) (r sp : Nat) (ws : List Nat) (old : Nat → Nat) : State :=
  match s.agent with
  | .helm _ => s
  | .elem q e _ _ => match launchOf s q with
    | some (l, x) =>
      if x.raceFlag && decide (e < 256) then
        setL s l { x with raceNow := ws.map (fun w => (s.agent, r, sp, w, BitVec.ofNat 32 (old w))) ++ x.raceNow }
      else s
    | none => s

/-- A plain write of one typed-buffer access of at most 64 bytes: bank, journal, contents and presence; FE words that
are full are left, and the first is reported (R121, R123, R136, R407). The line enters the journal before presence is looked
at (log 106). -/
def bufStore (s : State) (r sp a : Nat) (bs : List Byte) (fe : Bool) : Acc × Option Trap :=
  let g := getR s r
  match bankTest s r sp a with
  | some x => (x, none)
  | none =>
    match journalLine g sp (a / 64) with
    | none => (.bad (mkTrap 0x64 sp a), none)
    | some g =>
      let full := if fe then (wordsOf a bs.length).filter (fun w => setHas (getBuf g sp).full w) else []
      let g := if full.isEmpty then bufPut g sp a bs
        else (wordsOf a bs.length).foldl (fun g w =>
          if full.contains w then g else bufPut g sp (wordPart a bs w).1 (wordPart a bs w).2) g
      let s := raceNote (journalEarly (setR s r g) r) r sp (wordsOf a bs.length) (bufWord (getR s r) sp)
      (.ok (notify (bankServed s r (bankOf sp a)) sp r a bs.length), full.head?.map (fun w => mkTrap 0x61 sp w))

/-- A write of one global access, inside a line, held in a graph's window or made to memory itself (R127, R132, R134,
R135, R138, R410). -/
def gStore (s : State) (part : Nat) (l : Option Nat) (va pa : Nat) (leaf : W64) (bs : List Byte) : Acc × Option Trap :=
  let whole := pa % 64 = 0 && bs.length = 64
  let fe := leafFE leaf
  if !populated pa then (.absent pa, none)
  else if poisoned s (pa / 64) && !whole then (.bad (mkTrap 0x66 1 va), none)
  else
    let full := if fe then (wordsOf pa bs.length).filter (fun w => viewFull s l w) else []
    let parts := if full.isEmpty then [(pa, bs)]
      else ((wordsOf pa bs.length).filter (fun w => !full.contains w)).map (wordPart pa bs)
    let dup := full.head?.map (fun w => mkTrap 0x61 3 (va + (w - pa)))
    let s := raceNote s 0 3 (wordsOf pa bs.length) (fun w => viewNat s l w 4)
    match l.bind (getL s), l with
    | some x, some l =>
      match shareTest s x pa bs.length with
      | 1 => (.busy (setL s l { x with wantSnap := true }), none)
      | 2 => (.bad (mkTrap 0x63 (pa / 2 ^ 37) va), none)
      | _ =>
        let win := parts.foldl (fun w p => ovWriteN w p.1 p.2) x.win
        let fills := if fe then (parts.flatMap (fun p => wordsOf p.1 p.2.length)).foldl setAdd x.fills else x.fills
        let x := { x with win := win, fills := fills }
        let x := { x with wantSnap := x.wantSnap || shareEarly s x (pa / 2 ^ 37) }
        (.ok (notify (touch (setL s l x) part va pa leaf) 3 0 pa bs.length), dup)
    | _, _ =>
      let s := parts.foldl (fun s p => memStore s p.1 p.2 fe (leafComp leaf)) s
      (.ok (notify (touch s part va pa leaf) 3 0 pa bs.length), dup)

/-! ## Engines stopped by a translation fault (R377, R406) -/

/-- An agent's engine is stopped by a translation fault. -/
def engineStopped (x : Launch) (a : Agent) : Bool := x.engines.any (fun y => y.1 == a)

/-- An agent's engine stops at an address: a record is written when the address is new (R377). -/
def engineStop (s : State) (a : Agent) (k va : Nat) : State :=
  let r := agentR a
  match launchOf s r with
  | none => s
  | some (l, x) =>
    if x.engines.contains (a, va) then s
    else
      let (_, e, c, slot) := agentAt a
      let s := faultRec s r e c slot 2 (va / 2 ^ 54 % 8) 1 (mkTrap 0x60 k va)
      setL s l { x with engines := x.engines.filter (fun y => y.1 != a) ++ [(a, va)] }

/-- An agent's engine has had its request served. -/
def engineGo (s : State) (a : Agent) : State :=
  match launchOf s (agentR a) with
  | some (l, x) => if x.engines.any (fun y => y.1 == a) then setL s l { x with engines := x.engines.filter (fun y => y.1 != a) } else s
  | none => s

end Sys2Proof.Machine
end

