-- ==== Sys2Proof/Machine/LoadStore.lean ====
section
/-!
DEFINITION. Loads, stores and EMPTY of typed buffers, LDG, STG and PREF (R261 to R263, R275, R276, R279).
-/

namespace Sys2Proof.Machine

/-! ## What every memory instruction does -/

/-- Completion token of a memory instruction: KIND 1, FMT 7, lane 0 the node number (R169). -/
def doneToken (node : W32) : Token := { hdr := mkHdr 1 7 0 0 0x0001 0, pay := Lanes.ofList [node] }

/-- Puts a completion token into the queue of a context's completion port, where it names one (R99, R169). -/
def pushDone (n : Node) (node : W32) : Node :=
  match (List.range 4).find? (fun k => (nodePort n k).role == 1) with
  | some k =>
    let t := doneToken node
    setPort n k (pushOut (nodePort n k) t 0 (copiesFor (nodePort n k) { port := k, tok := t, filt := false, dests := none, pos := none }))
  | none => n

/-- An element's memory instruction has performed (R169, R262). -/
def emitDone (s : State) : State := if isHelm s then s else setHere s (pushDone (here s) (nodeHere s))

/-- The wake ring's record of a helm core's access: 2 load, 3 store, 4 atomic; space 0 W, 1 A, 2 C, 3 global (R214). -/
def wakeMem (s : State) (typ sp addr : Nat) : State :=
  match s.agent with
  | .helm r => wake s r typ (getH s r).pc.toNat ((if sp = 3 then 0 else sp + 1) * 2 ^ 62 + addr % 2 ^ 57)
  | .elem .. => s

/-- The record of an access goes into the wake ring as the core executes it, not while it waits to (R214). -/
def recorded (typ sp addr : Nat) (e : Effect) : Effect :=
  match e with
  | .done s => .done (wakeMem s typ sp addr)
  | x => x

/-- The access the executing agent has armed at a node for a word. -/
def myArm (s : State) (word : W32) : Option Arm := s.arms.find? (fun a => a.who == s.agent && a.word == word)

/-- The node of a word: a bank of a buffer, or the base die of a stack. -/
def nodeOf (sp a : Nat) : Nat := if sp = 3 then a / 2 ^ 37 else bankOf sp a

/-- A word all of whose lanes or elements are accesses of their own: LDBG, SGATH, and what an engine reads (R275, R278). -/
def manyWords (w : W32) : Bool := fieldO w == 0xA2 || fieldO w == 0xA6 || w == 0xFFFFFFFF

/-- Places that an armed access takes at a node: one for each access that waits there (R121, R138, R180, R275). -/
def armPlaces (x : Arm) (sp b : Nat) : Nat :=
  if x.released.isSome || (x.kind != .read && !x.more.isEmpty) then 0
  else
    let n := (x.need.filter (fun w => nodeOf sp w.2 == b)).length
    if x.kind == .read then (if manyWords x.word then n else min 1 n) else if nodeOf sp x.addr == b then 1 else 0

/-- Places in use at a bank or at a base die, host waits on fences included (R30, R121, R138, R180). -/
def placesUsed (s : State) (sp r a : Nat) : Nat :=
  (s.arms.filter (fun x => x.space == sp && (sp == 3 || agentR x.who == r))).foldl (fun n x => n + armPlaces x sp (nodeOf sp a)) 0 +
    (if sp = 3 then (s.hostWaits.filter (fun x => x.addr / 2 ^ 37 == a / 2 ^ 37)).length else 0)

/-- A place is free at the node of an address. -/
def placeFree (s : State) (sp r a : Nat) : Bool := placesUsed s sp r a < (if sp = 3 then 1024 else 8)

/-- The words of a read that find a place at their nodes, and those that wait in the requester for one; `a` is the read as it
stands already (R121, R138). A read that is one access finds one place or none. -/
def placeWords (s : State) (a : Arm) (ws : List (Nat × Nat)) : List (Nat × Nat) × List (Nat × Nat) :=
  let r := agentR a.who
  if manyWords a.word then
    ws.foldl (fun acc w =>
      if placeFree { s with arms := s.arms ++ [{ a with need := a.need ++ acc.1 }] } a.space r w.2 then (acc.1 ++ [w], acc.2)
      else (acc.1, acc.2 ++ [w])) ([], [])
  else if ws.all (fun w => placeFree s a.space r w.2) then (ws, []) else ([], ws)

/-- Words of a read that wait for a place are tried again: those that are full by now are read, and others find a place or go
on waiting. -/
def armMore (s : State) (a : Arm) : State :=
  if a.more.isEmpty then s
  else
    let got := a.got ++ (a.more.filter (fun w => armFull s a w.2)).map (fun w => (w.1, armWord s a w.2))
    let x := placeWords (delArm s a) { a with more := [] } (a.more.filter (fun w => !armFull s a w.2))
    let b := { a with need := a.need ++ x.1, more := x.2, got := got }
    if b.need.isEmpty && b.more.isEmpty then release (setArm s a b) b got 0 else setArm s a b

/-- A load meets a memory fault: a helm core takes it at the first use of the register, an element at once (R405). -/
def loadFault (s : State) (word : W32) (addr : Nat) (t : Trap) : Effect :=
  match s.agent with
  | .elem .. => .trap t
  | .helm r =>
    let h := getH s r
    let o : Outstanding := { word := word, addr := BitVec.ofNat 64 addr, dval := 0, bval := 0, dst := (fieldD word).toNat, failed := some t,
                             queued := false, words := [], data := [] }
    .done (setH s r { h with outstanding := h.outstanding ++ [o] })

/-- A load or an atomic (R263). -/
def answers (o : Outstanding) : Bool :=
  ([0xA0, 0xA2, 0xA6, 0xA9, 0xAA, 0xAB, 0xAD] : List Nat).contains (fieldO o.word).toNat

/-- A helm core's sixteen places for loads and atomics are taken (R263). -/
def outFull (s : State) : Bool :=
  match s.agent with
  | .helm r => 16 ≤ ((getH s r).outstanding.filter answers).length
  | .elem .. => false

/-- A helm core's engine holds a request of global memory, or of a unit. -/
def engineHolds (s : State) : Bool := holdsClass s 0 || holdsClass s 2

/-- An access of a typed buffer that a helm core has issued is held at a bank, or waits for a place there. -/
def bufHolds (s : State) : Bool := holdsClass s 1

/-- A request joins those that a helm core's engine holds, or that its banks hold, and the core goes on; an element's context is
held (R262, R406). `dst` is 99 where it writes no register. -/
def queueReq (s : State) (word : W32) (va : Nat) (dval bval : W64) (dst : Nat) (ws : List (Nat × Nat)) (bs : List Byte) : Effect :=
  match s.agent with
  | .elem .. => .wait .load s
  | .helm r =>
    let h := getH s r
    let o : Outstanding := { word := word, addr := BitVec.ofNat 64 va, dval := dval, bval := bval, dst := dst, failed := none,
                             queued := true, words := ws, data := bs }
    .done (setH s r { h with outstanding := h.outstanding ++ [o] })

/-- A word at which the executing agent stands changes nothing but by its own effect: it dequeues nothing, and its trigger's
action leaves the predicates (R75). -/
def bareHere (s : State) (w : W32) : Bool :=
  let e := (trigHere s (fieldT w).toNat).1
  (dequeueSet (codesOf w) e).isEmpty && trigAction (here s).regs.p e == (here s).regs.p

/-- A request that its unit or the buffer logic has still to judge: a helm core goes on with it held, with its instruction's
address, where a refusal would have nothing more to withhold; else the core stands at the instruction until it has been applied
(R262, R287, R389; log 21). An element's context is held. -/
def queueJudged (s : State) (w : W32) (a b : W64) (dst : Nat) (ws : List (Nat × Nat)) (bs : List Byte) : Effect :=
  match s.agent with
  | .elem .. => .wait .unit s
  | .helm r => if bareHere s w then queueReq s w (getH s r).pc.toNat a b dst ws bs else .wait .unit s

/-- The words of a load are in hand: the register is written. -/
def loadDone (s : State) (dst : Nat) (got : List (Nat × W32)) : State :=
  let n := here s
  emitDone (setHere s { n with regs := writeDst n.regs dst got })

/-- A deferred load or atomic stands at its node: a helm core goes on, an element's context is held (R121, R122, R262). `vs` are
its words by virtual address. -/
def deferAccess (s : State) (a : Arm) (va dst : Nat) (vs : List (Nat × Nat)) : Effect :=
  let s := { s with arms := s.arms ++ [a] }
  match s.agent with
  | .elem .. => .wait .load s
  | .helm r =>
    let h := getH s r
    let o : Outstanding := { word := a.word, addr := BitVec.ofNat 64 va, dval := a.dval, bval := a.bval, dst := dst, failed := none,
                             queued := false, words := vs, data := [] }
    .done (setH s r { h with outstanding := h.outstanding ++ [o] })

/-- A read as it reaches its node: an armed access with nothing read yet. -/
def readArm (who : Agent) (word : W32) (sp addr : Nat) (dval bval : W64) : Arm :=
  { who := who, kind := .read, space := sp, sys := false, addr := addr, operand := 0, word := word, dval := dval,
    bval := bval, need := [], more := [], got := [], released := none }

/-- Another element's write of a word in the same region cycle, that no rule orders against the executing element's read (R179). -/
def raceAt (s : State) (a : Arm) (w : Nat) : Option W32 :=
  match a.who with
  | .helm _ => none
  | .elem r e _ _ =>
    if 256 ≤ e then none
    else match launchOf s r with
      | none => none
      | some (_, x) =>
        let key := if a.space = 3 then (0, 3, w) else (r, a.space, w)
        (x.raceNow.find? (fun q => (agentR q.1, (agentAt q.1).2.1) != (r, e) && (q.2.1, q.2.2.1, q.2.2.2.1) == key)).map (·.2.2.2.2)

/-- A word as a plain read returns it: one of a racing write is read as it is after the write or as it was before it, word by
word (R179). -/
def raceWord (s : State) (a : Arm) (fe : Nat → Bool) (w : Nat × Nat) : W32 :=
  match raceAt s a w.2 with
  | some old => if !fe w.2 && Config.raceOld (s.fresh + w.1) then old else armWord s a w.2
  | none => armWord s a w.2

/-- The choices that a read's racing words take are spent. -/
def raceSpent (s : State) (a : Arm) (ws : List (Nat × Nat)) : State :=
  if ws.any (fun w => (raceAt s a w.2).isSome) then { s with fresh := s.fresh + 16 } else s

/-- What a read of words finds: the words in hand, the empty ones of a .fe read or of an FE page that are deferred, and those for
which its node has no place; none where a place for none of them is free (R121, R138). -/
def readSplit (s : State) (a : Arm) (ws : List (Nat × Nat)) (fe : Nat → Bool) : Option Arm :=
  let full := fun (w : Nat × Nat) => !fe w.2 || armFull s a w.2
  let need := ws.filter (fun w => !full w)
  let x := placeWords s a need
  if !need.isEmpty && x.1.isEmpty then none
  else some { a with need := x.1, more := x.2, got := (ws.filter full).map (fun w => (w.1, raceWord s a fe w)) }

/-- A read of words, by number and address, for a register: empty words are deferred. `count` is what the access does as it
reaches its node, `vs` its words by virtual address, `held` what becomes of one that finds no place. -/
def readWords (s : State) (a : Arm) (ws : List (Nat × Nat)) (fe : Nat → Bool) (va dst : Nat) (vs : List (Nat × Nat))
    (count : State → State) (done : State → List (Nat × W32) → Effect) (held : State → Effect) : Effect :=
  match readSplit s a ws fe with
  | none => held s
  | some b =>
    let s := raceSpent s a ws
    if b.need.isEmpty && b.more.isEmpty then done (count s) b.got else deferAccess (count s) b va dst vs

/-- What an earlier try of an element's instruction has armed: nothing, still waiting, or answered. -/
def retry (s : State) (word : W32) (start : Unit → Effect) (finish : Arm → Effect) : Effect :=
  match myArm s word with
  | none => start ()
  | some a => if a.released.isSome then finish a else .wait .load (armMore s a)

/-- The banks of a set of words: a gated one, a poisoned row, or a waking one (R123, R413). -/
def bufReadTest (s : State) (r sp : Nat) (ws : List (Nat × Nat)) : Option Acc :=
  let g := getR s r
  match ws.findSome? (fun w => bankTest s r sp w.2) with
  | some x => some x
  | none => (ws.find? (fun w => setHas (getBuf g sp).poison (w.2 / 64))).map (fun w => .bad (mkTrap 0x69 sp w.2))

/-- What an answer other than success makes of a load. -/
def loadAnswer (s : State) (word : W32) (addr : Nat) : Acc → Effect
  | .ok s => .done s
  | .busy s => .wait .load s
  | .bad t => loadFault s word addr t
  | .absent pa => .absent pa

/-- The row accesses of a load of words are served: one, or one a lane (R119, R275). -/
def rowsServed (s : State) (r : Nat) (word : W32) (sp : Nat) (ws : List (Nat × Nat)) : State :=
  (if manyWords word then ws else ws.take 1).foldl (fun s w => bankServed s r (bankOf sp w.2)) s

/-- A typed-buffer load of words (R275). -/
def bufLoad (s : State) (word : W32) (sp : Nat) (ws : List (Nat × Nat)) (fe : Bool) (addr : Nat) (bval : W64) (dst : Nat) : Effect :=
  let held := fun (s : State) => queueReq s word addr 0 bval dst ws []
  retry s word (fun _ =>
    if outFull s then .wait .load s
    else if bufHolds s then held s
    else match bufReadTest s (hereR s) sp ws with
      | some (.busy s) => held s
      | some x => loadAnswer s word addr x
      | none => readWords s (readArm s.agent word sp addr 0 bval) ws (fun _ => fe) addr dst ws
          (fun s => rowsServed s (hereR s) word sp ws) (fun s got => .done (loadDone s dst got)) held)
    (fun a => .done (loadDone (delArm s a) dst a.got))

/-- Width of a load or store by the class of D (R261). -/
def widthOf (d : Nat) : Nat := if classOf d = 2 then 8 else 64

/-- The words of an access by number. -/
def numbered (a n : Nat) : List (Nat × Nat) := (List.range (n / 4)).map (fun k => (k, a + 4 * k))

/-- LDB (R275). -/
def execLdb (t : BitVec 6) (d a b : BitVec 5) (z : BitVec 3) (s : State) : Host.Outcome State Fault Refusal :=
  issue (.ldb t d a b z) s (fun s =>
    let sp := z.toNat / 2
    match addrOf (here s) a.toNat b.toNat sp with
    | .error x => .trap x
    | .ok ad =>
      match bufCheck sp ad (widthOf d.toNat) with
      | some x => .trap x
      | none => recorded 2 sp ad (bufLoad s (wordOf (.ldb t d a b z)) sp (numbered ad (widthOf d.toNat)) (z.toNat % 2 == 1) ad
          (srcVal (here s) b.toNat) d.toNat))

/-- Byte addresses of the lanes of a gather or scatter: a + b_k, for k in L (R275). -/
def laneAddrs (n : Node) (base b : Nat) : List (Nat × Nat) :=
  ((List.range 16).filter (maskBit (srcMask n b))).map (fun k => (k, (base + ((srcLanes n b).get k).toNat) % 2 ^ 32))

/-- LDBG: each lane its own access (R275). -/
def execLdbg (t : BitVec 6) (d a b : BitVec 5) (z : BitVec 3) (s : State) : Host.Outcome State Fault Refusal :=
  issue (.ldbg t d a b z) s (fun s =>
    let sp := z.toNat / 2
    match addrOf (here s) a.toNat 28 sp with
    | .error x => .trap x
    | .ok base =>
      let ws := laneAddrs (here s) base b.toNat
      match firstFault (ws.map (fun w => bufCheck sp w.2 4)) with
      | some x => .trap x
      | none => bufLoad s (wordOf (.ldbg t d a b z)) sp ws (z.toNat % 2 == 1) base 0 d.toNat)

/-- What the answer to a store makes of the instruction: a helm core has moved on from a fault, which is delivered, and
an overflow rolls the graph back (R405, R407, R408). In an element a .fe double write withholds the word that failed alone
(R391). -/
def storeAnswer (s : State) (x : Acc × Option Trap) : Effect :=
  let moved := fun (s : State) (t : Trap) => if t.cause = 0x63 || t.cause = 0x64 then Effect.hold (memFault s s.agent t)
    else .done (memFault s s.agent t)
  match x with
  | (.ok s', none) => .done (emitDone s')
  | (.ok s', some t) => if isHelm s then moved s' t else if t.cause = 0x61 then .trapFrom s' t else .trap t
  | (.busy s', _) => .wait .unit s'
  | (.bad t, _) => if isHelm s then moved s t else .trap t
  | (.absent pa, _) => .absent pa

/-- A store that its bank or its base die holds: a helm core goes on, an element's context is held (R262, R409). -/
def storeHeld (s : State) (word : W32) (addr : Nat) (dval : W64) (ws : List (Nat × Nat)) (bs : List Byte) (x : Acc × Option Trap) : Effect :=
  match x with
  | (.busy s', _) => queueReq s' word addr dval 0 99 ws bs
  | y => storeAnswer s y

/-- The bytes of a register's value. -/
def regBytes (n : Node) (d : Nat) : List Byte :=
  if classOf d = 2 then Bits.bytesOf 8 (srcVal n d).toNat else Bits.bytesOf 64 (srcLanes n d).toNat

/-- STB (R275). -/
def execStb (t : BitVec 6) (d a b : BitVec 5) (z : BitVec 3) (s : State) : Host.Outcome State Fault Refusal :=
  issue (.stb t d a b z) s (fun s =>
    let sp := z.toNat / 2
    match addrOf (here s) a.toNat b.toNat sp with
    | .error x => .trap x
    | .ok ad =>
      match bufCheck sp ad (widthOf d.toNat) with
      | some x => .trap x
      | none =>
        let w := wordOf (.stb t d a b z)
        let bs := regBytes (here s) d.toNat
        recorded 3 sp ad (if bufHolds s then queueReq s w ad 0 0 99 [] bs
          else storeHeld s w ad 0 [] bs (bufStore s (hereR s) sp ad bs (z.toNat % 2 == 1))))

/-- Stores of several accesses, in order: each is applied or withheld by itself; the first fault is reported. -/
def storeMany (f : State → Nat × List Byte → Acc × Option Trap) : List (Nat × List Byte) → State → Option Trap → Acc × Option Trap
  | [], s, bad => (.ok s, bad)
  | w :: ws, s, bad =>
    match f s w with
    | (.ok s', d) => storeMany f ws s' (match bad with | some t => some t | none => d)
    | (.bad t, _) => if t.cause = 0x63 || t.cause = 0x64 then (.bad t, none)
      else storeMany f ws s (match bad with | some t => some t | none => some t)
    | x => x

/-- The lanes of a scatter into a buffer, by address and bytes, in order; none of them while a bank holds one (R123, R275). -/
def scatter (s : State) (r sp : Nat) (fe : Bool) (items : List (Nat × List Byte)) : Acc × Option Trap :=
  match wakeHold s r (items.map (fun w => (sp, w.1))) with
  | some s => (.busy s, none)
  | none => storeMany (fun s w => bufStore s r sp w.1 w.2 fe) items s none

/-- STBS: the lanes in lane order; two that name one word leave the higher lane's value (R275). -/
def execStbs (t : BitVec 6) (d a b : BitVec 5) (z : BitVec 3) (s : State) : Host.Outcome State Fault Refusal :=
  issue (.stbs t d a b z) s (fun s =>
    let sp := z.toNat / 2
    match addrOf (here s) a.toNat 28 sp with
    | .error x => .trap x
    | .ok base =>
      let n := here s
      let ws := laneAddrs n base b.toNat
      match firstFault (ws.map (fun w => bufCheck sp w.2 4)) with
      | some x => .trap x
      | none =>
        let word := wordOf (.stbs t d a b z)
        let items := ws.map (fun w => (w.2, Bits.bytesOf 4 ((srcLanes n d.toNat).get w.1).toNat))
        let bs := items.flatMap (·.2)
        if bufHolds s then queueReq s word base 0 0 99 ws bs
        else storeHeld s word base 0 ws bs (scatter s (hereR s) sp (z.toNat % 2 == 1) items))

/-! ## EMPTY (R276) -/

/-- Clears presence of a range of a typed buffer, journaling each line (R136, R276). -/
def bufEmpty (g : Region) (sp a n : Nat) : Option Region :=
  let lines := (List.range ((a + n + 63) / 64 - a / 64)).map (fun k => a / 64 + k)
  let g := lines.foldl (fun (g : Option Region) k => g.bind (fun g => journalLine g sp k)) (some g)
  g.map (fun g =>
    let b := getBuf g sp
    { g with bufs := vSet g.bufs sp { b with full := b.full.filter (fun w => !(a ≤ w && w < a + n)) } })

/-- Clears presence of a range of an FE page, in memory and in every window (R138, R276). -/
def pageEmpty (s : State) (pa n : Nat) : State :=
  let out := fun (l : List Nat) => l.filter (fun w => !(pa ≤ w && w < pa + n))
  { s with full := out s.full,
           launches := aMap (fun _ x => { x with fills := out x.fills, commits := x.commits.map (fun c => (c.1, c.2.1, out c.2.2.1, c.2.2.2)) }) s.launches }

/-- The checks of EMPTY: ALIGN, OUTBUF and JOURNAL, then COPY 4 (R276, R391); `page` is how much of the page is left. -/
def emptyCheck (sp a n page : Nat) : Option Trap :=
  if a % 4 ≠ 0 then some (mkTrap 0x1B 2 a)
  else if (if sp = 3 then decide (page < n) else bufSize sp ≤ a || decide (bufSize sp < a + n)) then some (mkTrap 0x1C sp a)
  else if inJournal sp a n then some (mkTrap 0x1D 0 a)
  else if n % 4 ≠ 0 || n < 4 || 65536 < n then some (mkTrap 0x22 4 n)
  else none

/-- The bytes from an address to the end of its page, whatever the page permits; with no page there is no end to run past,
and the access meets its translation fault (R276, R391). -/
def pageLeft (s : State) (part va : Nat) : Nat :=
  match xlate s part va 3 with
  | .ok (_, e) => 2 ^ pageBits (Bits.nat e 7 6) - va % 2 ^ pageBits (Bits.nat e 7 6)
  | .error _ => 2 ^ 64

/-- EMPTY of a range of a buffer: banks, journal, presence (R123, R136, R276). -/
def emptyBuf (s : State) (r sp a n : Nat) : Acc × Option Trap :=
  let lines := (List.range ((a + n + 63) / 64 - a / 64)).map (fun k => a / 64 * 64 + 64 * k)
  match lines.findSome? (fun x => bankTest s r sp x) with
  | some x => (x, none)
  | none => match bufEmpty (getR s r) sp a n with
    | some g => (.ok (journalEarly (setR s r g) r), none)
    | none => (.bad (mkTrap 0x64 sp a), none)

/-- EMPTY (R276). -/
def execEmpty (t : BitVec 6) (d a b : BitVec 5) (z : BitVec 2) (s : State) : Host.Outcome State Fault Refusal :=
  issue (.empty t d a b z) s (fun s =>
    let sp := z.toNat
    let r := hereR s
    match addrOf (here s) a.toNat b.toNat sp with
    | .error x => .trap x
    | .ok ad =>
      let n := (srcVal (here s) d.toNat).toNat
      match emptyCheck sp ad n (pageLeft s (partOf s r) ad) with
      | some x => .trap x
      | none =>
        if sp = 3 then
          if engineHolds s then queueReq s (wordOf (.empty t d a b z)) ad (BitVec.ofNat 64 n) 0 99 [] []
          else match xlate s (partOf s r) ad 1 with
          | .error k => queueReq (engineStop s s.agent k ad) (wordOf (.empty t d a b z)) ad (BitVec.ofNat 64 n) 0 99 [] []
          | .ok (pa, leaf) =>
            let s := engineGo s s.agent
            if !populated pa then .absent pa
            else if !leafFE leaf then storeAnswer s (.bad (mkTrap 0x62 0 ad), none)
            else storeAnswer s (.ok (pageEmpty s pa n), none)
        else
          let w := wordOf (.empty t d a b z)
          if bufHolds s then queueReq s w ad (BitVec.ofNat 64 n) 0 99 [] []
          else storeHeld s w ad (BitVec.ofNat 64 n) [] [] (emptyBuf s r sp ad n))

/-! ## LDG, STG and PREF (R279) -/

/-- Whether a read or an atomic of a line meets poison (R410). -/
def readPoison (s : State) (l : Option Nat) (pa : Nat) : Bool := poisoned s (pa / 64) && !windowLine s l (pa / 64)

/-- Translates words, by number and virtual address: number, virtual and physical address and leaf of each, or the first
that faults. -/
def globalWords (s : State) (part : Nat) : List (Nat × Nat) → Except (Nat × Nat) (List (Nat × Nat × Nat × W64))
  | [] => .ok []
  | w :: ws => match xlate s part w.2 0 with
    | .error k => .error (k, w.2)
    | .ok (pa, e) => (globalWords s part ws).map ((w.1, w.2, pa, e) :: ·)

/-- LDG (R279): behind a translation fault the core's engine holds it, and the core goes on to the first use of D. -/
def execLdg (t : BitVec 6) (d a b : BitVec 5) (s : State) : Host.Outcome State Fault Refusal :=
  issue (.ldg t d a b) s (fun s =>
    let r := hereR s
    let w := wordOf (.ldg t d a b)
    let n := widthOf d.toNat
    match addrOf (here s) a.toNat b.toNat 3 with
    | .error x => .trap x
    | .ok ad =>
      match alignCheck ad n with
      | some x => .trap x
      | none =>
        let bval := srcVal (here s) b.toNat
        recorded 2 3 ad (
          if outFull s then .wait .load s
          else if engineHolds s then queueReq s w ad 0 bval d.toNat (numbered ad n) []
          else match xlate s (partOf s r) ad 0 with
            | .error k => queueReq (engineStop s s.agent k ad) w ad 0 bval d.toNat (numbered ad n) []
            | .ok (pa, leaf) =>
              let s := engineGo s s.agent
              if !populated pa then .absent pa
              else if readPoison s (viewOf s r false) pa then loadFault s w ad (mkTrap 0x66 0 ad)
              else readWords s (readArm s.agent w 3 pa 0 bval) (numbered pa n) (fun _ => leafFE leaf) ad d.toNat []
                (fun s => touch s (partOf s r) ad pa leaf) (fun s got => .done (loadDone s d.toNat got))
                (fun s => queueReq s w ad 0 bval d.toNat (numbered ad n) [])))

/-- A store of one global access of a graph: translated, then held in its window (R127, R132). -/
def gWrite (s : State) (r va : Nat) (sys : Bool) (bs : List Byte) : Acc × Option Trap :=
  match xlate s (partOf s r) va 1 with
  | .error k => (.busy (engineStop s s.agent k va), none)
  | .ok (pa, leaf) => gStore (engineGo s s.agent) (partOf s r) (viewOf s r sys) va pa leaf bs

/-- STG (R279): behind a translation fault the core's engine holds it, and the core goes on. -/
def execStg (t : BitVec 6) (d a b : BitVec 5) (s : State) : Host.Outcome State Fault Refusal :=
  issue (.stg t d a b) s (fun s =>
    match addrOf (here s) a.toNat b.toNat 3 with
    | .error x => .trap x
    | .ok ad =>
      match alignCheck ad (widthOf d.toNat) with
      | some x => .trap x
      | none =>
        let bs := regBytes (here s) d.toNat
        let w := wordOf (.stg t d a b)
        recorded 3 3 ad (
          if engineHolds s then queueReq s w ad 0 0 99 [] bs
          else match xlate s (partOf s (hereR s)) ad 1 with
            | .error k => queueReq (engineStop s s.agent k ad) w ad 0 0 99 [] bs
            | .ok _ => storeHeld s w ad 0 [] bs (gWrite s (hereR s) ad false bs)))

/-- PREF: the page's translation enters its base die's cache, which keeps 32K; a walk that would fault is dropped
(R127, R279). -/
def execPref (t : BitVec 6) (a b : BitVec 5) (s : State) : Host.Outcome State Fault Refusal :=
  issue (.pref t a b) s (fun s =>
    match addrOf (here s) a.toNat b.toNat 3 with
    | .error x => .trap x
    | .ok ad =>
      match xlate s (partOf s (hereR s)) ad 0 with
      | .error _ => .done (emitDone s)
      | .ok (_, e) =>
        let k := (ad / 2 ^ 54 % 8, partOf s (hereR s), ad / 2 ^ pageBits (Bits.nat e 7 6) * 2 ^ pageBits (Bits.nat e 7 6))
        let rest := s.tcache.filter (· != k)
        let same := (rest.filter (fun x => x.1 == k.1)).length
        let rest := if 32768 ≤ same then (match rest.find? (fun x => x.1 == k.1) with | some x => rest.erase x | none => rest) else rest
        .done (emitDone { s with tcache := rest ++ [k] }))

end Sys2Proof.Machine
end

