-- ==== Sys2Proof/Machine/HostRing.lean ====
section
/-!
DEFINITION. Completion records and their rings (R19, R20, R438), and fences: the raise, its log entry and the waits it
releases (R30, R94, R95, R146).
-/

namespace Sys2Proof.Machine

/-! ## Completions -/

/-- A connection that no message has set up. -/
def connNew : Conn :=
  { rod := false, dest := 0, closed := false, hello := false, features := 0, ring := 0, count := 0, free := 0, written := 0,
    data := 0, dlen := 0, dnext := 0, seqs := [], done := [], held := none, last := none, withheld := [] }

/-- A connection. -/
def getC (s : State) (k : Nat) : Conn := aGet connNew s.conns k
/-- Writes a connection. -/
def setC (s : State) (k : Nat) (c : Conn) : State := { s with conns := aSet s.conns k c }

/-- A completion record; PHASE is 1 on the ring's first pass and flips as it wraps (R20). -/
def compWord (c : Comp) (phase : Nat) : Nat :=
  packFields [(192, 64, c.tag.toNat), (128, 64, c.value.toNat), (120, 8, c.typ.toNat), (112, 8, c.status.toNat),
    (107, 5, c.part.toNat), (64, 1, phase), (0, 64, c.seq.toNat)]

/-- Writes a record into the next entry of a connection's ring. -/
def ringPut (s : State) (k : Nat) (c : Comp) : State :=
  let x := getC s k
  let i := x.written % x.count
  let s := { s with host := memPutNat s.host (x.ring.toNat + 32 * i) 32 (compWord c (1 - x.written / x.count % 2)) }
  setC s k { x with free := x.free - 1, written := x.written + 1 }

/-- The endpoint that an address names: a present partition's, or management (none). -/
def endpointOf (s : State) (d : BitVec 128) : Option (Option Nat) :=
  match s.parts.find? (fun e => e.2.present && e.2.endpoints.contains d) with
  | some e => some (some e.1)
  | none => if d = Config.mgmtAddr then some none else none

/-- Keeps a completion whose connection has failed for the partition of the connection's endpoint, 1,024 for each; the oldest is
dropped and counted. One of a management connection is not kept (R438; log 52). -/
def compKeep (s : State) (k : Nat) (c : Comp) : State :=
  match endpointOf s (getC s k).dest with
  | some (some part) =>
    let p := getP s part
    if 1024 ≤ p.kept.length then setP s part { p with kept := p.kept.drop 1 ++ [c], dropped := p.dropped + 1 }
    else setP s part { p with kept := p.kept ++ [c] }
  | _ => s

/-- Writes a completion, withholds it for want of a free entry, or keeps it where the connection has failed (R20,
R438). -/
def complWrite (s : State) (k : Nat) (c : Comp) : State :=
  let x := getC s k
  if x.closed || x.count = 0 then compKeep s k c
  else if x.free = 0 || !x.withheld.isEmpty then setC s k { x with withheld := x.withheld ++ [c] }
  else ringPut s k c

/-- Writes what a ring has withheld while it has free entries (R20). -/
def ringDrain (k : Nat) : List Comp → State → State
  | [], s => setC s k { getC s k with withheld := [] }
  | c :: cs, s => if (getC s k).free = 0 then setC s k { getC s k with withheld := c :: cs } else ringDrain k cs (ringPut s k c)

/-- Completes a message of a connection: the record is remembered for a message sent again (R19). -/
def complMsg (s : State) (k : Nat) (c : Comp) : State :=
  let x := getC s k
  complWrite (setC s k { x with done := x.done.filter (fun d => d.seq != c.seq) ++ [c] }) k c

/-- TYPE of the messages (R18). -/
def tyFENCE : Byte := 0x04

/-- TYPE of REQUEST. -/
def tyREQUEST : Byte := 0x03

/-! ## REQUESTs (R64) -/

/-- The time after the last valid lane that has arrived at a sink, 0 when none has (R64). -/
def sinkTop (s : State) (a : At) : Nat := (nodePair (getN s a.r a.e a.c) a.n).seenTop

/-- Completes a REQUEST. -/
def reqDone (s : State) (q : Req) (status value : Nat) : State :=
  complMsg { s with reqs := s.reqs.erase q } q.conn
    { tag := q.tag, value := BitVec.ofNat 64 value, typ := tyREQUEST, status := BitVec.ofNat 8 status, part := q.part, seq := q.seq }

/-- Completes with OK every REQUEST whose times have all arrived, or at whose sink a rank-7 end has. -/
def serveReqs (s : State) : State :=
  (s.reqs.filter (fun q => q.left.isEmpty || (nodePair (getN s q.sink.r q.sink.e q.sink.c) q.sink.n).ended)).foldl
    (fun s q => reqDone s q 0 (sinkTop s q.sink)) s

/-! ## Fences -/

/-- A fence log entry (R95). -/
def fenceLog (s : State) (part va : Nat) (ltag : W64) (value : Nat) : State :=
  let p := getP s part
  let ar := areaOf p 0
  let w := packFields [(192, 64, value), (128, 64, va), (64, 64, ltag.toNat), (0, 64, s.now)]
  let s := if ar.2.2 = 0 then s else hbmPutNat s (ar.2.1 + 32 * (p.fenceW % ar.2.2)) 32 w
  setP s part { p with fenceW := p.fenceW + 1 }

/-- The host waits on fences that have reached their values complete (R30). -/
def serveWaits (s : State) : State :=
  let met := fun (w : HostWait) => w.value.toNat ≤ memNat s.hbm w.addr 8
  let ready := s.hostWaits.filter met
  let s' := { s with hostWaits := s.hostWaits.filter (fun w => !met w) }
  ready.foldl (fun s' w => complMsg s' w.conn
    { tag := w.tag, value := BitVec.ofNat 64 (memNat s.hbm w.addr 8), typ := tyFENCE, status := 0, part := w.part, seq := w.seq }) s'

/-- Raises a fence to max(counter, v), outside every window, with its log entry; waits that it meets are released (R94,
R95, R134, R146). -/
def fenceRaise (s : State) (part va pa : Nat) (leaf : W64) (v : Nat) (ltag : W64) : State :=
  let new := max (memNat s.hbm pa 8) v
  let s := memStore (touch s part va pa leaf) pa (Bits.bytesOf 8 new) (leafFE leaf) (leafComp leaf)
  serveWaits (notify (fenceLog s part va ltag new) 3 0 pa 8)

end Sys2Proof.Machine
end

