-- ==== Sys2Proof/Machine/AtomOps.lean ====
section
/-!
DEFINITION. Atomics, CAS, WAITNE and FENCE (R171, R180, R181, R280 to R282).
-/

namespace Sys2Proof.Machine

/-! ## Scalar forms -/

/-- An atomic on a typed-buffer word: the old value, and the buffer with the new one (R174, R280). -/
def bufAtomic (s : State) (word : W32) (sp a : Nat) (dval bval : W64) : Acc × Nat :=
  let r := hereR s
  let n := atomWidth word
  match bufReadTest s r sp [(0, a)] with
  | some x => (x, 0)
  | none =>
    let old := memNat (getBuf (getR s r) sp).mem a n
    ((bufStore s r sp a (Bits.bytesOf n (atomUpdate word dval bval old)) false).1, old)

/-- A leaf with FE taken out: an atomic writes a full word again (R280). -/
def leafPlain (e : W64) : W64 := Bits.put e 3 1 0

/-- The answer of an atomic: its old value into D, or what its node's refusal comes to; `held` is what becomes of one that its
node holds. An overflow rolls the graph back (R408). -/
def atomAnswer (s : State) (dst n : Nat) (held : State → Effect) (x : Acc × Nat) : Effect :=
  match x.1 with
  | .ok s => .done (loadDone s dst (atomGot n x.2))
  | .busy s => held s
  | .bad t => if isHelm s && (t.cause = 0x63 || t.cause = 0x64) then .hold (memFault s s.agent t) else .trap t
  | .absent pa => .absent pa

/-- A global atomic: in the graph's view, held in its window, or at .sys scope on memory itself; an empty word of an FE
page defers it (R134, R138, R174, R280). A host's fence wait may be met. -/
def gAtomic (s : State) (word : W32) (va : Nat) (sys : Bool) (dval bval : W64) (dst : Nat) : Effect :=
  let r := hereR s
  let n := atomWidth word
  let part := partOf s r
  let held := fun (s : State) => queueReq s word va dval bval dst [] []
  if engineHolds s then held s
  else match xlate s part va 2 with
  | .error k => held (engineStop s s.agent k va)
  | .ok (pa, leaf) =>
    let s := engineGo s s.agent
    let l := viewOf s r sys
    if !populated pa then .absent pa
    else if readPoison s l pa then .trap (mkTrap 0x66 2 va)
    else
      let need := if leafFE leaf then ((numbered pa n).filter (fun w => !viewFull s l w.2)) else []
      if need.isEmpty then
        let old := viewNat s l pa n
        match atomAnswer s dst n held ((gStore s part l va pa (leafPlain leaf) (Bits.bytesOf n (atomUpdate word dval bval old))).1, old) with
        | .done s => .done (serveWaits s)
        | x => x
      else if !placeFree s 3 r pa then held s
      else
        let a : Arm := { who := s.agent, kind := .atomic, space := 3, sys := sys, addr := pa, operand := 0, word := word,
                         dval := dval, bval := bval, need := need, more := [], got := [], released := none }
        deferAccess (touch s part va pa leaf) a va dst []

/-- ATOM, ATOMR and CAS in their scalar forms (R280): `sz` gives the space and .sys (R226). -/
def atomScalar (word : W32) (a sz dst : Nat) (bval : W64) (s : State) : Effect :=
  let sp := sz / 2
  let dval := srcVal (here s) dst
  match addrOf (here s) a 28 sp with
  | .error x => .trap x
  | .ok ad =>
    match (if sp = 3 then alignCheck ad (atomWidth word) else bufCheck sp ad (atomWidth word)) with
    | some x => .trap x
    | none => retry s word (fun _ =>
        let held := fun (s : State) => queueReq s word ad dval bval dst [] []
        if outFull s then .wait .load s
        else recorded 4 sp ad (if sp = 3 then gAtomic s word ad (sz % 2 == 1) dval bval dst
          else if bufHolds s then held s
          else atomAnswer s dst (atomWidth word) held (bufAtomic s word sp ad dval bval)))
      (fun x => .done (loadDone (delArm s x) dst x.got))

/-- ATOM.add (R280). -/
def execAtomAdd (t : BitVec 6) (d a : BitVec 5) (z : BitVec 3) (s : State) : Host.Outcome State Fault Refusal :=
  issue (.atomAdd t d a z) s (atomScalar (wordOf (.atomAdd t d a z)) a.toNat z.toNat d.toNat 0)
/-- ATOM.min (R280). -/
def execAtomMin (t : BitVec 6) (d a : BitVec 5) (z : BitVec 3) (s : State) : Host.Outcome State Fault Refusal :=
  issue (.atomMin t d a z) s (atomScalar (wordOf (.atomMin t d a z)) a.toNat z.toNat d.toNat 0)
/-- ATOM.max (R280). -/
def execAtomMax (t : BitVec 6) (d a : BitVec 5) (z : BitVec 3) (s : State) : Host.Outcome State Fault Refusal :=
  issue (.atomMax t d a z) s (atomScalar (wordOf (.atomMax t d a z)) a.toNat z.toNat d.toNat 0)
/-- ATOM.xchg (R280). -/
def execAtomXchg (t : BitVec 6) (d a : BitVec 5) (z : BitVec 3) (s : State) : Host.Outcome State Fault Refusal :=
  issue (.atomXchg t d a z) s (atomScalar (wordOf (.atomXchg t d a z)) a.toNat z.toNat d.toNat 0)
/-- ATOM.and (R280). -/
def execAtomAnd (t : BitVec 6) (d a : BitVec 5) (z : BitVec 3) (s : State) : Host.Outcome State Fault Refusal :=
  issue (.atomAnd t d a z) s (atomScalar (wordOf (.atomAnd t d a z)) a.toNat z.toNat d.toNat 0)
/-- ATOM.or (R280). -/
def execAtomOr (t : BitVec 6) (d a : BitVec 5) (z : BitVec 3) (s : State) : Host.Outcome State Fault Refusal :=
  issue (.atomOr t d a z) s (atomScalar (wordOf (.atomOr t d a z)) a.toNat z.toNat d.toNat 0)
/-- ATOM.fadd: FP32, RNE, no flag (R201, R280). -/
def execAtomFadd (t : BitVec 6) (d a : BitVec 5) (z : BitVec 3) (s : State) : Host.Outcome State Fault Refusal :=
  issue (.atomFadd t d a z) s (atomScalar (wordOf (.atomFadd t d a z)) a.toNat z.toNat d.toNat 0)
/-- ATOMR.add (R280). -/
def execAtomrAdd (t : BitVec 6) (d a : BitVec 5) (z : BitVec 3) (s : State) : Host.Outcome State Fault Refusal :=
  issue (.atomrAdd t d a z) s (atomScalar (wordOf (.atomrAdd t d a z)) a.toNat z.toNat d.toNat 0)
/-- ATOMR.min (R280). -/
def execAtomrMin (t : BitVec 6) (d a : BitVec 5) (z : BitVec 3) (s : State) : Host.Outcome State Fault Refusal :=
  issue (.atomrMin t d a z) s (atomScalar (wordOf (.atomrMin t d a z)) a.toNat z.toNat d.toNat 0)
/-- ATOMR.max (R280). -/
def execAtomrMax (t : BitVec 6) (d a : BitVec 5) (z : BitVec 3) (s : State) : Host.Outcome State Fault Refusal :=
  issue (.atomrMax t d a z) s (atomScalar (wordOf (.atomrMax t d a z)) a.toNat z.toNat d.toNat 0)
/-- ATOMR.xchg (R280). -/
def execAtomrXchg (t : BitVec 6) (d a : BitVec 5) (z : BitVec 3) (s : State) : Host.Outcome State Fault Refusal :=
  issue (.atomrXchg t d a z) s (atomScalar (wordOf (.atomrXchg t d a z)) a.toNat z.toNat d.toNat 0)
/-- ATOMR.and (R280). -/
def execAtomrAnd (t : BitVec 6) (d a : BitVec 5) (z : BitVec 3) (s : State) : Host.Outcome State Fault Refusal :=
  issue (.atomrAnd t d a z) s (atomScalar (wordOf (.atomrAnd t d a z)) a.toNat z.toNat d.toNat 0)
/-- ATOMR.or (R280). -/
def execAtomrOr (t : BitVec 6) (d a : BitVec 5) (z : BitVec 3) (s : State) : Host.Outcome State Fault Refusal :=
  issue (.atomrOr t d a z) s (atomScalar (wordOf (.atomrOr t d a z)) a.toNat z.toNat d.toNat 0)
/-- CAS (R280). -/
def execCas (t : BitVec 6) (d a b : BitVec 5) (z : BitVec 3) (s : State) : Host.Outcome State Fault Refusal :=
  issue (.cas t d a b z) s (fun s =>
    atomScalar (wordOf (.cas t d a b z)) a.toNat z.toNat d.toNat (srcVal (here s) b.toNat) s)

/-! ## Requests that a helm core's engine holds (R262, R377, R406) -/

/-- Takes a request out of a helm core's list. -/
def dropReq (s : State) (r : Nat) (o : Outstanding) : State := setH s r { getH s r with outstanding := (getH s r).outstanding.erase o }
/-- Replaces a request of a helm core. -/
def setReq (s : State) (r : Nat) (o o' : Outstanding) : State :=
  setH s r { getH s r with outstanding := (getH s r).outstanding.map (fun x => if x = o then o' else x) }

/-- A held read reaches its node: its words are read, or deferred there under the arm that answers it; without a place it stays
held. -/
def reachNode (s : State) (r : Nat) (o : Outstanding) (a : Arm) (ws : List (Nat × Nat)) (fe : Nat → Bool) (count : State → State) :
    State × Bool :=
  match readSplit s a ws fe with
  | none => (s, false)
  | some b =>
    let s := setReq (count s) r o { o with queued := false }
    let s := { s with arms := s.arms ++ [b] }
    (if b.need.isEmpty && b.more.isEmpty then release s b b.got 0 else s, true)

/-- A held load is tried again: where its words translate they are read, or deferred at their nodes, under the arm that
answers it. -/
def retryLoad (s : State) (r : Nat) (o : Outstanding) : State × Bool :=
  match globalWords s (partOf s r) o.words with
  | .error (k, va) => (engineStop s s.agent k va, false)
  | .ok ws =>
    let l := viewOf s r false
    if ws.any (fun w => !populated w.2.2.1) then (s, false)
    else
      let s := engineGo s s.agent
      match ws.find? (fun w => readPoison s l w.2.2.1) with
      | some w => (setReq s r o { o with queued := false, failed := some (mkTrap 0x66 0 w.2.1) }, true)
      | none =>
        let count := fun (s : State) => ws.foldl (fun s w => if fieldO o.word = 0xAD && w.1 ≠ 0 then s else touch s (partOf s r) w.2.1 w.2.2.1 w.2.2.2) s
        reachNode s r o (readArm (.helm r) o.word 3 ((ws.map (·.2.2.1)).headD 0) o.dval o.bval) (ws.map (fun w => (w.1, w.2.2.1)))
          (fun pa => ws.any (fun w => w.2.2.1 == pa && leafFE w.2.2.2)) count

/-- A held atomic is tried again. -/
def retryAtomic (s : State) (r : Nat) (o : Outstanding) : State × Bool :=
  let n := atomWidth o.word
  let sys := (fieldY o.word).toNat % 2 == 1
  let va := o.addr.toNat
  match xlate s (partOf s r) va 2 with
  | .error k => (engineStop s s.agent k va, false)
  | .ok (pa, leaf) =>
    let l := viewOf s r sys
    if !populated pa then (s, false)
    else
      let s := engineGo s s.agent
      if readPoison s l pa then (setReq s r o { o with queued := false, failed := some (mkTrap 0x66 2 va) }, true)
      else
        let need := if leafFE leaf then ((numbered pa n).filter (fun w => !viewFull s l w.2)) else []
        let a : Arm := { who := .helm r, kind := .atomic, space := 3, sys := sys, addr := pa, operand := 0, word := o.word,
                         dval := o.dval, bval := o.bval, need := need, more := [], got := [], released := none }
        if !need.isEmpty && !placeFree s 3 r pa then (s, false)
        else
        let s := touch (setReq s r o { o with queued := false }) (partOf s r) va pa leaf
        let s := { s with arms := s.arms ++ [a] }
        if need.isEmpty then
          let x := stepArm s a
          (if x.2 then serveWaits (notify x.1 3 0 pa n) else x.1, true)
        else (s, true)

/-- What the answer to a held store makes of it. -/
def storeRetried (s : State) (r : Nat) (o : Outstanding) (x : Acc × Option Trap) : State × Bool :=
  match x with
  | (.ok s, none) => (dropReq s r o, true)
  | (.ok s, some t) => (memFault (dropReq s r o) s.agent t, true)
  | (.bad t, _) => (memFault (dropReq s r o) s.agent t, true)
  | (.busy s, _) => (s, false)
  | (.absent _, _) => (s, false)

/-- A held access of a typed buffer is tried again, and whether those behind it may be. -/
def retryBuf (s : State) (r : Nat) (o : Outstanding) : State × Bool :=
  let sp := (fieldY o.word).toNat / 2
  let fe := (fieldY o.word).toNat % 2 == 1
  let a := o.addr.toNat
  match (fieldO o.word).toNat with
  | 0xA1 => storeRetried s r o (bufStore s r sp a o.data fe)
  | 0xA3 => storeRetried s r o (scatter s r sp fe ((o.words.zip (List.range o.words.length)).map (fun x => (x.1.2, (o.data.drop (4 * x.2)).take 4))))
  | 0xAC => storeRetried s r o (emptyBuf s r sp a o.dval.toNat)
  | 0xA0 | 0xA2 => match bufReadTest s r sp o.words with
    | some (.bad t) => (setReq s r o { o with queued := false, failed := some t }, true)
    | some (.busy s) => (s, false)
    | some _ => (s, false)
    | none => reachNode s r o (readArm (.helm r) o.word sp a o.dval o.bval) o.words (fun _ => fe) (fun s => rowsServed s r o.word sp o.words)
  | _ => match bufAtomic s o.word sp a o.dval o.bval with
    | (.ok s, old) => (helmAnswer s r o.word (atomGot (atomWidth o.word) old), true)
    | (.bad t, _) => if t.cause = 0x64 then (memFault (dropReq s r o) s.agent t, true)
      else (setReq s r o { o with queued := false, failed := some t }, true)
    | (.busy s, _) => (s, false)
    | (.absent _, _) => (s, false)

/-- LTAG of the launch whose graph a region runs, 0 where it runs none (R95). -/
def launchTag (s : State) (r : Nat) : W64 := match launchOf s r with | some (_, l) => l.ltag | none => 0

/-- A held request of global memory is tried again, and whether those behind it may be. -/
def retryReq (s : State) (r : Nat) (o : Outstanding) : State × Bool :=
  let va := o.addr.toNat
  if fieldO o.word = 0xAE then storeRetried s r o (gWrite s r va false o.data)
  else if fieldO o.word = 0xAC then
    match xlate s (partOf s r) va 1 with
    | .error k => (engineStop s s.agent k va, false)
    | .ok (pa, leaf) =>
      let s := dropReq (engineGo s s.agent) r o
      (if leafFE leaf then pageEmpty s pa o.dval.toNat else memFault s s.agent (mkTrap 0x62 0 va), true)
  else if fieldO o.word = 0xF2 then
    match xlate s (partOf s r) va 2 with
    | .error k => (engineStop s s.agent k va, false)
    | .ok (pa, leaf) =>
      let s := engineGo s s.agent
      if !populated pa then (s, false)
      else if poisoned s (pa / 64) then (memFault (dropReq s r o) s.agent (mkTrap 0x66 2 va), true)
      else (fenceRaise (dropReq s r o) (partOf s r) va pa leaf o.dval.toNat (launchTag s r), true)
  else if fieldO o.word = 0xAD || fieldO o.word = 0xA6 then retryLoad s r o
  else retryAtomic s r o

/-! ## Pair form (R280) -/

/-- The OWNER range of a space that a context's MEMR record holds (R443). -/
def ownerRange (n : Node) (sp : Nat) : Nat × Nat :=
  match n.ranges.find? (fun m => m.owner && m.space.toNat == sp) with
  | some m => (m.lo, m.hi)
  | none => (0, 0)

/-- The pairs of a COORD head in pair order: number, index, value. -/
def pairsOf (t : Token) : List (Nat × Nat × Nat) :=
  ((List.range 8).filter (maskBit (hMask t.hdr))).map (fun k => (k, (t.pay.get k).toNat, (t.pay.get (k + 8)).toNat))

/-- Applies pairs one by one; the old values by pair number. -/
def pairGo (op sp lo hi : Nat) : List (Nat × Nat × Nat) → State → List (Nat × Nat) → Effect × List (Nat × Nat)
  | [], s, olds => (.done s, olds)
  | (k, i, v) :: ps, s, olds =>
    let a := lo + 4 * i
    if hi ≤ a then (.trap (mkTrap 0x49 0 i), olds)
    else match bufReadTest s (hereR s) sp [(0, a)] with
      | some (.bad t) => (.trap t, olds)
      | some (.busy s) => (.wait .load s, olds)
      | some (.absent pa) => (.absent pa, olds)
      | some (.ok _) | none =>
        let old := bufWord (getR s (hereR s)) sp a
        match (bufStore s (hereR s) sp a (Bits.bytesOf 4 (atomNew op 32 old v)) false).1 with
        | .ok s => pairGo op sp lo hi ps s ((k, old) :: olds)
        | .busy s => (.wait .load s, olds)
        | .bad t => (.trap t, olds)
        | .absent pa => (.absent pa, olds)

/-- The indices and old values, as a COORD token under the head's header (R280). -/
def pairTok (t : Token) (olds : List (Nat × Nat)) : Token :=
  let old := fun k => ((olds.find? (fun x => x.1 == k)).map (·.2)).getD 0
  { hdr := hSetMask t.hdr (laneMask t.hdr),
    pay := Lanes.ofFn (fun k => if k < 8 then t.pay.get k else BitVec.ofNat 32 (old (k - 8))) }

/-- The first check of a pair form: ALIGN, OUTBUF and JOURNAL of each pair inside the range (R391). -/
def pairCheck (sp lo hi : Nat) (ps : List (Nat × Nat × Nat)) : Option Trap :=
  firstFault (ps.map (fun p => if hi ≤ lo + 4 * p.2.1 then none else bufCheck sp (lo + 4 * p.2.1) 4))

/-- The word of a pair form: A is a channel. -/
def isAtomPair (w : W32) : Bool := fieldO w == 0xA9 && classOf (fieldA w).toNat == 4

/-- The pair form at its bank: each valid pair in order, within the owner range; D receives the indices and old values. A bank
that is waking, or has an earlier access to serve, holds all of it (R123, R280). -/
def atomPairRun (w : W32) (s : State) : Effect :=
  let sp := (fieldY w).toNat / 2
  match headOf (here s) (fieldA w).toNat with
  | none => .done s
  | some x =>
    let (lo, hi) := ownerRange (here s) sp
    let ps := pairsOf x
    match wakeHold s (hereR s) ((ps.filter (fun p => lo + 4 * p.2.1 < hi)).map (fun p => (sp, lo + 4 * p.2.1))) with
    | some s => .wait .load s
    | none => match pairGo (fieldB w).toNat sp lo hi ps s [] with
      | (.done s, olds) =>
        let s := emitDone s
        let n := here s
        let d := (fieldD w).toNat
        let f := if classOf d = 8 then fireTok n.regs (d - 24) (pairTok x olds) true else fireRegs n.regs
        (match commitFire n f with | .ok n => .done (setHere s n) | .error y => .trap y)
      | (e, _) => e

/-- ATOM in its pair form: the head is taken as it fires, and its pairs are applied in a later cycle, in the bank's order
(R75, R262, R280, R351). -/
def execAtomPair (t : BitVec 6) (d : BitVec 5) (a : BitVec 3) (b : BitVec 5) (z : BitVec 2) (s : State) :
    Host.Outcome State Fault Refusal :=
  issue (.atomPair t d a b z) s (fun s =>
    let sp := z.toNat
    let n := here s
    match headOf n (16 + a.toNat) with
    | none => .done s
    | some x =>
      let (lo, hi) := ownerRange n sp
      match pairCheck sp lo hi (pairsOf x) with
      | some y => .trap y
      | none => .hold (bkHere (setHere s { n with flight := some { slot := (agentAt s.agent).2.2.2, fire := fireRegs n.regs, trap := none } })))

/-! ## WAITNE and FENCE -/

/-- Writes the value that released a wait into a scalar D, or discards it. -/
def waitDone (s : State) (d : Nat) (v : W64) : State :=
  let n := here s
  emitDone (setHere s { n with regs := if classOf d = 2 then setS n.regs (d - 8) v else n.regs })

/-- WAITNE (R180, R281): compares and arms in one step; released when the word differs. One that finds no free place compares
again only when a place has freed, and one behind an access of the core's own that is still held waits for that (R174). -/
def execWaitne (t : BitVec 6) (d a b : BitVec 5) (z : BitVec 3) (s : State) : Host.Outcome State Fault Refusal :=
  issue (.waitne t d a b z) s (fun s =>
    let w := wordOf (.waitne t d a b z)
    let sp := z.toNat / 2
    let sys := z.toNat % 2 == 1
    let r := hereR s
    let x : W64 := ((srcVal (here s) b.toNat).setWidth 32 : W32).setWidth 64
    match addrOf (here s) a.toNat 28 sp with
    | .error y => .trap y
    | .ok ad =>
      let arm : Arm := { who := s.agent, kind := .waitNe, space := sp, sys := sys, addr := ad, operand := x, word := w, dval := 0,
                         bval := x, need := [], more := [], got := [], released := none }
      let compare := fun (s : State) (count : State → State) (m : Arm) (empty : Bool) =>
        let v := (armWord s m m.addr).setWidth 64
        if !empty && v != x then Effect.done (waitDone (count s) d.toNat v)
        else if placeFree s sp r m.addr then
          let s := count s
          .wait .waitNe { s with arms := s.arms ++ [{ m with need := if empty then [(0, m.addr)] else [] }] }
        else .wait .waitNe { s with arms := s.arms ++ [{ m with more := [(0, m.addr)] }] }
      let start := fun (s : State) =>
        if sp = 3 then
          if engineHolds s then Effect.wait .waitNe s
          else match xlate s (partOf s r) ad 0 with
          | .error k => .wait .waitNe (engineStop s s.agent k ad)
          | .ok (pa, leaf) =>
            if !populated pa then .absent pa
            else if readPoison s (viewOf s r sys) pa then .trap (mkTrap 0x66 0 ad)
            else compare s (fun s => touch (engineGo s s.agent) (partOf s r) ad pa leaf) { arm with addr := pa } (leafFE leaf && !viewFull s (viewOf s r sys) pa)
        else if bufHolds s then .wait .waitNe s
        else match bufReadTest s r sp [(0, ad)] with
          | some (.busy s) => .wait .waitNe s
          | some (.bad y) => .trap y
          | some (.absent pa) => .absent pa
          | some (.ok _) | none => compare s (fun s => bankServed s r (bankOf sp ad)) arm false
      match (if sp = 3 then alignCheck ad 4 else bufCheck sp ad 4), myArm s w with
      | some y, _ => .trap y
      | none, some m => (match m.released with
        | some v => .done (waitDone (delArm s m) d.toNat v)
        | none => if m.more.isEmpty || !placeFree s sp r m.addr then .wait .waitNe s else start (delArm s m))
      | none, none => start s)

/-- FENCE: the agent waits until its earlier accesses have performed; the window's stores reach the commit buffer as they
execute (R171, R181, R282). An element's context has none outstanding. -/
def execFence (t : BitVec 6) (z : BitVec 3) (s : State) : Host.Outcome State Fault Refusal :=
  issue (.fence t z) s (fun s =>
    match s.agent with
    | .helm r => if (getH s r).outstanding.any (fun o => o.failed.isNone) then .wait .fence s else .done s
    | .elem .. => .done s)

end Sys2Proof.Machine
end

