-- ==== Sys2Proof/Machine/StreamMem.lean ====
section
/-!
DEFINITION. Stream parameter blocks and the stream instructions SRD, SWR, SGATH, SSCAT and SCLS, and a demand-mode
source's reads (R65, R129 to R131, R277, R278).
-/

namespace Sys2Proof.Machine

/-! ## Stream parameter blocks (R129 to R131) -/

/-- Fields of a block. -/
def spbBase (x : Lanes) : Nat := Bits.nat x 56 0
/-- ESZ. -/
def spbEsz (x : Lanes) : Nat := Bits.nat x 250 248
/-- COUNT0. -/
def spbCount0 (x : Lanes) : Nat := Bits.nat x 191 160
/-- COUNT1. -/
def spbCount1 (x : Lanes) : Nat := Bits.nat x 223 192
/-- TSTEP. -/
def spbTstep (x : Lanes) : Nat := Bits.nat x 247 240
/-- FMT. -/
def spbFmt (x : Lanes) : Nat := Bits.nat x 253 251
/-- Elements of the stream. -/
def spbElems (x : Lanes) : Nat := spbCount0 x * spbCount1 x

/-- The number of STREAM for a block that is refused: `dmode`, `wr` and `word` are what the instruction needs, where it
needs it, and `tstep` the channel's (R131, R390). -/
def spbBad (x : Lanes) (dmode wr : Bool) (word : Bool) (tstep : Nat) : Option Nat :=
  let dm := x.getLsbD 255
  if Bits.nat x 511 368 ≠ 0 || Bits.nat x 335 292 ≠ 0 || Bits.nat x 239 224 ≠ 0 || Bits.nat x 63 57 ≠ 0 then some 1
  else if spbCount0 x = 0 || spbCount1 x = 0 then some 2
  else if spbEsz x = 7 then some 3
  else if dm && spbEsz x ≠ 2 then some 4
  else if dm && (Bits.nat x 367 352 = 0 || Bits.nat x 351 336 = 0) then some 5
  else if dm && dmode && spbTstep x ≠ tstep then some 6
  else if dm != dmode || x.getLsbD 254 != wr || (word && spbEsz x ≠ 2) then some 7
  else none

/-- STREAM: TVAL is lane 0 of the block (R390). -/
def streamTrap (x : Lanes) (k : Nat) : Trap := mkTrap 0x1E k (Bits.nat x 31 0)

/-- Address of element j (R130). -/
def spbAddr (x : Lanes) (j : Nat) : Nat :=
  let c0 := max 1 (spbCount0 x)
  let a : Int := spbBase x + ((j % c0 : Nat) : Int) * (x.extractLsb' 128 32).toInt + ((j / c0 : Nat) : Int) * (x.extractLsb' 64 64).toInt
  (a % (2 ^ 57 : Int)).toNat

/-- Element of a stream time in demand mode; none where no element maps to it (R130). -/
def spbElem (x : Lanes) (t : Nat) : Option Nat :=
  let org := Bits.nat x 291 256
  let num := (t - org) * Bits.nat x 367 352
  let dd := max 1 (Bits.nat x 351 336)
  if t < org || num % dd ≠ 0 then none else some (num / dd)

/-! ## Gathered and scattered words -/

/-- The first element address that is not aligned to the element size (R130, R391). -/
def elemCheck (x : Lanes) (js : List Nat) : Option Trap :=
  match js.find? (fun j => spbAddr x j % 2 ^ spbEsz x ≠ 0) with
  | some j => some (mkTrap 0x1B (spbEsz x) (spbAddr x j))
  | none => none

/-- The first address of a list whose translation faults. -/
def firstXlate (s : State) (part kind : Nat) (vas : List Nat) : Option (Nat × Nat) :=
  vas.findSome? (fun va => match xlate s part va kind with | .error k => some (k, va) | .ok _ => none)

/-- Whether the elements of a block have addresses to check: not without an element size, a demand map or the mode that the
instruction takes (R130, R131, R391). -/
def spbHasAddrs (x : Lanes) (dmode : Bool) : Bool :=
  spbEsz x != 7 && x.getLsbD 255 == dmode && (!dmode || (Bits.nat x 367 352 != 0 && Bits.nat x 351 336 != 0))

/-- The stream checks of an instruction in the order of R391: the addresses of its elements, then the block itself. -/
def streamCheck (x : Lanes) (bad : Option Nat) (dmode : Bool) (js : List Nat) : Option Trap :=
  match (if spbHasAddrs x dmode then elemCheck x (js.filter (fun j => j < spbElems x)) else none) with
  | some t => some t
  | none => bad.map (streamTrap x)

/-- Stores words of a stream, all of whose addresses have translated; `bad` is the fault of a lane past the end (R406). -/
def streamPut (s : State) (r : Nat) (ws : List (Nat × List Byte)) (bad : Option Trap) : Acc × Option Trap :=
  match firstXlate s (partOf s r) 1 (ws.map (·.1)) with
  | some (k, va) => (.busy (engineStop s s.agent k va), none)
  | none => match storeMany (fun s w => gWrite s r w.1 false w.2) ws s bad with
    | (.busy _, _) => (.busy (askSnap s r), none)
    | y => y

/-- Stores the lanes of a stream write once every address has translated: behind a translation fault an element's context is
held, and a helm core's engine holds the request, and the core goes on (R262, R277, R278, R377). A lane past the end is
withheld and faults (R406). -/
def streamStore (s : State) (word : W32) (x : Lanes) (items : List (Nat × W32)) : Effect :=
  let inside := items.filter (fun i => i.1 < spbElems x)
  let bad := (items.find? (fun i => spbElems x ≤ i.1)).map (fun i => mkTrap 0x60 9 (spbAddr x i.1))
  let ws := inside.map (fun i => (spbAddr x i.1, Bits.bytesOf 4 i.2.toNat))
  let dval : W64 := match bad with | some t => t.tval | none => 0
  let held := fun (s : State) => queueReq s word 0 dval (if bad.isSome then 1 else 0) 99
    (ws.map (fun w => (0, w.1))) (ws.flatMap (·.2))
  if engineHolds s then held s
  else match streamPut s (hereR s) ws bad with
    | (.busy s, _) => held s
    | y => storeAnswer s y

/-- A held stream write of a helm core is tried again. -/
def retryStream (s : State) (r : Nat) (o : Outstanding) : State × Bool :=
  let ws := (o.words.zip (List.range o.words.length)).map (fun x => (x.1.2, (o.data.drop (4 * x.2)).take 4))
  let s' := if (firstXlate s (partOf s r) 1 (ws.map (·.1))).isNone then engineGo s s.agent else s
  storeRetried s' r o (streamPut s' r ws (if o.bval = 1 then some (mkTrap 0x60 9 o.dval.toNat) else none))

/-- SWR: lane k at time t goes to element j(t); a lane with no element is skipped (R277). -/
def execSwr (t : BitVec 6) (a b : BitVec 5) (s : State) : Host.Outcome State Fault Refusal :=
  issue (.swr t a b) s (fun s =>
    let n := here s
    let x := srcLanes n b.toNat
    let step := srcStep n a.toNat
    let items := match headOf n a.toNat with
      | none => []
      | some h => ((List.range 16).filter (maskBit (hMask h.hdr))).filterMap (fun k =>
          (spbElem x (hT h.hdr + k * step)).map (fun j => (j, h.pay.get k)))
    match streamCheck x (spbBad x true true true step) true (items.map (·.1)) with
    | some y => .trap y
    | none => streamStore s (wordOf (.swr t a b)) x items)

/-- SSCAT: the value of each valid pair to the element its index names, in pair order (R278). -/
def execSscat (t : BitVec 6) (a b : BitVec 5) (s : State) : Host.Outcome State Fault Refusal :=
  issue (.sscat t a b) s (fun s =>
    let n := here s
    let x := srcLanes n b.toNat
    let v := srcLanes n a.toNat
    let items := ((List.range 8).filter (maskBit (srcMask n a.toNat))).map (fun k => ((v.get k).toNat, v.get (k + 8)))
    match streamCheck x (spbBad x false (x.getLsbD 254) true 0) false (items.map (·.1)) with
    | some y => .trap y
    | none => streamStore s (wordOf (.sscat t a b)) x items)

/-- The token SGATH fires: T, CTX and END of the index source, FMT of the block (R216, R278). -/
def gatherTok (n : Node) (a fmt : Nat) (m : BitVec 16) (got : List (Nat × W32)) : Token :=
  let word := fun k => ((got.find? (fun g => g.1 == k)).map (·.2)).getD 0
  let h := match headOf n a with
    | some t => mkHdr 0 fmt (hEnd t.hdr) (hCtx t.hdr) m (hT t.hdr)
    | none => mkHdr 0 fmt 0 0 m 0
  { hdr := h, pay := Lanes.ofFn word }

/-- What a gather does with its words: they are written to a vector D, or fired on a port (R278). -/
def gatherDone (d a fmt : Nat) (m : BitVec 16) (s : State) (got : List (Nat × W32)) : Effect :=
  if classOf d = 8 then
    match commitFire (here s) (fireTok (here s).regs (d - 24) (gatherTok (here s) a fmt m got) true) with
    | .ok n => .done (emitDone (setHere s n))
    | .error y => .trap y
  else .done (loadDone s d got)

/-- A gather's lane past the end of its block is withheld: an element's firing faults; a helm core takes the fault at the first
use of a register D, and for a port at its next boundary (R405, R406). `s` is the state after the other lanes have been seen
to. -/
def gatherPast (s : State) (word : W32) (d va : Nat) (e : Effect) : Effect :=
  let t := mkTrap 0x60 9 va
  if !isHelm s then .trap t
  else match e with
    | .done s => if classOf d = 8 then .done (memFault s s.agent t) else loadFault s word va t
    | x => x

/-- SGATH: element a_k into lane k, for each lane in L (R278). -/
def execSgath (t : BitVec 6) (d a b : BitVec 5) (s : State) : Host.Outcome State Fault Refusal :=
  issue (.sgath t d a b) s (fun s =>
    let n := here s
    let r := hereR s
    let w := wordOf (.sgath t d a b)
    let x := srcLanes n b.toNat
    let m := srcMask n a.toNat
    let idx := ((List.range 16).filter (maskBit m)).map (fun k => (k, ((srcLanes n a.toNat).get k).toNat))
    let past := idx.find? (fun i => spbElems x ≤ i.2)
    let ins := (idx.filter (fun i => i.2 < spbElems x)).map (fun i => (i.1, spbAddr x i.2))
    let m := m &&& maskOf (fun k => ins.any (fun i => i.1 == k))
    let fin := gatherDone d.toNat a.toNat (spbFmt x) m
    match streamCheck x (spbBad x false (x.getLsbD 254) true 0) false (idx.map (·.2)) with
    | some y => .trap y
    | none => retry s w (fun _ =>
      let hdr := (gatherTok n a.toNat (spbFmt x) m []).hdr
      let held := fun (s : State) => queueReq s w 0 0 hdr d.toNat ins []
      let go : Effect :=
        if engineHolds s then held s
        else match globalWords s (partOf s r) ins with
          | .error (k, va) => held (engineStop s s.agent k va)
          | .ok ws =>
            let s := engineGo s s.agent
            match ws.find? (fun i => !populated i.2.2.1), ws.find? (fun i => readPoison s (viewOf s r false) i.2.2.1) with
            | some i, _ => .absent i.2.2.1
            | none, some i => loadFault s w i.2.1 (mkTrap 0x66 0 i.2.1)
            | none, none => readWords s (readArm s.agent w 3 0 0 hdr) (ws.map (fun i => (i.1, i.2.2.1)))
                (fun pa => ws.any (fun i => i.2.2.1 == pa && leafFE i.2.2.2)) 0 d.toNat ins
                (fun s => ws.foldl (fun s i => touch s (partOf s r) i.2.1 i.2.2.1 i.2.2.2) s) fin held
      if outFull s then .wait .load s
      else match past with
        | some i => gatherPast s w d.toNat (spbAddr x i.2) go
        | none => go)
      (fun y => fin (delArm s y) y.got))

/-! ## Sources (R65, R277) -/

/-- The engine of a bound port, named after the slot whose SRD binds it. -/
def portAgent (s : State) (a : At) : Agent :=
  let k := (List.range 32).find? (fun k =>
    let w := slotWord (getN s a.r a.e a.c) k
    fieldO w == 0xA4 && (fieldD w).toNat == 24 + a.n)
  .elem a.r a.e a.c (32 + (if a.e = 256 then a.n else k.getD 0))

/-- A fault of a source's reads, for its node (R405). -/
def sourceFault (s : State) (a : At) (t : Trap) : State :=
  if a.e = 256 then memFault s (.helm a.r) t else elemFault s (portAgent s a) t

/-- The binding of a port ends, and its engine goes on with the cuts' markers (R363): the completion token that SRD still owes is put into its reserved place (R99, R169,
R262, R277). -/
def endBinding (n : Node) (k : Nat) : Node :=
  let p := nodePort n k
  let n := setPort n k { p with spb := none, debt := none, ended := true, count := 0 }
  match p.debt with
  | some node => pushDone { n with owed := n.owed - 1 } node
  | none => n

/-- SRD: binds the port; a second one is STREAM 8 (R277). -/
def execSrd (t : BitVec 6) (d a : BitVec 5) (s : State) : Host.Outcome State Fault Refusal :=
  issue (.srd t d a) s (fun s =>
    let n := here s
    let k := d.toNat - 24
    let p := nodePort n k
    let x := srcLanes n a.toNat
    match spbBad x true false true p.tstep with
    | some j => .trap (streamTrap x j)
    | none =>
      if p.spb.isSome then .trap (streamTrap x 8)
      else
        let owes := !isHelm s && (List.range 4).any (fun j => (nodePort n j).role == 1)
        let n := setPort n k { p with spb := some x, ended := false, own := p.own + p.count, count := 0, debt := if owes then some (nodeHere s) else none }
        .done (setHere s { n with owed := if owes then n.owed + 1 else n.owed }))

/-- The closing end of SCLS: T is the lowest discarded pending time, or the time above the last valid lane sent; its CTX
is that entry's, and with none pending a value the manual does not state (R277; log 16). -/
def closeTok (p : Port) (fresh : Nat) : Token :=
  let low := (ivSort p.pending).head?
  let fmt := match p.spb with | some x => spbFmt x | none => 0
  match low with
  | some v => { hdr := mkHdr 0 fmt 7 v.ctx 0 v.lo, pay := 0 }
  | none => { hdr := mkHdr 0 fmt 7 (Config.closeCtx fresh).toNat 0 p.top, pay := 0 }

/-- SCLS (R277): nothing on an unbound port. -/
def execScls (t : BitVec 6) (d : BitVec 5) (s : State) : Host.Outcome State Fault Refusal :=
  issue (.scls t d) s (fun s =>
    let n := here s
    let k := d.toNat - 24
    let p := nodePort n k
    if p.spb.isNone then .done (emitDone s)
    else
      let f := freshen s
      let x := closeTok p f.1
      match firePort { p with pending := [] } { port := k, tok := x, filt := true, dests := none, pos := none } with
      | .error y => .trap y
      | .ok p => .done (emitDone (setHere f.2 (endBinding (setPort n k p) k))))

/-- Distance of the stream times that map to an element: (t - TORG) x DM is a multiple of DD (R130). -/
def spbGap (x : Lanes) : Nat := let dd := max 1 (Bits.nat x 351 336); dd / Nat.gcd (max 1 (Bits.nat x 367 352)) dd

/-- The last stream time that maps to an element up to `j` (R130). -/
def spbLastOf (x : Lanes) (j : Nat) : Nat :=
  let g := spbGap x
  Bits.nat x 291 256 + j * max 1 (Bits.nat x 351 336) / max 1 (Bits.nat x 367 352) / g * g

/-- The last stream time that maps to an element. -/
def spbLast (x : Lanes) : Nat := spbLastOf x (spbElems x - 1)

/-- The rank that ends at a demanded lane, of time `t` and element `j` (R40, R65; log 39): 7 at the stream's last lane, or where
the demand goes on past the stream's last time; 1 at the last lane of a row of the inner dimension, or where what the entry
demands next lies in a later row. -/
def laneEnd (x : Lanes) (v : Ival) (t j : Nat) : Nat :=
  let grid := Nat.lcm (max 1 (spbTstep x)) (spbGap x)
  let next := t + Nat.lcm (max 1 v.step) grid
  let last := spbLast x
  let row := j / max 1 (spbCount0 x)
  let rowLast := spbLastOf x ((row + 1) * max 1 (spbCount0 x) - 1)
  if last < t + grid || (last + 1 < v.hi && last < next) then 7
  else if next < v.hi then (if rowLast < next then 1 else 0)
  else if rowLast < t + grid then 1 else 0

/-- The lanes a source's next token carries from one pending entry: lane, time and element; then END, and the time up to
which the entry has been served. Times that are not a multiple of TSTEP, or that map to no element, have no lane; a token
ends where a group does, and a demand that reaches past the stream's last time ends with rank 7, its rest counting as served
(R40, R65). -/
def sourceLanes (x : Lanes) (v : Ival) : List (Nat × Nat × Nat) × Nat × Nat :=
  let ts := max 1 (spbTstep x)
  let base := v.lo / (16 * ts) * (16 * ts)
  let top := base + 16 * ts - 1
  let last := spbLast x
  let times := ((List.range 16).map (fun k => (k, base + k * ts))).filter (fun kt => ivHas v v.ctx kt.2 && kt.2 ≤ last)
  let go := fun (acc : List (Nat × Nat × Nat) × Nat × Nat) (kt : Nat × Nat) =>
    let (ls, en, upto) := acc
    if en ≠ 0 then acc
    else match spbElem x kt.2 with
      | none => acc
      | some j =>
        let e := laneEnd x v kt.2 j
        (ls ++ [(kt.1, kt.2, j)], e, if e = 7 then streamEnd else if e = 0 then upto else kt.2)
  if last < v.lo then ([], 7, streamEnd)
  else
    let r := times.foldl go ([], 0, top)
    if r.2.1 = 0 && last ≤ top && last + 1 < v.hi then (r.1, 7, streamEnd) else r

/-- T of the token that serves a time: a multiple of 16 × TSTEP; that of an end past the stream's last time is the first
such at or above the demand (R65; log 89). -/
def sourceT (x : Lanes) (lo : Nat) : Nat :=
  let w := 16 * max 1 (spbTstep x)
  if spbLast x < lo then (lo + w - 1) / w * w else lo / w * w

/-- The cut that an element or a helm core has saved at. -/
def savedAt (s : State) (r e : Nat) : Option Nat := if e = 256 then (getH s r).saved else (getE s r e).saved

/-- What an engine reads meets empty words: they are deferred at their base dies as far as these have places (R138). -/
def engineDefer (s : State) (who : Agent) (ws : List (Nat × Nat)) : State :=
  let s := { s with arms := s.arms.filter (fun a => a.who != who) }
  let a := readArm who 0xFFFFFFFF 3 0 0 0
  let x := placeWords s a ws
  if x.1.isEmpty then s else { s with arms := s.arms ++ [{ a with need := x.1, more := x.2 }] }

/-- The reads of an engine are deferred no more. -/
def engineReads (s : State) (who : Agent) : State := { s with arms := s.arms.filter (fun a => a.who != who) }

/-- The reads of a bound port's next token have begun: they stand at their base dies, or its engine has stopped at one of them
(R358, R377). -/
def readBegun (s : State) (a : At) : Bool :=
  let who := portAgent s a
  s.arms.any (fun x => x.who == who) || (match launchOf s a.r with | some (_, y) => y.engines.any (fun k => k.1 == who) | none => false)

/-- STREAM_READ_COMPLETE: the reads of a bound port's next token complete, and the token is emitted (R65, R130, R277). A
translation fault stops the engine (R377); empty words of an FE page hold it (R138). Once a cut's marker has been posted
only a token whose reads have begun is still read before it is injected (R358). -/
def execStreamReadComplete (at_ : At) (s : State) : Host.Outcome State Fault Refusal :=
  let n := getN s at_.r at_.e at_.c
  let p := nodePort n at_.n
  let part := partOf s at_.r
  let l := viewOf s at_.r false
  match p.spb, p.pending with
  | some x, v :: vs =>
    if !portFree p || !graphRuns s at_.r || p.cutHold || (p.post.isSome && !readBegun s at_) || (getR s at_.r).hung || (getR s at_.r).frozen || ebbSaved s at_.r (savedAt s at_.r at_.e)
    then .next s
    else
      let (ls, en, upto) := sourceLanes x v
      let vas := ls.map (fun q => (q.1, spbAddr x q.2.2))
      match elemCheck x (ls.map (·.2.2)), firstXlate s part 0 (vas.map (·.2)) with
      | some t, _ => .next (sourceFault s at_ t)
      | none, some (k, va) => .next (engineStop s (portAgent s at_) k va)
      | none, none =>
        let at' := vas.filterMap (fun q => match xlate s part q.2 0 with | .ok (pa, e) => some (q.1, q.2, pa, e) | .error _ => none)
        match at'.find? (fun i => !populated i.2.2.1), at'.find? (fun i => readPoison s l i.2.2.1) with
        | some i, _ => .fault (.absentMemory i.2.2.1)
        | none, some i => .next (sourceFault s at_ (mkTrap 0x66 0 i.2.1))
        | none, none =>
          let empty := (at'.filter (fun i => leafFE i.2.2.2 && !viewFull s l i.2.2.1)).map (fun i => (i.1, i.2.2.1))
          if !empty.isEmpty then .next (engineDefer (engineGo s (portAgent s at_)) (portAgent s at_) empty)
          else
            let s := engineReads (engineGo s (portAgent s at_)) (portAgent s at_)
            let s := at'.foldl (fun s i => touch s part i.2.1 i.2.2.1 i.2.2.2) s
            let m := maskOf (fun k => ls.any (fun q => q.1 == k))
            let got := at'.map (fun i => (i.1, BitVec.ofNat 32 (viewNat s l i.2.2.1 4)))
            let tok : Token := { hdr := mkHdr 0 (spbFmt x) en v.ctx m (sourceT x v.lo),
                                 pay := Lanes.ofFn (fun k => ((got.find? (fun g => g.1 == k)).map (·.2)).getD 0) }
            let rest := { v with lo := if upto = streamEnd then v.hi else ivFrom v (upto + 1) }
            let p := { p with pending := if ivEmpty rest then vs else rest :: vs }
            let n := setPort (getN s at_.r at_.e at_.c) at_.n p
            if dropped tok then .next (setN s at_.r at_.e at_.c n)
            else match firePort p { port := at_.n, tok := tok, filt := true, dests := none, pos := none } with
              | .error t => .next (sourceFault s at_ t)
              | .ok p =>
                let n := setPort n at_.n p
                let last := en == 7 && !p.queue.any (fun o => hEnd o.tok.hdr == 7)
                .next (setN s at_.r at_.e at_.c (if last then endBinding n at_.n else n))
  | _, _ => .next s

end Sys2Proof.Machine
end

