-- ==== Sys2Proof/Machine/CopyOps.lean ====
section
/-!
DEFINITION. Checkpoints of a SEED node (R61, R274), barriers (R144, R145, R285) and the copies that complete against
them (R175, R176, R283, R284). A copy reads and writes when it completes (log 15).
-/

namespace Sys2Proof.Machine

/-! ## Checkpoints (R274) -/

/-- The lowest CTX tag bound in a context. -/
def lowestCtx (n : Node) : Nat :=
  let all := (List.range 4).foldl (fun (m : BitVec 16) k => m ||| (nodePair n k).ctxset) 0
  ((List.range 16).find? (fun c => all.getLsbD c)).getD 0

/-- The CTX a checkpoint instruction concerns. -/
def chkCtx (n : Node) (a : Nat) : Nat :=
  match headOf n a with
  | some t => hCtx t.hdr
  | none => lowestCtx n

/-- Address of entry k of a CTX tag's checkpoints. -/
def chkAddr (e : ClassEnt) (ctx k : Nat) : Nat := e.area + 10240 * ctx + 640 * k

/-- The 640 bytes of a checkpoint: v0 to v7, s0 to s7, p, the time c, zeros. -/
def chkBytes (x : Regs) (c : Nat) : List Byte :=
  ((List.range 8).flatMap (fun k => Bits.bytesOf 64 (getV x k).toNat)) ++
    ((List.range 8).flatMap (fun k => Bits.bytesOf 8 (getS x k).toNat)) ++ Bits.bytesOf 8 x.p.toNat ++ Bits.bytesOf 56 c

/-- The registers that a checkpoint holds; hs.fp is no part of it. -/
def chkRegs (m : Mem) (ad : Nat) (x : Regs) : Regs :=
  let v := (List.range 8).foldl (fun x k => setV x k (BitVec.ofNat 512 (memNat m (ad + 64 * k) 64))) x
  let y := (List.range 8).foldl (fun x k => setS x k (BitVec.ofNat 64 (memNat m (ad + 512 + 8 * k) 8))) v
  { y with p := memRead m (ad + 576) }

/-- OUTBUF of a checkpoint that leaves the A-buffer (R390). -/
def chkCheck (ad : Nat) : Option Trap := if bufSize 1 < ad + 640 then some (mkTrap 0x1C 1 ad) else none

/-- CHKP (R274): the oldest of entries 1 to 15 takes the registers at W. A context with no SEED class has no ring, and
nothing is written (log 17). -/
def execChkp (t : BitVec 6) (a : BitVec 5) (s : State) : Host.Outcome State Fault Refusal :=
  issue (.chkp t a) s (fun s =>
    let n := here s
    let ctx := chkCtx n a.toNat
    let e := classEnt n ctx
    let k := e.ring % 15 + 1
    let ad := chkAddr e ctx k
    if e.cls ≠ 3 || e.w = 0 then .done (emitDone s)
    else match chkCheck ad with
      | some x => .trap x
      | none =>
        if e.w % max e.param 1 ≠ 0 then .trap (mkTrap 0x26 0 e.w)
        else match wakeHold s (hereR s) ((List.range 10).map (fun j => (1, ad + 64 * j))) with
        | some s => .wait .unit s
        | none =>
          let bs := chkBytes n.regs e.w
          let items := (List.range 10).map (fun j => (ad + 64 * j, (bs.drop (64 * j)).take 64))
          let s' := setHere s { n with classes := aSet n.classes ctx { e with ring := k % 15 } }
          storeAnswer s' (storeMany (fun s w => bufStore s (hereR s) 1 w.1 w.2 false) items s' none))

/-- CHKL (R274): the entry whose time is lane 1 of the RELOAD token gives the registers, and W. -/
def execChkl (t : BitVec 6) (a : BitVec 5) (s : State) : Host.Outcome State Fault Refusal :=
  issue (.chkl t a) s (fun s =>
    let n := here s
    match headOf n a.toNat with
    | none => .done (emitDone s)
    | some h =>
      let ctx := hCtx h.hdr
      let e := classEnt n ctx
      let c := (h.pay.get 1).toNat
      let r := hereR s
      let m := (getBuf (getR s r) 1).mem
      let noSeed : Effect := .trap { cause := 0x42, arg := ctx, tval := BitVec.ofNat 64 c, hdr := h.hdr }
      if hKind h.hdr ≠ 1 || h.pay.get 0 ≠ 1 || e.cls ≠ 3 then noSeed
      else match checkpointAt m (e.area + 10240 * ctx) c with
        | none => noSeed
        | some k =>
          let ad := chkAddr e ctx k
          match chkCheck ad with
          | some x => .trap x
          | none => match bufReadTest s r 1 (numbered ad 640) with
            | some (.busy s) => .wait .unit s
            | some (.bad x) => .trap x
            | some (.absent pa) => .absent pa
            | some (.ok _) | none =>
              .done (emitDone (setHere s { n with regs := chkRegs m ad n.regs, classes := aSet n.classes ctx { e with w := c } })))

/-! ## Barriers (R144, R145) -/

/-- ARRIVE of a barrier object. -/
def barArrive (x : Nat) : Nat := x % 2 ^ 32
/-- EXPECT. -/
def barExpect (x : Nat) : Nat := x / 2 ^ 32 % 2 ^ 32
/-- PHASE. -/
def barPhase (x : Nat) : Bool := x.testBit 71
/-- PEND. -/
def barPend (x : Nat) : Nat := x / 2 ^ 72 % 2 ^ 56
/-- A barrier object from its fields; the reserved bits are zero. -/
def barMake (pend : Nat) (phase : Bool) (expect arrive : Nat) : Nat :=
  packFields [(72, 56, pend), (71, 1, if phase then 1 else 0), (32, 32, expect), (0, 32, arrive)]

/-- The flip test that follows every update (R145). -/
def barFlip (x : Nat) : Nat :=
  if barArrive x = barExpect x && barPend x = 0 then barMake 0 (!barPhase x) (barExpect x) 0 else x

/-- BARRIER (R390). -/
def barTrap (k off : Nat) : Trap := mkTrap 0x21 k off

/-- An issue adds a copy's bytes to PEND. -/
def barIssue (n off x : Nat) : Except Trap Nat :=
  if 2 ^ 56 - 1 < barPend x + n then .error (barTrap 2 off) else .ok (barMake (barPend x + n) (barPhase x) (barExpect x) (barArrive x))
/-- A completion subtracts them. -/
def barComplete (n off x : Nat) : Except Trap Nat :=
  if barPend x < n then .error (barTrap 1 off) else .ok (barMake (barPend x - n) (barPhase x) (barExpect x) (barArrive x))
/-- An arrival. -/
def barArrival (x : Nat) : Nat := barMake (barPend x) (barPhase x) (barExpect x) (barArrive x + 1)
/-- BARI. -/
def barInit (a off x : Nat) : Except Trap Nat :=
  if a = 0 || 2 ^ 32 ≤ a then .error (barTrap 3 off) else if barPend x ≠ 0 then .error (barTrap 4 off) else .ok (barMake 0 false a 0)
/-- BARX. -/
def barSetExpect (a off x : Nat) : Except Trap Nat :=
  if a = 0 || 2 ^ 32 ≤ a || a < barArrive x then .error (barTrap 5 off) else .ok (barMake (barPend x) (barPhase x) a (barArrive x))

/-- A barrier object. -/
def barObj (s : State) (r sp off : Nat) : Nat := memNat (getBuf (getR s r) sp).mem off 16

/-- The barrier offset that a register holds, modulo 2³² as every typed-buffer address (R261, R285). -/
def barOff (s : State) (c : Nat) : Nat := (srcVal (here s) c).toNat % 2 ^ 32

/-- One update of a barrier by the region's buffer logic, with the flip test; its write is journaled (R144, R145). -/
def barUpdate (s : State) (r sp off : Nat) (f : Nat → Except Trap Nat) : Acc :=
  match bufReadTest s r sp [(0, off)] with
  | some x => x
  | none => match f (barObj s r sp off) with
    | .error t => .bad t
    | .ok x => (bufStore s r sp off (Bits.bytesOf 16 (barFlip x)) false).1

/-- What the answer to an access that still holds the instruction makes of it (R405, R408). -/
def heldAnswer (s : State) (k : WaitKind) : Acc → Effect
  | .ok s => .done s
  | .busy s => .wait k s
  | .bad t => if isHelm s && (t.cause = 0x63 || t.cause = 0x64) then .hold (memFault s s.agent t) else .trap t
  | .absent pa => .absent pa

/-- What BARI, BARA or BARX makes of an object, by its opcode, `v` its operand (R285). -/
def barChange (o : Byte) (v : W64) (off : Nat) : Nat → Except Trap Nat :=
  if o = 0xB5 then barInit v.toNat off else if o = 0xB6 then fun x => .ok (barArrival x) else barSetExpect v.toNat off

/-- What the answer to a barrier's update makes of its instruction: a refusal is its own fault, and a helm core has moved on from
a failure of the buffer (R262, R389, R405). -/
def barAnswer (s : State) (x : Acc) : Effect :=
  match x with
  | .bad t => if t.cause = 0x21 then .trap t else storeAnswer s (.bad t, none)
  | y => heldAnswer s .unit y

/-- A barrier instruction that updates its object: where a bank holds the update, or an earlier one, the core goes on
(R123, R262). -/
def barOp (w : W32) (sp off : Nat) (v : W64) (s : State) : Effect :=
  match bufCheck sp off 16 with
  | some t => .trap t
  | none =>
    let held := fun (s : State) => queueJudged s w v 0 99 [(0, off)] []
    if bufHolds s then held s
    else match barUpdate s (hereR s) sp off (barChange (fieldO w) v off) with
      | .busy s => held s
      | x => barAnswer s x

/-- BARI (R285). -/
def execBari (t : BitVec 6) (d a : BitVec 5) (z : BitVec 2) (s : State) : Host.Outcome State Fault Refusal :=
  issue (.bari t d a z) s (fun s =>
    barOp (wordOf (.bari t d a z)) z.toNat (barOff s d.toNat) (srcVal (here s) a.toNat) s)

/-- BARA (R285). -/
def execBara (t : BitVec 6) (d : BitVec 5) (z : BitVec 2) (s : State) : Host.Outcome State Fault Refusal :=
  issue (.bara t d z) s (fun s =>
    barOp (wordOf (.bara t d z)) z.toNat (barOff s d.toNat) 0 s)

/-- BARX (R285). -/
def execBarx (t : BitVec 6) (d a : BitVec 5) (z : BitVec 2) (s : State) : Host.Outcome State Fault Refusal :=
  issue (.barx t d a z) s (fun s =>
    barOp (wordOf (.barx t d a z)) z.toNat (barOff s d.toNat) (srcVal (here s) a.toNat) s)

/-- BARW (R285): compares and arms in one step. One that finds no free place compares again only when a place has freed, and one
behind an access of the core's own that is still held waits for that (R174). -/
def execBarw (t : BitVec 6) (d a : BitVec 5) (z : BitVec 2) (s : State) : Host.Outcome State Fault Refusal :=
  issue (.barw t d a z) s (fun s =>
    let w := wordOf (.barw t d a z)
    let sp := z.toNat
    let r := hereR s
    let off := barOff s d.toNat
    let x := srcVal (here s) a.toNat
    let arm : Arm := { who := s.agent, kind := .barrier, space := sp, sys := false, addr := off, operand := x, word := w, dval := 0,
                       bval := 0, need := [], more := [], got := [], released := none }
    let start := fun (s : State) =>
      if bufHolds s then Effect.wait .barrier s
      else match bufReadTest s r sp [(0, off)] with
        | some (.busy s) => .wait .barrier s
        | some (.bad y) => .trap y
        | some (.absent pa) => .absent pa
        | some (.ok _) | none =>
          if barPhase (barObj s r sp off) != x.getLsbD 0 then .done (bankServed s r (bankOf sp off))
          else if placeFree s sp r off then
            let s := bankServed s r (bankOf sp off)
            .wait .barrier { s with arms := s.arms ++ [arm] }
          else .wait .barrier { s with arms := s.arms ++ [{ arm with more := [(0, off)] }] }
    match bufCheck sp off 16, myArm s w with
    | some y, _ => .trap y
    | none, some m =>
      if m.released.isSome then .done (delArm s m)
      else if m.more.isEmpty || !placeFree s sp r off then .wait .barrier s
      else start (delArm s m)
    | none, none => start s)

/-- What BART reads: 1 where a barrier's phase differs from bit 0 of `b` (R285). -/
def barTest (s : State) (r sp off : Nat) (b : W64) : W64 := if barPhase (barObj s r sp off) != b.getLsbD 0 then 1 else 0

/-- BART (R285). -/
def execBart (t : BitVec 6) (d a b : BitVec 5) (z : BitVec 2) (s : State) : Host.Outcome State Fault Refusal :=
  issue (.bart t d a b z) s (fun s =>
    let sp := z.toNat
    let n := here s
    let off := barOff s a.toNat
    match bufCheck sp off 16 with
    | some y => .trap y
    | none =>
      let w := wordOf (.bart t d a b z)
      let x := srcVal n b.toNat
      let held := fun (s : State) => queueReq s w off 0 x d.toNat [(0, off)] []
      if bufHolds s then held s
      else match bufReadTest s (hereR s) sp [(0, off)] with
        | some (.busy s) => held s
        | some y => loadAnswer s w off y
        | none =>
          let s := bankServed s (hereR s) (bankOf sp off)
          .done (setHere s { n with regs := setS n.regs (d.toNat - 8) (barTest s (hereR s) sp off x) }))

/-! ## Copies (R283) -/

/-- Space of a barrier locator: 1 A, 2 C. -/
def locSpace (x : W64) : Nat := if x.getLsbD 31 then 2 else 1
/-- Offset of a barrier locator. -/
def locOff (x : W64) : Nat := Bits.nat x 19 0
/-- Space of a CPYQ source locator. -/
def srcSpace (x : W64) : Nat := Bits.nat x 21 20
/-- Length of a CPYQ source locator. -/
def srcLen (x : W64) : Nat := Bits.nat x 52 32

/-- A byte range of a typed buffer: ALIGN, OUTBUF and JOURNAL (R391). -/
def rangeCheck (sp a n al : Nat) : Option Trap :=
  if a % al ≠ 0 then some (mkTrap 0x1B al.log2 a)
  else if sp = 3 then none
  else if bufSize sp < a + n then some (mkTrap 0x1C sp a)
  else if inJournal sp a n then some (mkTrap 0x1D 0 a)
  else none

/-- The first element of a block that a typed buffer does not hold whole, or that is not aligned. -/
def blockRange (x : Lanes) (sp : Nat) : Option Trap :=
  firstFault ((List.range (spbElems x)).map (fun j => rangeCheck sp (spbAddr x j) (2 ^ spbEsz x) (2 ^ spbEsz x)))

/-- Bytes that CPY or CPYS moves. -/
def copyBytes (x : Lanes) : Nat := spbElems x * 2 ^ spbEsz x

/-- D's value as a destination (R283). -/
def copyDest (sp : Nat) (x : W64) : Nat := x.toNat % (if sp = 3 then 2 ^ 57 else 2 ^ 32)

/-- The source range of a CPYQ: space, offset and length. -/
def cpyqSource (k : Copy) : Nat × Nat × Nat := let x : W64 := k.a.setWidth 64; (srcSpace x, locOff x, srcLen x)

/-- The words of a CPYQ's source that deferred reads of its core's still wait for (R87, R347; log 92). -/
def ownReads (s : State) (r : Nat) (k : Copy) : List Nat :=
  let (sp, a, n) := cpyqSource k
  if k.op ≠ 0xB1 then []
  else (s.arms.filter (fun m => m.who == .helm r && m.kind == .read && m.space == sp)).flatMap (fun m =>
    ((m.need ++ m.more).map (·.2)).filter (fun w => a ≤ w && w < a + n))

/-- The buffer logic counts a copy's bytes into PEND, and the copy is in flight (R145, R283). -/
def copyEnter (s : State) (r : Nat) (k : Copy) : Acc :=
  match barUpdate s r (locSpace k.bar) (locOff k.bar) (barIssue k.bytes (locOff k.bar)) with
  | .ok s => .ok (setH s r { countH (getH s r) 3 with copies := (getH s r).copies ++ [{ k with waits := ownReads s r k }] })
  | x => x

/-- A request is a copy that has still to be counted. -/
def copyHeld (o : Outstanding) : Bool := o.queued && 0xAF ≤ (fieldO o.word).toNat && (fieldO o.word).toNat ≤ 0xB1

/-- A copy is issued. Where the bank of its barrier holds its count, or an earlier access of the core's, the core goes on
(R145, R262, R283). -/
def copyIssue (s : State) (w : W32) (k : Copy) : Effect :=
  match s.agent with
  | .elem .. => .done s
  | .helm r =>
    let held := fun (s : State) => queueJudged s w k.dval k.bar 99 [] (Bits.bytesOf 64 k.a.toNat ++ Bits.bytesOf 64 k.d.toNat)
    if 2048 ≤ (getH s r).copies.length + ((getH s r).outstanding.filter copyHeld).length then .wait .copies s
    else if bufHolds s then held s
    else match copyEnter s r k with
      | .busy s => held s
      | x => barAnswer s x

/-- The checks of a copy in the order of R391, then its issue: `addrs` its address checks, `own` its own. -/
def copyStart (s : State) (w : W32) (k : Copy) (addrs : List (Option Trap)) (own : Option Trap) : Effect :=
  match firstFault (addrs ++ [bufCheck (locSpace k.bar) (locOff k.bar) 16]), own with
  | some t, _ => .trap t
  | none, some t => .trap t
  | none, none => copyIssue s w k

/-- A copy with the operands of its instruction. -/
def copyOf (w : W32) (a d : Lanes) (dval bar : W64) : Copy :=
  { a := a, d := d, dval := dval, bar := bar, op := fieldO w, sz := fieldY w,
    bytes := if fieldO w = 0xB1 then srcLen (a.setWidth 64) else copyBytes a, waits := [], done := false }

/-- A held barrier instruction or copy of a helm core is tried again. One that the buffer logic refuses is the fault of its own
instruction, whose address hs.epc names (R389). -/
def retryBar (s : State) (r : Nat) (o : Outstanding) : State × Bool :=
  let sp := (fieldY o.word).toNat / 2
  let off := (o.words.map (·.2)).headD 0
  let answer := fun (x : Acc) => match x with
    | .ok s => (dropReq s r o, true)
    | .bad t => if t.cause = 0x21 then (syncTrap (dropReq s r o) r 1 t o.addr, false) else (memFault (dropReq s r o) s.agent t, true)
    | .busy s => (s, false)
    | .absent _ => (s, false)
  match (fieldO o.word).toNat with
  | 0xAF | 0xB0 | 0xB1 =>
    answer (copyEnter s r (copyOf o.word (BitVec.ofNat 512 (Bits.ofBytes (o.data.take 64))) (BitVec.ofNat 512 (Bits.ofBytes (o.data.drop 64))) o.dval o.bval))
  | 0xB9 => match bufReadTest s r sp [(0, off)] with
    | some (.bad t) => (setReq s r o { o with queued := false, failed := some t }, true)
    | some (.busy s) => (s, false)
    | some _ => (s, false)
    | none =>
      let s := bankServed s r (bankOf sp off)
      let v := barTest s r sp off o.bval
      (helmAnswer s r o.word [(0, v.setWidth 32), (1, 0)], true)
  | _ => answer (barUpdate s r sp off (barChange (fieldO o.word) o.dval off))

/-- CPY (R283). -/
def execCpy (t : BitVec 6) (d a b : BitVec 5) (z : BitVec 2) (s : State) : Host.Outcome State Fault Refusal :=
  issue (.cpy t d a b z) s (fun s =>
    let n := here s
    let w := wordOf (.cpy t d a b z)
    let x := srcLanes n a.toNat
    let k := copyOf w x 0 (srcVal n d.toNat) (srcVal n b.toNat)
    let src := if spbHasAddrs x false then blockRange x 3 else none
    let dst := if spbEsz x ≠ 7 then rangeCheck z.toNat (copyDest z.toNat k.dval) k.bytes (2 ^ spbEsz x) else none
    copyStart s w k [src, dst] ((spbBad x false false false 0).map (streamTrap x)))

/-- CPYS (R283): equal element counts and ESZ, or STREAM 7 of the destination block. -/
def execCpys (t : BitVec 6) (d a b : BitVec 5) (z : BitVec 2) (s : State) : Host.Outcome State Fault Refusal :=
  issue (.cpys t d a b z) s (fun s =>
    let n := here s
    let w := wordOf (.cpys t d a b z)
    let x := srcLanes n a.toNat
    let y := srcLanes n d.toNat
    let src := if spbHasAddrs x false then blockRange x 3 else none
    let dst := if spbHasAddrs y false then blockRange y z.toNat else none
    let own := match spbBad x false false false 0, spbBad y false true false 0 with
      | some j, _ => some (streamTrap x j)
      | none, some j => some (streamTrap y j)
      | none, none => if spbElems x ≠ spbElems y || spbEsz x ≠ spbEsz y then some (streamTrap y 7) else none
    copyStart s w (copyOf w x y 0 (srcVal n b.toNat)) [src, dst] own)

/-- COPY (R390): space 3, a length out of bounds, an overlap. -/
def cpyqBad (x : W64) (sp dst : Nat) : Option Trap :=
  let n := srcLen x
  if srcSpace x = 3 then some (mkTrap 0x22 3 x.toNat)
  else if n % 64 ≠ 0 || n < 64 || 2 ^ 20 < n then some (mkTrap 0x22 2 x.toNat)
  else if srcSpace x = sp && locOff x < dst + n && dst < locOff x + n then some (mkTrap 0x22 1 x.toNat)
  else none

/-- CPYQ (R283). It has no ESZ: its accesses of a buffer are aligned as R119 has any, and a global destination needs no
alignment (log 18). -/
def execCpyq (t : BitVec 6) (d a b : BitVec 5) (z : BitVec 2) (s : State) : Host.Outcome State Fault Refusal :=
  issue (.cpyq t d a b z) s (fun s =>
    let n := here s
    let x := srcVal n a.toNat
    let dst := copyDest z.toNat (srcVal n d.toNat)
    let w := wordOf (.cpyq t d a b z)
    copyStart s w (copyOf w (x.setWidth 512) 0 (srcVal n d.toNat) (srcVal n b.toNat))
      [if srcSpace x = 3 then none else rangeCheck (srcSpace x) (locOff x) (srcLen x) 4,
       rangeCheck z.toNat dst (srcLen x) (if z = 3 then 1 else 4)] (cpyqBad x z.toNat dst))

/-! ## A copy completes (R175) -/

/-- Cuts bytes at line bounds. -/
def splitLines (a : Nat) (bs : List Byte) : List (Nat × List Byte) :=
  let lines := (a + bs.length + 63) / 64 - a / 64
  (List.range lines).map (fun k =>
    let lo := max a (64 * (a / 64 + k))
    (lo, (bs.drop (lo - a)).take (min (a + bs.length) (64 * (a / 64 + k) + 64) - lo)))

/-- The global source of a copy: pieces inside lines by virtual address. -/
def copySrc (k : Copy) : List (Nat × Nat) :=
  (List.range (spbElems k.a)).map (fun j => (spbAddr k.a j, 2 ^ spbEsz k.a))

/-- The destination pieces of a copy's bytes, inside lines. -/
def copyPieces (k : Copy) (bs : List Byte) : List (Nat × List Byte) :=
  let n := 2 ^ spbEsz k.a
  if k.op = 0xB0 then
    (List.range (spbElems k.d)).flatMap (fun j => splitLines (spbAddr k.d j) ((bs.drop (n * j)).take n))
  else splitLines (copyDest (k.sz.toNat / 2) k.dval) bs

/-- The engine of a copy. -/
def copyAgent (r k : Nat) : Agent := .elem r 256 0 (64 + 32 * k)

/-- The rows of a byte range of a typed buffer, as many as it has banks at most: space and address. -/
def rowsOf (sp a n : Nat) : List (Nat × Nat) :=
  ((List.range ((a + n + 63) / 64 - a / 64)).take 16).map (fun k => (sp, max a (64 * (a / 64 + k))))

/-- The rows that a copy's accesses of the typed buffers reach: its source, its destination and its barrier. -/
def copyRows (k : Copy) : List (Nat × Nat) :=
  let sp := k.sz.toNat / 2
  let q := cpyqSource k
  (if k.op = 0xB1 then rowsOf q.1 q.2.1 q.2.2 else []) ++
    (if sp = 3 then [] else if k.op = 0xB0 then (List.range (spbElems k.d)).map (fun j => (sp, spbAddr k.d j)) else rowsOf sp (copyDest sp k.dval) k.bytes) ++
    [(locSpace k.bar, locOff k.bar)]

/-- The bytes of a copy's source; or a fault, the address whose translation stops it, or the empty words it waits for. -/
def copyRead (s : State) (r : Nat) (k : Copy) : Except (Trap ⊕ (Nat × Nat) ⊕ List (Nat × Nat)) (List Byte) :=
  if k.op = 0xB1 then
    let (sp, a, n) := cpyqSource k
    match bufReadTest s r sp (numbered a n) with
    | some (.bad t) => .error (.inl t)
    | some _ => .error (.inr (.inr []))
    | none => .ok (memReadN (getBuf (getR s r) sp).mem a n)
  else
    let part := partOf s r
    let l := viewOf s r false
    match firstXlate s part 0 ((copySrc k).map (·.1)) with
    | some y => .error (.inr (.inl y))
    | none =>
      let at_ := (copySrc k).filterMap (fun i => match xlate s part i.1 0 with | .ok (pa, e) => some (i.1, i.2, pa, e) | .error _ => none)
      match at_.find? (fun i => readPoison s l i.2.2.1) with
      | some i => .error (.inl (mkTrap 0x66 0 i.1))
      | none =>
        let empty := (at_.filter (fun i => leafFE i.2.2.2)).flatMap (fun i => (wordsOf i.2.2.1 i.2.1).filter (fun w => !viewFull s l w))
        if !empty.isEmpty then .error (.inr (.inr (empty.map (fun w => (0, w)))))
        else .ok (at_.flatMap (fun i => viewBytes s l i.2.2.1 i.2.1))

/-- The absent cell that a copy's global source names, if any. -/
def copyAbsent (s : State) (r : Nat) (k : Copy) : Option Nat :=
  if k.op = 0xB1 then none
  else (copySrc k).findSome? (fun i => match xlate s (partOf s r) i.1 0 with
    | .ok (pa, _) => if populated pa then none else some pa
    | .error _ => none)

/-- The reads of a copy's global source reach their base dies, one access an element (R141; log 100). -/
def copyTouch (s : State) (r : Nat) (k : Copy) : State :=
  if k.op = 0xB1 then s
  else (copySrc k).foldl (fun s i => match xlate s (partOf s r) i.1 0 with
    | .ok (pa, e) => touch s (partOf s r) i.1 pa e
    | .error _ => s) s

/-- An agent that stands for a later copy once copy `k` has left: none for copy `k` itself. -/
def copyShift (r k : Nat) (a : Agent) : Option Agent :=
  match a with
  | .helm _ => some a
  | .elem q e c n =>
    if q = r && e = 256 && 64 ≤ n then
      (if n / 32 - 2 = k then none else if k < n / 32 - 2 then some (.elem q e c (n - 32)) else some a)
    else some a

/-- Copy `k` leaves the engines, and what stands for a later copy stands for its new place. -/
def copyGone (s : State) (r k : Nat) : State :=
  let s := setH s r { getH s r with copies := (getH s r).copies.eraseIdx k }
  let g := getR s r
  let s := setR s r { g with bankHeld := g.bankHeld.filterMap (fun x => (copyShift r k x.1).map (fun a => (a, x.2))),
                             bankBad := g.bankBad.filterMap (fun x => (copyShift r k x.1).map (fun a => (a, x.2))) }
  let s := { s with arms := s.arms.filterMap (fun m => (copyShift r k m.who).map (fun a => { m with who := a })) }
  match launchOf s r with
  | some (l, x) => setL s l { x with engines := x.engines.filterMap (fun y => (copyShift r k y.1).map (fun a => (a, y.2))) }
  | none => s

/-- A copy has left the engines without completing, and its fault is delivered (R405). -/
def copyFail (s : State) (r k : Nat) (t : Trap) : State := memFault (copyGone s r k) (.helm r) t

/-- The bytes of a global write that a full word of an FE page withholds (R138, R407). -/
def keptBytes (s : State) (r : Nat) (w : Nat × List Byte) : Nat :=
  match xlate s (partOf s r) w.1 1 with
  | .error _ => 0
  | .ok (pa, leaf) =>
    if !leafFE leaf then 0
    else ((wordsOf pa w.2.length).filter (viewFull s (viewOf s r false))).foldl (fun n x => n + (wordPart pa w.2 x).2.length) 0

/-- Writes the pieces of a copy in order, each applied or withheld by itself; with the bytes that have performed, which alone
leave PEND (R175). `kept` is how many of a piece's bytes its node withholds. -/
def copyPut (f : State → Nat × List Byte → Acc × Option Trap) (kept : State → Nat × List Byte → Nat) : List (Nat × List Byte) → State → Option Trap → Nat → (Acc × Option Trap) × Nat
  | [], s, bad, n => ((.ok s, bad), n)
  | w :: ws, s, bad, n =>
    match f s w with
    | (.ok s', d) => copyPut f kept ws s' (match bad with | some t => some t | none => d) (n + (w.2.length - kept s w))
    | (.bad t, _) => if t.cause = 0x63 || t.cause = 0x64 then ((.bad t, none), n)
      else copyPut f kept ws s (match bad with | some t => some t | none => some t) n
    | x => (x, n)

/-- Subtracts the bytes that a copy has written from its barrier's PEND (R145, R175). -/
def copyCount (s : State) (r : Nat) (k : Copy) (n : Nat) : Acc :=
  if n = 0 then .ok s else barUpdate s r (locSpace k.bar) (locOff k.bar) (barComplete n (locOff k.bar))

/-- A copy has written: it is subtracted from its barrier's PEND, and leaves the engines. Between its core's save and the cut's
completion the saved PEND keeps its count, so the subtraction comes after (R175, R284). -/
def copyEnd (s : State) (r k : Nat) (c : Copy) : State × Option Nat :=
  if (getH s r).saved.isSome then
    (setH s r { getH s r with copies := (getH s r).copies.set k { c with done := true } }, none)
  else match copyCount s r c c.bytes with
    | .ok s => (copyGone s r k, none)
    | .bad t => (copyFail s r k t, none)
    | .absent pa => (s, some pa)
    | .busy s => (s, none)

/-- COPY_COMPLETE: copy `k` of a helm core's copies in flight reads, writes, and is subtracted from its barrier's PEND
(R145, R175). A waking bank that it has to reach holds it, in arrival order, and empty words of its source defer it
(R123, R138). -/
def execCopyComplete (r k : Nat) (s : State) : Host.Outcome State Fault Refusal :=
  let h := getH s r
  match h.copies[k]? with
  | none => .next s
  | some c =>
    let who := copyAgent r k
    if !graphRuns s r || ebbSaved s r h.saved || (ownReads s r c).any (fun w => c.waits.contains w) then .next s
    else if c.done then
      let x := copyEnd { s with agent := who } r k c
      (match x.2 with | some pa => .fault (.absentMemory pa) | none => .next { x.1 with agent := s.agent })
    else match wakeHold { s with agent := who } r (copyRows c) with
    | some t => .next t
    | none =>
    let s := { setR s r { getR s r with bankHeld := (getR s r).bankHeld.filter (fun x => x.1 != who) } with agent := who }
    match copyAbsent s r c, copyRead s r c with
      | some pa, _ => .fault (.absentMemory pa)
      | none, .error (.inr (.inl (j, va))) => .next (engineStop s who j va)
      | none, .error (.inr (.inr ws)) => .next (engineDefer s who ws)
      | none, .error (.inl t) => .next (copyFail s r k t)
      | none, .ok bs =>
        let sp := c.sz.toNat / 2
        let items := copyPieces c bs
        match (if sp = 3 then firstXlate s (partOf s r) 1 (items.map (·.1)) else none) with
        | some (j, va) => .next (engineStop s who j va)
        | none =>
          let put := fun (s : State) (w : Nat × List Byte) =>
            if sp = 3 then gWrite { s with agent := who } r w.1 false w.2 else bufStore s r sp w.1 w.2 false
          let rows := if c.op = 0xB1 then rowsOf (cpyqSource c).1 (cpyqSource c).2.1 (cpyqSource c).2.2 else []
          match copyPut put (fun s w => if sp = 3 then keptBytes s r w else 0) items (engineReads s who) none 0 with
          | ((.absent pa, _), _) => .fault (.absentMemory pa)
          | ((.busy _, _), _) => .next (askSnap s r)
          | ((.bad t, _), _) => .next (copyFail s r k t)
          | ((.ok s', bad), n) =>
            let s' := rows.foldl (fun s w => bankServed s r (bankOf w.1 w.2)) (copyTouch { s' with agent := .helm r } r c)
            match bad with
            | none => let x := copyEnd s' r k c
                      (match x.2 with | some pa => .fault (.absentMemory pa) | none => .next x.1)
            | some t => if h.saved.isSome then .next s else match copyCount s' r c n with
              | .ok s' => .next (copyFail s' r k t)
              | .bad t => .next (copyFail s' r k t)
              | .absent pa => .fault (.absentMemory pa)
              | .busy _ => .next s

end Sys2Proof.Machine
end

