-- ==== Sys2Proof/Machine/CutterOps.lean ====
section
/-!
DEFINITION. Requests of the cutter and of the KV units (R287, R288), and the tile cutter (R162 to R166, R298 to R303, R419):
SPHDR, CUT in its three modes, CUTR and CUTB. A request is applied whole in one step (log 21); where it cannot be, it stands at
its unit, later requests stand behind it, and a helm core goes on.
-/

namespace Sys2Proof.Machine

/-! ## Reads that a unit makes on its own behalf (R138) -/

/-- The pieces of a byte range inside 64-byte lines. -/
def linePieces (a n : Nat) : List (Nat × Nat) := (splitLines a (List.replicate n 0)).map (fun x => (x.1, x.2.length))

/-- A unit's read of n bytes through the graph's view: the number, or what stops it. Presence is ignored. -/
def unitRead (s : State) (r va n : Nat) : Except Effect Nat :=
  let part := partOf s r
  let l := viewOf s r false
  match firstXlate s part 0 ((linePieces va n).map (·.1)) with
  | some (k, x) => .error (.wait .unit (engineStop s s.agent k x))
  | none =>
    let at_ := (linePieces va n).filterMap (fun p => match xlate s part p.1 0 with | .ok (pa, _) => some (p.1, pa, p.2) | .error _ => none)
    match at_.find? (fun p => !populated p.2.1), at_.find? (fun p => readPoison s l p.2.1) with
    | some p, _ => .error (.absent p.2.1)
    | none, some p => .error (.trap (mkTrap 0x66 0 p.1))
    | none, none => .ok (Bits.ofBytes (at_.flatMap (fun p => viewBytes s l p.2.1 p.2.2)))

/-- A unit's reads of a byte range have reached their base dies, one access a line (R141; log 21). -/
def unitTouch (s : State) (r va n : Nat) : State :=
  (linePieces va n).foldl (fun s p => match xlate s (partOf s r) p.1 0 with
    | .ok (pa, e) => touch s (partOf s r) p.1 pa e
    | .error _ => s) s

/-- Counts an event of a region (R206). -/
def countR (s : State) (r k : Nat) : State := setR s r { getR s r with counters := bump (getR s r).counters k }

/-! ## Requests of a unit (R287, R288, R148) -/

/-- An agent still stands at a unit: an element's held context, a helm core that waits or has a request held. -/
def unitStands (s : State) (a : Agent) : Bool :=
  match a with
  | .helm r => (getH s r).wait == .unit || helmHolds (getH s r) 2
  | .elem r e c slot => (getN s r e c).held == some slot

/-- A request of another agent stands at unit k of a region, 0 the cutter and 1 the KV unit, before the executing agent's. -/
def unitAhead (s : State) (q k : Nat) : Bool :=
  match (getR s q).unitQ.find? (fun x => x.1 == k && unitStands s x.2) with
  | some x => x.2 != s.agent
  | none => false

/-- The executing agent's request has arrived at a unit, and stands there. -/
def unitJoin (s : State) (q k : Nat) : State :=
  if (getR s q).unitQ.contains (k, s.agent) then s else setR s q { getR s q with unitQ := (getR s q).unitQ ++ [(k, s.agent)] }

/-- The executing agent's request has left a unit. -/
def unitLeave (s : State) (q k : Nat) : State :=
  if (getR s q).unitQ.contains (k, s.agent) then setR s q { getR s q with unitQ := (getR s q).unitQ.filter (fun x => x != (k, s.agent)) } else s

/-- A unit applies one request at a time, in arrival order (R148, R288): one that comes behind another, or cannot be applied
yet, stands at it; one that waits for a cut to commit does not (R409). A fork that its pool has refused has first to undo its
raises (R307). -/
def unitServe (s : State) (q k : Nat) (run : State → Effect) : Effect :=
  if unitAhead s q k || (k == 1 && (getR s q).kvUndo.isSome) then .wait .unit (unitJoin s q k)
  else match run s with
    | .done s => .done (unitLeave s q k)
    | .wait .load s => .wait .load (unitLeave s q k)
    | .wait w s => .wait w (unitJoin s q k)
    | .trapFrom s t => .trapFrom (unitLeave s q k) t
    | .trap t => if (getR s q).unitQ.isEmpty then .trap t else .trapFrom (unitLeave s q k) t
    | x => x

/-- A helm core issues a request to a unit. One that cannot be applied at once, or comes behind what the core's engine holds, is
held with its operands, and the core goes on to the first instruction that reads D, where a refusal would have nothing but the
request to withhold (R287, R389); an element's context is held. -/
def unitIssue (w : W32) (d : Nat) (a b : W64) (run : State → Effect) (s : State) : Effect :=
  let held := fun (s : State) => queueJudged s w a b (if classOf d = 1 || classOf d = 2 then d else 99) [] []
  if engineHolds s then held s
  else match run s with
    | .wait .unit s => held s
    | x => x

/-! ## Matrix headers (R162, R163) -/

/-- ROWS. -/
def mhRows (h : Lanes) : Nat := Bits.nat h 223 192
/-- COLS. -/
def mhCols (h : Lanes) : Nat := Bits.nat h 255 224
/-- NNZ. -/
def mhNnz (h : Lanes) : Nat := Bits.nat h 319 256
/-- PTR. -/
def mhPtr (h : Lanes) : Nat := Bits.nat h 376 320
/-- FORM: true is CSC. -/
def mhCsc (h : Lanes) : Bool := h.getLsbD 12
/-- Bytes of a pointer. -/
def mhPw (h : Lanes) : Nat := if h.getLsbD 11 then 8 else 4
/-- Length of the major dimension. -/
def mhMajor (h : Lanes) : Nat := if mhCsc h then mhCols h else mhRows h

/-- The status of SPHDR: 0 accepted, else the first failing check (R163, R298). -/
def mhStatus (h : Lanes) : Nat :=
  let vf := Bits.nat h 15 13
  let iw := if h.getLsbD 10 then 4 else 2
  let indexed := if mhCsc h then mhRows h else mhCols h
  if Bits.nat h 511 505 ≠ 0 || Bits.nat h 447 441 ≠ 0 || Bits.nat h 383 377 ≠ 0 || Bits.nat h 191 16 ≠ 0 || Bits.nat h 9 0 ≠ 0 then 1
  else if mhRows h = 0 || mhCols h = 0 then 2
  else if 2 < vf then 3
  else if Bits.nat h 504 448 % (if vf = 0 then 4 else 2) ≠ 0 || Bits.nat h 440 384 % iw ≠ 0 || mhPtr h % mhPw h ≠ 0 then 4
  else if !h.getLsbD 11 && 2 ^ 32 - 1 < mhNnz h then 5
  else if (if h.getLsbD 10 then 0xFFFFFFFF else 65535) < indexed then 6
  else 0

/-- CUTREF (R390). -/
def cutRef (k : Nat) (cursor : W64) : Trap := { cause := 0x23, arg := k, tval := cursor, hdr := 0 }

/-- What SPHDR asks of the cutter (R298). -/
def sphdrReq (d : Nat) (a x : W64) (s : State) : Effect :=
  let r := hereR s
  let ad := a.toNat % 2 ^ 57
  if x ≠ 0 && x ≠ 1 then .trap (cutRef 9 x)
  else if ad % 64 ≠ 0 then .trap (cutRef 10 x)
  else unitServe s r 0 (fun s => match unitRead s r ad 64 with
    | .error e => e
    | .ok v =>
      let h : Lanes := BitVec.ofNat 512 v
      let st := mhStatus h
      let s := unitTouch (engineGo s s.agent) r ad 64
      let g := getR s r
      let g := if x = 0 then { g with ha := if st = 0 then h else g.ha, haValid := st == 0, cont := none }
        else { g with hb := if st = 0 then h else g.hb, hbValid := st == 0, cont := none }
      let s := setR s r g
      let n := here s
      .done (setHere s { n with regs := if classOf d = 2 then setS n.regs (d - 8) (BitVec.ofNat 64 st) else n.regs }))

/-- SPHDR (R298). -/
def execSphdr (t : BitVec 6) (d a b : BitVec 5) (s : State) : Host.Outcome State Fault Refusal :=
  issue (.sphdr t d a b) s (fun s =>
    let av := srcVal (here s) a.toNat
    let bv := srcVal (here s) b.toNat
    unitIssue (wordOf (.sphdr t d a b)) d.toNat av bv (sphdrReq d.toNat av bv) s)

/-! ## One cut (R166) -/

/-- Pointers i and i + 1 of an operand, checked by R164 with the numbers of SPPTR (R419). -/
def cutPtr (s : State) (r : Nat) (h : Lanes) (i : Nat) : Except (Effect ⊕ (Nat × Nat)) (Nat × Nat) :=
  let w := mhPw h
  let a := mhPtr h + i * w
  match unitRead s r a w with
  | .error e => .error (.inl e)
  | .ok p =>
    if i = 0 && p ≠ 0 then .error (.inr (1, a))
    else if mhNnz h < p then .error (.inr (4, a))
    else match unitRead s r (a + w) w with
      | .error e => .error (.inl e)
      | .ok q =>
        if mhNnz h < q then .error (.inr (4, a + w))
        else if q < p then .error (.inr (2, a + w))
        else if i + 1 = mhMajor h && q ≠ mhNnz h then .error (.inr (3, a + w))
        else .ok (p, q)

/-- ca(i) or cb(i); 0 for an operand that the mode does not use. -/
def cutCount (s : State) (r : Nat) (h : Option Lanes) (i : Nat) : Except (Effect ⊕ (Nat × Nat)) Nat :=
  match h with
  | none => .ok 0
  | some h => match cutPtr s r h i with
    | .ok (p, q) => .ok (q - p)
    | .error e => .error e

/-- The counts of an index in both operands. -/
def cutCounts (s : State) (r : Nat) (ha hb : Option Lanes) (i : Nat) : Except (Effect ⊕ (Nat × Nat)) (Nat × Nat) :=
  match cutCount s r ha i, cutCount s r hb i with
  | .error e, _ => .error e
  | .ok _, .error e => .error e
  | .ok a, .ok b => .ok (a, b)

/-- The first index from k up that holds an entry, or K (R166: absorbed). -/
def cutSkip (f : Nat → Except (Effect ⊕ (Nat × Nat)) (Nat × Nat)) : Nat → Nat → Except (Effect ⊕ (Nat × Nat)) Nat
  | 0, k => .ok k
  | n + 1, k => match f k with
    | .error e => .error e
    | .ok c => if c = (0, 0) then cutSkip f n (k + 1) else .ok k

/-- Extends a tile from `hi` within the budgets: hi, nA, nB, and the budgets that stopped it (R166). -/
def cutScan (f : Nat → Except (Effect ⊕ (Nat × Nat)) (Nat × Nat)) (ba bb : Nat) :
    Nat → Nat → Nat → Nat → Except (Effect ⊕ (Nat × Nat)) (Nat × Nat × Nat × Nat)
  | 0, hi, na, nb => .ok (hi, na, nb, 8)
  | n + 1, hi, na, nb => match f hi with
    | .error e => .error e
    | .ok c =>
      if na + c.1 ≤ ba && nb + c.2 ≤ bb then cutScan f ba bb n (hi + 1) (na + c.1) (nb + c.2)
      else .ok (hi, na, nb, (if ba < na + c.1 then 1 else 0) + (if bb < nb + c.2 then 2 else 0))

/-- Chunks of a count under a budget. -/
def chunks (c b : Nat) : Nat := max 1 ((c + b - 1) / b)

/-- A count is above its budget. -/
def oversize (c : Nat × Nat) (ba bb : Nat) : Bool := ba < c.1 || bb < c.2

/-- Entries of chunk a of a count under a budget. -/
def chunkLen (c b a : Nat) : Nat := min c ((a + 1) * b) - a * b

/-- The tile of a cut: lo, hi, nnzA, nnzB, flags, and the next cursor (R166). -/
def cutTile (f : Nat → Except (Effect ⊕ (Nat × Nat)) (Nat × Nat)) (kk ba bb k off : Nat) (cur : W64) :
    Except (Effect ⊕ (Nat × Nat)) (Nat × Nat × Nat × Nat × Nat × Nat) :=
  match (if off = 0 then cutSkip f (kk - k) k else .ok k) with
  | .error e => .error e
  | .ok k' =>
    if k' = kk then .ok (k, kk, 0, 0, 12, kk)
    else match f k' with
      | .error e => .error e
      | .ok c =>
        if oversize c ba bb then
          let na := chunks c.1 ba
          let nb := chunks c.2 bb
          if 2 ^ 24 < na * nb then .error (.inl (.trap (cutRef 7 cur)))
          else
            let fl := 16 + (if ba < c.1 then 1 else 0) + (if bb < c.2 then 2 else 0)
            let nxt := if off + 1 = na * nb then k' + 1 else k' + (off + 1) * 2 ^ 32
            .ok (k, k' + 1, chunkLen c.1 ba (off / nb), chunkLen c.2 bb (off % nb), fl, nxt)
        else match cutScan f ba bb (kk - k') k' 0 0 with
          | .error e => .error e
          | .ok (hi, na, nb, fl) => .ok (k, hi, na, nb, fl, hi)

/-- The header slots that a mode uses (R299). -/
def cutSlots (g : Region) (mode : Nat) : Option Lanes × Option Lanes :=
  (if mode ≠ 1 then some g.ha else none, if mode ≠ 0 then some g.hb else none)

/-- K of a mode. -/
def cutLen (g : Region) (mode : Nat) : Nat := if mode = 0 then mhRows g.ha else if mode = 1 then mhCols g.hb else mhCols g.ha

/-- A slot that a mode needs is invalid or has the wrong FORM, or the CONTRACT dimensions differ (R299). -/
def cutSlotBad (g : Region) (mode : Nat) : Bool :=
  match mode with
  | 0 => !g.haValid || mhCsc g.ha
  | 1 => !g.hbValid || !mhCsc g.hb
  | _ => !g.haValid || !g.hbValid || !mhCsc g.ha || mhCsc g.hb || mhCols g.ha != mhRows g.hb

/-- Refusals 1 to 4 of R299, judged before any pointer is read. -/
def cutRefusal (g : Region) (mode : Nat) (bud cur : W64) : Option Nat :=
  if Bits.nat bud 31 24 ≠ 0 || Bits.nat bud 63 56 ≠ 0 || Bits.nat cur 63 56 ≠ 0 then some 1
  else if cutSlotBad g mode then some 2
  else if (mode ≠ 1 && Bits.nat bud 23 0 = 0) || (mode ≠ 0 && Bits.nat bud 55 32 = 0) then some 3
  else if cutLen g mode < Bits.nat cur 31 0 then some 4
  else none

/-- Refusals 5 to 7 of R299 for a cursor inside an index: what the pointers say. -/
def cutInside (f : Nat → Except (Effect ⊕ (Nat × Nat)) (Nat × Nat)) (kk ba bb k off : Nat) (cur : W64) :
    Except (Effect ⊕ (Nat × Nat)) Unit :=
  if off = 0 then .ok ()
  else if k = kk then .error (.inl (.trap (cutRef 5 cur)))
  else match f k with
    | .error e => .error e
    | .ok c =>
      if !oversize c ba bb then .error (.inl (.trap (cutRef 5 cur)))
      else if chunks c.1 ba * chunks c.2 bb ≤ off then .error (.inl (.trap (cutRef 6 cur)))
      else if 2 ^ 24 < chunks c.1 ba * chunks c.2 bb then .error (.inl (.trap (cutRef 7 cur)))
      else .ok ()

/-- The tile token (R300). -/
def tileTok (lo hi na nb fl k off : Nat) : Token :=
  { hdr := mkHdr 1 7 (if fl / 8 % 2 = 1 then 1 else 0) 0 0x007F lo,
    pay := Lanes.ofList (([lo, hi, na, nb, fl, k, off] : List Nat).map (BitVec.ofNat 32)) }

/-- One cut, from a mode, budgets and a cursor (R299, R300, R302, R419): the tile goes to port D and into the bound
registers; a pointer that breaks R164 leaves ERR, no token and no continuation. -/
def cutRun (d mode : Nat) (bud cur : W64) (s : State) : Effect :=
  let r := hereR s
  let g := getR s r
  match cutRefusal g mode bud cur with
  | some k => .trap (cutRef k cur)
  | none =>
    let sl := cutSlots g mode
    let kk := cutLen g mode
    let ba := if mode ≠ 1 then Bits.nat bud 23 0 else 2 ^ 24 - 1
    let bb := if mode ≠ 0 then Bits.nat bud 55 32 else 2 ^ 24 - 1
    let k := Bits.nat cur 31 0
    let off := Bits.nat cur 55 32
    let f := cutCounts s r sl.1 sl.2
    match (cutInside f kk ba bb k off cur).bind (fun _ => cutTile f kk ba bb k off cur) with
    | .error (.inl e) => e
    | .error (.inr (j, ad)) =>
      let a := agentAt s.agent
      let s := faultRec (engineGo s s.agent) r a.2.1 a.2.2.1 a.2.2.2 4 0 0 (mkTrap 0x74 j ad)
      .done (setR s r { getR s r with bounds := vSet (getR s r).bounds 4 32, cont := none })
    | .ok (lo, hi, na, nb, fl, nxt) =>
      let touched := fun (s : State) (h : Option Lanes) => match h with
        | some h => unitTouch s r (mhPtr h + k * mhPw h) ((min (hi + 1) kk - k + 1) * mhPw h)
        | none => s
      let s := countR (touched (touched (engineGo s s.agent) sl.1) sl.2) r 4
      let g := getR s r
      let bounds := ([(0, lo), (1, hi), (2, na), (3, nb), (4, fl)] : List (Nat × Nat)).foldl
        (fun v x => vSet v x.1 (BitVec.ofNat 64 x.2)) (vSet g.bounds 5 cur)
      let s := setR s r { g with bounds := bounds, cont := some { mode := mode, budgets := bud, cursor := BitVec.ofNat 64 nxt } }
      let n := here s
      if classOf d = 8 then
        match commitFire n (fireTok n.regs (d - 24) (tileTok lo hi na nb fl k off) true) with
        | .ok n => .done (setHere s n)
        | .error t => .trap t
      else .done s

/-- What CUT asks of the cutter (R299). -/
def cutReq (d mode : Nat) (a b : W64) (s : State) : Effect := unitServe s (hereR s) 0 (cutRun d mode a b)

/-- CUT in one of its modes. -/
def cutIssue (w : W32) (d a b : BitVec 5) (mode : Nat) (s : State) : Effect :=
  let av := srcVal (here s) a.toNat
  let bv := srcVal (here s) b.toNat
  unitIssue w d.toNat av bv (cutReq d.toNat mode av bv) s

/-- CUT.rows (R299). -/
def execCutRows (t : BitVec 6) (d a b : BitVec 5) (s : State) : Host.Outcome State Fault Refusal :=
  issue (.cutRows t d a b) s (cutIssue (wordOf (.cutRows t d a b)) d a b 0)
/-- CUT.cols (R299). -/
def execCutCols (t : BitVec 6) (d a b : BitVec 5) (s : State) : Host.Outcome State Fault Refusal :=
  issue (.cutCols t d a b) s (cutIssue (wordOf (.cutCols t d a b)) d a b 1)
/-- CUT.contract (R299). -/
def execCutContract (t : BitVec 6) (d a b : BitVec 5) (s : State) : Host.Outcome State Fault Refusal :=
  issue (.cutContract t d a b) s (cutIssue (wordOf (.cutContract t d a b)) d a b 2)

/-- What CUTR asks of the cutter (R302): the next cut of the continuation that stands as the request is applied; A replaces the
budgets unless it is z (`keep`). A reserved bit of A is refused before a missing continuation (R390). -/
def cutrReq (d : Nat) (keep : Bool) (a : W64) (s : State) : Effect :=
  unitServe s (hereR s) 0 (fun s =>
    match (getR s (hereR s)).cont with
      | none => .trap (cutRef (if !keep && (Bits.nat a 31 24 ≠ 0 || Bits.nat a 63 56 ≠ 0) then 1 else 8) 0)
      | some c => cutRun d c.mode (if keep then c.budgets else a) c.cursor s)

/-- CUTR (R302). -/
def execCutr (t : BitVec 6) (d a : BitVec 5) (s : State) : Host.Outcome State Fault Refusal :=
  issue (.cutr t d a) s (fun s =>
    let av := srcVal (here s) a.toNat
    unitIssue (wordOf (.cutr t d a)) d.toNat av 0 (cutrReq d.toNat (a == 28) av) s)

/-- A request that a helm core has made of its cutter is still held. -/
def cutPending (s : State) : Bool :=
  match s.agent with
  | .helm r => (getH s r).outstanding.any (fun o => o.queued && isUnit o.word && (fieldO o.word).toNat ≤ 0xC7)
  | .elem .. => false

/-- CUTB (R301): it waits for the cutter requests that have arrived before it. -/
def execCutb (t : BitVec 6) (d : BitVec 5) (z : BitVec 13) (s : State) : Host.Outcome State Fault Refusal :=
  issue (.cutb t d z) s (fun s =>
    if cutPending s then .wait .load s
    else match unitServe s (hereR s) 0 (fun s =>
        let n := here s
        .done (setHere s { n with regs := setS n.regs (d.toNat - 8) (vGet 0 (getR s (hereR s)).bounds z.toNat) })) with
      | .wait _ s => .wait .unit s
      | x => x)

end Sys2Proof.Machine
end

