-- ==== Sys2Proof/Machine/KvOps.lean ====
section
/-!
DEFINITION. The KV unit: sequences, frames, spans, masks and trees (R147 to R160, R304 to R313, R417, R418). A request is
applied whole in one step, through the view of its graph, in the order of arrival at its HOME (R148, R287; log 21).
-/

namespace Sys2Proof.Machine

/-! ## Faults -/

/-- KVREF (R390). -/
def kvRef (k ad : Nat) : Except Effect α := .error (.trap (mkTrap 0x24 k ad))
/-- A refusal of the unit (R417). -/
def kvBad (cause k ad : Nat) : Except Effect α := .error (.trap (mkTrap cause k ad))

/-! ## Sequence headers (R147) -/

/-- BTAB. -/
def shBtab (h : Lanes) : Nat := Bits.nat h 504 448
/-- POOL. -/
def shPool (h : Lanes) : Nat := Bits.nat h 440 384
/-- PTAB. -/
def shPtab (h : Lanes) : Nat := Bits.nat h 376 320
/-- OXT. -/
def shOxt (h : Lanes) : Nat := Bits.nat h 312 256
/-- NEXT. -/
def shNext (h : Lanes) : Nat := Bits.nat h 255 224
/-- HWM. -/
def shHwm (h : Lanes) : Nat := Bits.nat h 223 192
/-- NBLK. -/
def shNblk (h : Lanes) : Nat := Bits.nat h 191 176
/-- MAXBLK. -/
def shMax (h : Lanes) : Nat := Bits.nat h 175 160
/-- Bytes of a frame. -/
def shFrame (h : Lanes) : Nat := 64 + Bits.nat h 127 120 * Bits.nat h 159 128
/-- NOX. -/
def shNox (h : Lanes) : Nat := Bits.nat h 119 113
/-- CTAG. -/
def shCtag (h : Lanes) : Nat := Bits.nat h 112 110
/-- HOME. -/
def shHome (h : Lanes) : Nat := Bits.nat h 109 102

/-- A header with NEXT, HWM, NBLK, NOX and CTAG replaced. -/
def shSet (h : Lanes) (next hwm nblk nox ctag : Nat) : Lanes :=
  Bits.put (Bits.put (Bits.put (Bits.put (Bits.put h 224 32 next) 192 32 hwm) 176 16 nblk) 113 7 nox) 110 3 ctag

/-- The region of a graph whose helm core has a logical id (R304). -/
def kvHome (s : State) (r lid : Nat) : Option Nat := (graphOf s r).find? (fun q => (getH s q).lid == lid)

/-- No page is mapped at a header, or the page is another partition's: what KVREF 1 refuses before any read (R304, R391). -/
def kvUnmapped (s : State) (r ad : Nat) : Bool := match xlate s (partOf s r) ad 0 with | .error k => k == 1 || k == 5 | .ok _ => false

/-- Reads and checks a header (R304, R391): ALIGN, then KVREF 1 where no page is mapped at it or the page is another
partition's, before any read; another translation error is XLATE (R406; log 20); then BTBAD 1. -/
def kvHeader (s : State) (r ad : Nat) : Except Effect Lanes :=
  if ad % 64 ≠ 0 then .error (.trap (mkTrap 0x1B 6 ad))
  else if kvUnmapped s r ad then kvRef 1 ad
  else match unitRead s r ad 64 with
    | .error e => .error e
    | .ok v =>
      let h : Lanes := BitVec.ofNat 512 v
      if shMax h < shNblk h || 64 < shNox h then kvBad 0x73 1 ad else .ok h

/-- A sequence by its header's address: the header, then KVREF 2 (R304, R391). -/
def kvOpen (s : State) (r ad : Nat) : Except Effect Lanes :=
  match kvHeader s r ad with
  | .error e => .error e
  | .ok h => if (kvHome s r (shHome h)).isNone then kvRef 2 ad else .ok h

/-! ## Block table (R149) -/

/-- POS0. -/
def bePos (b : Nat) : Nat := b / 2 ^ 96 % 2 ^ 32
/-- FRAME. -/
def beFrame (b : Nat) : Nat := b / 2 ^ 32 % 2 ^ 57
/-- TAG. -/
def beTag (b : Nat) : Nat := b / 2 ^ 9 % 8
/-- SEALED. -/
def beSealed (b : Nat) : Bool := b.testBit 8
/-- FILL. -/
def beFill (b : Nat) : Nat := b / 8 % 32
/-- An entry from its fields. -/
def beMake (pos frame tag : Nat) (sealed : Bool) (fill : Nat) : Nat :=
  packFields [(96, 32, pos), (32, 57, frame), (9, 3, tag), (8, 1, if sealed then 1 else 0), (3, 5, fill)]
/-- An entry sealed at its present FILL. -/
def beSeal (b : Nat) : Nat := beMake (bePos b) (beFrame b) (beTag b) true (beFill b)

/-- Entries read from an index up, checked against the position after the entry before (R417). -/
def kvBlocksGo (s : State) (r ad btab : Nat) : Nat → Nat → Option Nat → Except Effect (List Nat)
  | 0, _, _ => .ok []
  | n + 1, i, last =>
    match unitRead s r (btab + 16 * i) 16 with
    | .error e => .error e
    | .ok b =>
      if b / 2 ^ 89 % 2 ^ 7 ≠ 0 || b / 2 ^ 12 % 2 ^ 20 ≠ 0 || b % 8 ≠ 0 || 16 < beFill b then kvBad 0x73 2 ad
      else if (match last with | some p => decide (bePos b < p) | none => false) then kvBad 0x73 3 ad
      else match kvBlocksGo s r ad btab n (i + 1) (some (bePos b + beFill b)) with
        | .error e => .error e
        | .ok l => .ok (b :: l)

/-- The block table. -/
def kvBlocks (s : State) (r ad : Nat) (h : Lanes) : Except Effect (List Nat) := kvBlocksGo s r ad (shBtab h) (shNblk h) 0 none

/-- The oxbow table (R154), checked (R417). -/
def kvOxGo (s : State) (r ad oxt : Nat) : Nat → Nat → Nat → Except Effect (List (Nat × Nat))
  | 0, _, _ => .ok []
  | n + 1, i, last =>
    match unitRead s r (oxt + 8 * i) 8 with
    | .error e => .error e
    | .ok v =>
      let x := (v % 2 ^ 32, v / 2 ^ 32)
      if x.2 ≤ x.1 || x.1 < last then kvBad 0x73 4 ad
      else match kvOxGo s r ad oxt n (i + 1) x.2 with
        | .error e => .error e
        | .ok l => .ok (x :: l)

/-- The oxbow table of a sequence. -/
def kvOx (s : State) (r ad : Nat) (h : Lanes) : Except Effect (List (Nat × Nat)) := kvOxGo s r ad (shOxt h) (shNox h) 0 0

/-- A position lies in an oxbow. -/
def inOx (ox : List (Nat × Nat)) (p : Nat) : Bool := ox.any (fun x => x.1 ≤ p && p < x.2)

/-- A parent table entry (R157). -/
def kvParent (s : State) (r ad : Nat) (h : Lanes) (i : Nat) : Except Effect Nat :=
  match unitRead s r (shPtab h + 4 * i) 4 with
  | .error e => .error e
  | .ok v => if v / 2 ^ 16 % 2 ^ 15 ≠ 0 then kvBad 0x73 5 ad else .ok v

/-! ## Frame pool (R150) -/

/-- HEAD, TAIL and CAP of a pool, with BTBAD 6. -/
def kvPool (s : State) (r ad : Nat) (h : Lanes) : Except Effect (Nat × Nat × Nat) :=
  match unitRead s r (shPool h) 24 with
  | .error e => .error e
  | .ok v =>
    let hd := v % 2 ^ 64
    let tl := v / 2 ^ 64 % 2 ^ 64
    let cap := v / 2 ^ 128
    if cap < (tl + 2 ^ 64 - hd) % 2 ^ 64 then kvBad 0x73 6 ad else .ok (hd, tl, cap)

/-- The frames that a pool gives next: their addresses. -/
def kvFrames (s : State) (r pool hd cap : Nat) : Nat → Except Effect (List Nat)
  | 0 => .ok []
  | n + 1 => match kvFrames s r pool hd cap n with
    | .error e => .error e
    | .ok l => match unitRead s r (pool + 64 + 8 * ((hd + n) % cap)) 8 with
      | .error e => .error e
      | .ok v => .ok (l ++ [v % 2 ^ 57])

/-- RCNT of a frame. -/
def kvRcnt (s : State) (r frame : Nat) : Except Effect Nat :=
  match unitRead s r frame 4 with | .error e => .error e | .ok v => .ok (v % 4096)

/-! ## Writes -/

/-- A store of n bytes. -/
def kvW (va n v : Nat) : Nat × Nat × Nat := (va, n, v)

/-- Stores of the home region's graph, as one: none is made while one of them cannot (R148, R304). Where a share has shrunk a helm core stands at
the instruction until the cut commits (R409). -/
def kvStore (s : State) (r : Nat) (ws : List (Nat × Nat × Nat)) : Effect :=
  let items := ws.flatMap (fun w => splitLines w.1 (Bits.bytesOf w.2.1 w.2.2))
  match firstXlate s (partOf s r) 1 (items.map (·.1)) with
  | some (k, va) => .wait .unit (engineStop s s.agent k va)
  | none => match storeMany (fun s w => gWrite s r w.1 false w.2) items s none with
    | (.busy _, _) => .wait .load (askSnap s r)
    | x => match heldAnswer s .unit x.1, x.2 with
      | .done s', none => .done s'
      | .done _, some t => .trap t
      | e, _ => e

/-- The header's store. -/
def kvHead (ad : Nat) (h : Lanes) : Nat × Nat × Nat := kvW ad 64 h.toNat
/-- Stores of block-table entries from an index up. -/
def kvTable (h : Lanes) (i : Nat) (bs : List Nat) : List (Nat × Nat × Nat) :=
  (bs.zip (List.range bs.length)).map (fun b => kvW (shBtab h + 16 * (i + b.2)) 16 b.1)
/-- Stores of the oxbow table. -/
def kvOxTable (h : Lanes) (ox : List (Nat × Nat)) : List (Nat × Nat × Nat) :=
  (ox.zip (List.range ox.length)).map (fun x => kvW (shOxt h + 8 * x.2) 8 (x.1.1 + x.1.2 * 2 ^ 32))

/-! ## Results and the chain -/

/-- A result: scalar, vector, or none. -/
def kvResult (s : State) (d : Nat) (x : W64) (v : Lanes) : State :=
  let n := here s
  setHere s { n with regs := match classOf d with | 2 => setS n.regs (d - 8) x | 1 => setV n.regs d v | _ => n.regs }

/-- Runs a request: its effect, the header's access and the count of the home region (R141, R206). -/
def kvRun (r ad : Nat) (h : Lanes) (e : Effect) (fin : State → State) : Effect :=
  match e with
  | .done s => .done (fin (unitTouch (countR (engineGo s s.agent) ((kvHome s r (shHome h)).getD r) 5) r ad 64))
  | x => x

/-- A request on the sequence whose header's address is given: the header read and checked, then its turn at the KV unit of
HOME (R148, R304). -/
def kvServe (s : State) (a : W64) (f : State → Nat → Nat → Lanes → Effect) : Effect :=
  let r := hereR s
  let ad := a.toNat % 2 ^ 57
  match kvOpen s r ad with
  | .error e => e
  | .ok h => unitServe s ((kvHome s r (shHome h)).getD r) 1 (fun s => f s r ad h)

/-- The chain of HOME's quad in snake order: regions of the graph with KVLIM not 0 (R159). -/
def kvChain (s : State) (r home : Nat) : List Nat :=
  let base := home / 32 % 2 * 32 + home / 4 % 2 * 4 + home / 64 * 64
  let place := fun (c : Nat) => base + 8 * (if c / 4 % 2 = 0 then c % 4 else 3 - c % 4) + c / 4
  ((List.range 16).map place).filter (fun q => (graphOf s r).contains q && (getR s q).kvlim != 0)

/-- The chain region that holds a position. -/
def kvHolder (s : State) (chain : List Nat) (p : Nat) : Option Nat := chain.find? (fun q => p < (getR s q).kvlim.toNat)

/-- A slot record (R305). -/
def slotRecord (pos : Nat) (region : W32) (j : Option (Nat × Nat)) : Lanes :=
  match j with
  | none => Lanes.ofList [BitVec.ofNat 32 pos, region, 0xFFFFFFFF]
  | some (i, b) => Lanes.ofList [BitVec.ofNat 32 pos, region, BitVec.ofNat 32 (pos - bePos b), BitVec.ofNat 32 i,
      BitVec.ofNat 32 (beFrame b), BitVec.ofNat 32 (beFrame b / 2 ^ 32),
      BitVec.ofNat 32 (packFields [(0, 3, beTag b), (8, 1, if beSealed b then 1 else 0), (16, 5, beFill b)])]

/-- Lane 1 of an append's record: the holder, all ones without a chain, and past the last KVLIM a value that the manual
does not state (log 20). -/
def kvLane (s : State) (r home pos : Nat) : W32 × State :=
  match kvChain s r home with
  | [] => (0xFFFFFFFF, s)
  | c => match kvHolder s c pos with
    | some q => (BitVec.ofNat 32 (getH s q).lid, s)
    | none => let f := freshen s; (Config.noRegion f.1, f.2)

/-! ## Append, seal, tag (R151, R306) -/

/-- An append: the index and entry that take the position, the entry sealed before it, and whether a frame is taken. -/
def kvPlace (bs : List Nat) (pos ctag : Nat) : Nat × Nat × Option (Nat × Nat) × Bool :=
  match bs.getLast? with
  | some b =>
    if !beSealed b && beFill b < 16 && bePos b + beFill b = pos then
      (bs.length - 1, beMake (bePos b) (beFrame b) (beTag b) (beFill b + 1 == 16) (beFill b + 1), none, false)
    else (bs.length, beMake pos 0 ctag false 1, if beSealed b then none else some (bs.length - 1, beSeal b), true)
  | none => (0, beMake pos 0 ctag false 1, none, true)

/-- The oxbow table after an append at a position (R151, R154). -/
def oxAppend (ox : List (Nat × Nat)) (pos : Nat) : List (Nat × Nat) :=
  (ox.map (fun x => if x.1 ≤ pos && pos < x.2 then (x.1 + 1, x.2) else x)).filter (fun x => x.1 < x.2)

/-- KVAPP's effect: the stores, the index and the entry. -/
def kvAppend (s : State) (r ad : Nat) (h : Lanes) : Except Effect (List (Nat × Nat × Nat) × Nat × Nat) :=
  match kvBlocks s r ad h, kvOx s r ad h with
  | .error e, _ => .error e
  | .ok _, .error e => .error e
  | .ok bs, .ok ox =>
    let pos := shNext h
    let (i, b, old, fresh) := kvPlace bs pos (shCtag h)
    let ox' := oxAppend ox pos
    let h' := shSet h (pos + 1) (max (shHwm h) (pos + 1)) (max (shNblk h) (i + 1)) ox'.length (shCtag h)
    let tail := (if ox' = ox then [] else kvOxTable h ox') ++ [kvHead ad h']
    let sealing := match old with | some (j, x) => kvTable h j [x] | none => []
    if !fresh then (if pos = 2 ^ 32 - 1 then kvBad 0x6F 0 ad else .ok (kvTable h i [b] ++ tail, i, b))
    else match kvPool s r ad h with
      | .error e => .error e
      | .ok (hd, tl, cap) =>
        if shMax h ≤ shNblk h then kvRef 3 ad
        else if pos = 2 ^ 32 - 1 then kvBad 0x6F 0 ad
        else if hd = tl then kvBad 0x6E 0 (shPool h)
        else match kvFrames s r (shPool h) hd cap 1 with
          | .error e => .error e
          | .ok fs =>
            let fr := fs.headD 0
            let b := beMake pos fr (shCtag h) false 1
            .ok (sealing ++ [kvW fr 64 1, kvW (shPool h) 8 (hd + 1)] ++ kvTable h i [b] ++ tail, i, b)

/-- What KVAPP asks of HOME (R306). -/
def kvappReq (d : Nat) (a : W64) (s : State) : Effect :=
  kvServe s a (fun s r ad h => match kvAppend s r ad h with
    | .error e => e
    | .ok (ws, i, b) =>
      kvRun r ad h (kvStore s r ws) (fun s =>
        let l := if classOf d = 1 then kvLane s r ((kvHome s r (shHome h)).getD r) (shNext h) else (0, s)
        kvResult l.2 d (BitVec.ofNat 64 (shNext h)) (slotRecord (shNext h) l.1 (some (i, b)))))

/-- KVAPP (R306). -/
def execKvapp (t : BitVec 6) (d a : BitVec 5) (s : State) : Host.Outcome State Fault Refusal :=
  issue (.kvapp t d a) s (fun s =>
    let av := srcVal (here s) a.toNat
    unitIssue (wordOf (.kvapp t d a)) d.toNat av 0 (kvappReq d.toNat av) s)

/-- The unsealed tail of a table. -/
def openTail (bs : List Nat) : Option (Nat × Nat) :=
  match bs.getLast? with
  | some b => if beSealed b then none else some (bs.length - 1, b)
  | none => none

/-- What KVSEAL asks of HOME (R306). -/
def kvsealReq (d : Nat) (a : W64) (s : State) : Effect :=
  kvServe s a (fun s r ad h => match kvBlocks s r ad h with
    | .error e => e
    | .ok bs => match openTail bs with
      | none => kvRun r ad h (.done s) (fun s => kvResult s d 0xFFFFFFFF 0)
      | some (i, b) => kvRun r ad h (kvStore s r (kvTable h i [beSeal b])) (fun s => kvResult s d (BitVec.ofNat 64 i) 0))

/-- KVSEAL (R306). -/
def execKvseal (t : BitVec 6) (d a : BitVec 5) (s : State) : Host.Outcome State Fault Refusal :=
  issue (.kvseal t d a) s (fun s =>
    let av := srcVal (here s) a.toNat
    unitIssue (wordOf (.kvseal t d a)) d.toNat av 0 (kvsealReq d.toNat av) s)

/-- What KVTAG asks of HOME (R151, R306). -/
def kvtagReq (tag : Nat) (a : W64) (s : State) : Effect :=
  kvServe s a (fun s r ad h => match kvBlocks s r ad h with
    | .error e => e
    | .ok bs =>
      let hw := kvHead ad (shSet h (shNext h) (shHwm h) (shNblk h) (shNox h) tag)
      let sealing := match openTail bs with
        | some (i, b) => if beTag b ≠ tag then kvTable h i [beSeal b] else []
        | none => []
      kvRun r ad h (kvStore s r (sealing ++ [hw])) id)

/-- KVTAG (R151, R306). -/
def execKvtag (t : BitVec 6) (d : BitVec 5) (g : BitVec 3) (s : State) : Host.Outcome State Fault Refusal :=
  issue (.kvtag t d g) s (fun s =>
    let av := srcVal (here s) d.toNat
    unitIssue (wordOf (.kvtag t d g)) 28 av 0 (kvtagReq g.toNat av) s)

/-! ## Fork (R152, R307) -/

/-- What a fork does to each block of the parent: the raises so far as frames and counts, the entries, and which of them
need a private copy. -/
def kvShare (s : State) (r : Nat) : List Nat → Assoc Nat → Except Effect (List (Nat × Bool) × Assoc Nat)
  | [], cs => .ok ([], cs)
  | b :: bs, cs =>
    let fr := beFrame b
    if !beSealed b then
      match kvShare s r bs cs with
      | .error e => .error e
      | .ok (l, cs) => .ok ((b, beFill b != 0) :: l, cs)
    else match (match aFind cs fr with | some c => Except.ok c | none => kvRcnt s r fr) with
      | .error e => .error e
      | .ok c =>
        match kvShare s r bs (aSet cs fr (if c = 4095 then c else c + 1)) with
        | .error e => .error e
        | .ok (l, cs) => .ok ((b, c == 4095) :: l, cs)

/-- The child's entries: copies take the new frames in order. Each entry, the frame it had, and the new frame of a copy. -/
def kvAssign : List (Nat × Bool) → List Nat → List (Nat × Nat × Option Nat)
  | [], _ => []
  | (b, false) :: l, fs => (b, beFrame b, none) :: kvAssign l fs
  | (b, true) :: l, f :: fs => (beMake (bePos b) f (beTag b) (beSealed b) (beFill b), beFrame b, some f) :: kvAssign l fs
  | (b, true) :: l, [] => (b, beFrame b, none) :: kvAssign l []

/-- Stores that copy frames: bytes 0x40 up from the old frame under a header of RCNT 1. -/
def kvCopies (s : State) (r n : Nat) : List (Nat × Nat × Option Nat) → Except Effect (List (Nat × Nat × Nat))
  | [] => .ok []
  | (_, _, none) :: l => kvCopies s r n l
  | (_, old, some f) :: l =>
    match (if n = 64 then Except.ok 0 else unitRead s r (old + 64) (n - 64)) with
    | .error e => .error e
    | .ok v => match kvCopies s r n l with
      | .error e => .error e
      | .ok ws => .ok (kvW f 64 1 :: kvW (f + 64) (n - 64) v :: ws)

/-- Frames whose count a fork has raised when its pool, of n frames, empties: those of the shared blocks before the copy that
finds none (R307). -/
def kvRaised : List (Nat × Bool) → Nat → List Nat
  | [], _ => []
  | (_, true) :: _, 0 => []
  | (_, true) :: l, n + 1 => kvRaised l n
  | (b, false) :: l, n => if beSealed b then beFrame b :: kvRaised l n else kvRaised l n

/-- A frame's occurrences in a list. -/
def kvTimes (fs : List Nat) (f : Nat) : Nat := (fs.filter (· == f)).length

/-- The pool empties partway through a fork: the raises made so far stand until they are undone, and the fork is refused
(R307, R417). -/
def kvRefuse (s : State) (r : Nat) (h : Lanes) (raised : List Nat) : Effect :=
  let t := mkTrap 0x6E 0 (shPool h)
  let ws := raised.eraseDups.filterMap (fun f => match kvRcnt s r f with
    | .ok c => some (kvW f 4 (c + kvTimes raised f))
    | .error _ => none)
  if raised.isEmpty then .trap t
  else match kvStore s r ws with
    | .done s =>
      let q := (kvHome s r (shHome h)).getD r
      .trapFrom (setR s q { getR s q with kvUndo := some (shPool h, raised) }) t
    | e => e

/-- Stores of the child's parent table (R307). -/
def kvParents (s : State) (r ad : Nat) (h c : Lanes) : Nat → Except Effect (List (Nat × Nat × Nat))
  | 0 => .ok []
  | n + 1 => match kvParents s r ad h c n with
    | .error e => .error e
    | .ok l => match (if shPtab h = 0 then Except.ok 0xFFFF else kvParent s r ad h n) with
      | .error e => .error e
      | .ok v => .ok (l ++ [kvW (shPtab c + 4 * n) 4 v])

/-- The child's header does not meet R307. -/
def kvChildBad (s : State) (r : Nat) (h c : Lanes) : Bool :=
  shNblk c != 0 || Bits.nat c 127 120 != Bits.nat h 127 120 || Bits.nat c 159 128 != Bits.nat h 159 128 ||
    shMax c < shNblk h || (kvHome s r (shHome c)).isNone

/-- KVFORK's effect: the stores and the number of private copies. New frames come from the parent's pool (log 20). -/
def kvFork (s : State) (r ad bd : Nat) (h c : Lanes) : Except Effect (List (Nat × Nat × Nat) × Nat) :=
  match kvBlocks s r ad h, kvOx s r ad h, (if shPtab c = 0 then Except.ok [] else kvParents s r ad h c (shNblk h)) with
  | .error e, _, _ => .error e
  | .ok _, .error e, _ => .error e
  | .ok _, .ok _, .error e => .error e
  | .ok bs, .ok ox, .ok ps => match kvShare s r bs [] with
    | .error e => .error e
    | .ok (l, cs) =>
      let need := (l.filter (·.2)).length
      match (if need = 0 then Except.ok (0, 0, 0) else kvPool s r ad h) with
      | .error e => .error e
      | .ok (hd, tl, cap) =>
        if kvChildBad s r h c then kvRef 4 bd
        else if (tl + 2 ^ 64 - hd) % 2 ^ 64 < need then .error (kvRefuse s r h (kvRaised l ((tl + 2 ^ 64 - hd) % 2 ^ 64)))
        else match kvFrames s r (shPool h) hd cap need with
          | .error e => .error e
          | .ok fs =>
            let es := kvAssign l fs
            match kvCopies s r (shFrame h) es with
            | .error e => .error e
            | .ok cw =>
              let c' := shSet c (shNext h) (shHwm h) (shNblk h) (shNox h) (shCtag h)
              let pool := if need = 0 then [] else [kvW (shPool h) 8 (hd + need)]
              .ok (cs.map (fun x => kvW x.1 4 x.2) ++ cw ++ pool ++ kvTable c 0 (es.map (·.1)) ++ kvOxTable c ox ++ ps ++ [kvHead bd c'], need)

/-- What KVFORK asks of the parent's HOME (R307). An address that is not aligned is refused first, then one with no page, before
anything is read (R391). -/
def kvforkReq (d : Nat) (a b : W64) (s : State) : Effect :=
  let bd := b.toNat % 2 ^ 57
  if a.toNat % 64 = 0 && bd % 64 ≠ 0 then .trap (mkTrap 0x1B 6 bd)
  else if a.toNat % 64 = 0 && !kvUnmapped s (hereR s) (a.toNat % 2 ^ 57) && kvUnmapped s (hereR s) bd then .trap (mkTrap 0x24 1 bd)
  else kvServe s a (fun s r ad h => match kvHeader s r bd with
    | .error e => e
    | .ok c => match kvFork s r ad bd h c with
      | .error e => e
      | .ok (ws, n) => kvRun r ad h (kvStore s r ws) (fun s => kvResult s d (BitVec.ofNat 64 n) 0))

/-- KVFORK (R307). -/
def execKvfork (t : BitVec 6) (d a b : BitVec 5) (s : State) : Host.Outcome State Fault Refusal :=
  issue (.kvfork t d a b) s (fun s =>
    let av := srcVal (here s) a.toNat
    let bv := srcVal (here s) b.toNat
    unitIssue (wordOf (.kvfork t d a b)) d.toNat av bv (kvforkReq d.toNat av bv) s)

/-! ## Retiring a span (R153 to R155, R308, R418) -/

/-- Maximal runs of positions below HWM that no block holds (R154). -/
def kvRuns (hwm : Nat) : List Nat → Nat → List (Nat × Nat)
  | [], cur => if cur < hwm then [(cur, hwm)] else []
  | b :: bs, cur =>
    let rest := kvRuns hwm bs (max cur (bePos b + beFill b))
    if cur < min (bePos b) hwm then (cur, min (bePos b) hwm) :: rest else rest

/-- RCNT of every frame that a request will release, by frame (R418: check pass). -/
def kvCheck (s : State) (r : Nat) : List Nat → Except Effect (Assoc Nat)
  | [] => .ok []
  | f :: fs => match kvCheck s r fs with
    | .error e => .error e
    | .ok cs => match kvRcnt s r f with
      | .error e => .error e
      | .ok 0 => kvBad 0x70 1 f
      | .ok c => .ok (aSet cs f c)

/-- RCNT of every frame that a request releases as its release pass reads them. -/
def kvCounts (s : State) (r : Nat) : List Nat → Except Effect (Assoc Nat)
  | [] => .ok []
  | f :: fs => match kvCounts s r fs, kvRcnt s r f with
    | .error e, _ => .error e
    | .ok _, .error e => .error e
    | .ok cs, .ok c => .ok (aSet cs f c)

/-- The release pass: counts after it, frames that reached 0, and frames skipped, in table order (R418). -/
def kvRelease : List Nat → Assoc Nat → Assoc Nat × List Nat × List Nat
  | [], cs => (cs, [], [])
  | f :: fs, cs =>
    let c := aGet 0 cs f
    let x := kvRelease fs (aSet cs f (c - 1))
    if c = 0 then (x.1, x.2.1, f :: x.2.2) else if c = 1 then (x.1, f :: x.2.1, x.2.2) else x

/-- RETSPAN's effect: the stores and the frames skipped. Where the check pass is over (`checked`) the counts are read again, and
those that have come to 0 since are skipped (R418). -/
def kvRetire (s : State) (r ad tag : Nat) (rewind checked : Bool) (h : Lanes) : Except Effect (List (Nat × Nat × Nat) × List Nat) :=
  match kvBlocks s r ad h with
  | .error e => .error e
  | .ok bs =>
    let gone := bs.filter (fun b => beTag b == tag)
    let keep := bs.filter (fun b => beTag b != tag)
    let runs := kvRuns (shHwm h) (keep.filter (fun b => beFill b != 0)) 0
    let low := (runs.map (·.1)).headD (shNext h)
    if gone.isEmpty then (if shPtab h ≠ 0 then kvRef 5 ad else .ok ([], []))
    else match kvPool s r ad h with
      | .error e => .error e
      | .ok (hd, tl, cap) =>
        if shPtab h ≠ 0 then kvRef 5 ad
        else if 64 < runs.length then kvRef 6 ad
        else if rewind && keep.any (fun b => beFill b != 0 && low < bePos b + beFill b - 1) then kvRef 7 ad
        else match (if checked then kvCounts s r (gone.map beFrame) else kvCheck s r (gone.map beFrame)) with
          | .error e => .error e
          | .ok cs =>
            let x := kvRelease (gone.map beFrame) cs
            if cap < (tl + 2 ^ 64 - hd) % 2 ^ 64 + x.2.1.length then kvBad 0x73 6 ad
            else
              let h' := shSet h (if rewind then low else shHwm h) (shHwm h) keep.length runs.length (shCtag h)
              let pool := (x.2.1.zip (List.range x.2.1.length)).map (fun f => kvW (shPool h + 64 + 8 * ((tl + f.2) % cap)) 8 f.1)
              let tail := if x.2.1.isEmpty then [] else [kvW (shPool h + 8) 8 (tl + x.2.1.length)]
              .ok (x.1.map (fun c => kvW c.1 4 c.2) ++ pool ++ tail ++ kvTable h 0 keep ++ kvOxTable h runs ++ [kvHead ad h'], x.2.2)

/-- The request of the executing agent at a KV unit has its release pass to come, or has not. -/
def setPass (s : State) (q : Nat) (on : Bool) : State :=
  setR s q { getR s q with kvPass := if on then some s.agent else none }

/-- What RETSPAN asks of HOME, in either mode (R308). Its two passes are two steps: with its checks made it stands at the unit
until the release pass, and another region's unit may act between them (R418). One that releases nothing has no second pass. -/
def retspanReq (tag : Nat) (rewind : Bool) (a : W64) (s : State) : Effect :=
  kvServe s a (fun s r ad h =>
    let q := (kvHome s r (shHome h)).getD r
    let checked := (getR s q).kvPass == some s.agent
    match kvRetire s r ad tag rewind checked h with
    | .error (.trap t) => if checked then .trapFrom (setPass s q false) t else .trap t
    | .error e => e
    | .ok (ws, skipped) =>
      if !checked && !ws.isEmpty then .wait .unit (setPass s q true)
      else kvRun r ad h (kvStore s r ws) (fun s =>
        let a := agentAt s.agent
        skipped.foldl (fun s f => faultRec s r a.2.1 a.2.2.1 a.2.2.2 5 0 0 (mkTrap 0x70 2 f)) (if checked then setPass s q false else s)))

/-- RETSPAN, KEEP (R308). -/
def execRetspanKeep (t : BitVec 6) (d : BitVec 5) (g : BitVec 3) (s : State) : Host.Outcome State Fault Refusal :=
  issue (.retspanKeep t d g) s (fun s =>
    let av := srcVal (here s) d.toNat
    unitIssue (wordOf (.retspanKeep t d g)) 28 av 0 (retspanReq g.toNat false av) s)
/-- RETSPAN, REWIND (R308). -/
def execRetspanRewind (t : BitVec 6) (d : BitVec 5) (g : BitVec 3) (s : State) : Host.Outcome State Fault Refusal :=
  issue (.retspanRewind t d g) s (fun s =>
    let av := srcVal (here s) d.toNat
    unitIssue (wordOf (.retspanRewind t d g)) 28 av 0 (retspanReq g.toNat true av) s)

/-! ## Masks and trees (R156 to R158, R309, R310) -/

/-- Ancestry: entry e is x or an ancestor of x, within the steps left (R158); reading the trunk as the parent of the 64th
ancestor ends it there, with no further step to refuse (log 101). -/
def kvAncestor (s : State) (r ad : Nat) (h : Lanes) (e : Nat) : Nat → Nat → Except Effect Bool
  | 0, _ => kvBad 0x71 1 ad
  | n + 1, x =>
    if shNblk h ≤ x then kvBad 0x71 2 ad
    else if x = e then .ok true
    else match kvParent s r ad h x with
      | .error er => .error er
      | .ok v => if v % 2 ^ 16 = 0xFFFF then .ok false else kvAncestor s r ad h e n (v % 2 ^ 16)

/-- Entry e is visible to a query in block b (R158, R309). -/
def kvVisible (s : State) (r ad : Nat) (h : Lanes) (e b : Nat) : Except Effect Bool :=
  if shPtab h = 0 then .ok true
  else match kvParent s r ad h e with
    | .error er => .error er
    | .ok v => if v < 2 ^ 31 then .ok true else if b = 0xFFFF then .ok false else kvAncestor s r ad h e 65 b

/-- KVMASK's mask (R156). -/
def kvMask (s : State) (r ad : Nat) (h : Lanes) (q e b : Nat) : Except Effect (BitVec 16) :=
  if shNblk h ≤ e then .ok 0
  else match kvBlocks s r ad h, kvOx s r ad h with
    | .error er, _ => .error er
    | .ok _, .error er => .error er
    | .ok bs, .ok ox => match kvVisible s r ad h e b with
      | .error er => .error er
      | .ok vis =>
        let x := bs.getD e 0
        .ok (maskOf (fun j => vis && j < beFill x && bePos x + j ≤ q && !inOx ox (bePos x + j)))

/-- What KVMASK asks of HOME (R309). -/
def kvmaskReq (d : Nat) (a x : W64) (s : State) : Effect :=
  kvServe s a (fun s r ad h => match kvMask s r ad h (Bits.nat x 31 0) (Bits.nat x 47 32) (Bits.nat x 63 48) with
    | .error e => e
    | .ok m => kvRun r ad h (.done s) (fun s =>
        kvResult s d (m.setWidth 64) (Lanes.ofFn (fun k => if maskBit m k then 0xFFFFFFFF else 0))))

/-- KVMASK (R309). -/
def execKvmask (t : BitVec 6) (d a b : BitVec 5) (s : State) : Host.Outcome State Fault Refusal :=
  issue (.kvmask t d a b) s (fun s =>
    let av := srcVal (here s) a.toNat
    let bv := srcVal (here s) b.toNat
    unitIssue (wordOf (.kvmask t d a b)) d.toNat av bv (kvmaskReq d.toNat av bv) s)

/-- KVPAR's checks and its old entry: 8 to 11 in order, BTBAD first (R310, R391). -/
def kvParOld (s : State) (r ad : Nat) (h : Lanes) (i p : Nat) : Except Effect Nat :=
  if shPtab h = 0 then kvRef 8 ad
  else if shNblk h ≤ i then kvRef 9 ad
  else match kvParent s r ad h i with
    | .error e => .error e
    | .ok old => if shNblk h ≤ p && p ≠ 0xFFFF then kvRef 10 ad else if p = i then kvRef 11 ad else .ok old

/-- What KVPAR asks of HOME (R310). -/
def kvparReq (d : Nat) (a x : W64) (s : State) : Effect :=
  let i := Bits.nat x 15 0
  let p := Bits.nat x 31 16
  kvServe s a (fun s r ad h => match kvParOld s r ad h i p with
    | .error e => e
    | .ok old =>
      kvRun r ad h (kvStore s r [kvW (shPtab h + 4 * i) 4 (p + Bits.nat x 32 32 * 2 ^ 31)])
        (fun s => kvResult s d (BitVec.ofNat 64 old) 0))

/-- KVPAR (R310). -/
def execKvpar (t : BitVec 6) (d a b : BitVec 5) (s : State) : Host.Outcome State Fault Refusal :=
  issue (.kvpar t d a b) s (fun s =>
    let av := srcVal (here s) a.toNat
    let bv := srcVal (here s) b.toNat
    unitIssue (wordOf (.kvpar t d a b)) d.toNat av bv (kvparReq d.toNat av bv) s)

/-! ## Lookups (R159, R311, R312) -/

/-- The block that holds a position. -/
def kvFind (bs : List Nat) (p : Nat) : Option (Nat × Nat) :=
  ((List.range bs.length).zip bs).find? (fun x => bePos x.2 ≤ p && p < bePos x.2 + beFill x.2)

/-- KVLOOK's record (R311); KVLIMOVF past the last KVLIM of a chain. -/
def kvLook (s : State) (r ad : Nat) (h : Lanes) (p : Nat) : Except Effect Lanes :=
  match kvBlocks s r ad h, kvOx s r ad h with
  | .error e, _ => .error e
  | .ok _, .error e => .error e
  | .ok bs, .ok ox =>
    let slot := if shNext h ≤ p || inOx ox p then none else kvFind bs p
    match kvChain s r ((kvHome s r (shHome h)).getD r) with
    | [] => .ok (slotRecord p 0xFFFFFFFF slot)
    | c => match kvHolder s c p with
      | some q => .ok (slotRecord p (BitVec.ofNat 32 (getH s q).lid) slot)
      | none => kvBad 0x72 0 p

/-- What KVLOOK asks of HOME (R311). -/
def kvlookReq (d : Nat) (a x : W64) (s : State) : Effect :=
  kvServe s a (fun s r ad h => match kvLook s r ad h (Bits.nat x 31 0) with
    | .error e => e
    | .ok v => kvRun r ad h (.done s) (fun s => kvResult s d 0 v))

/-- KVLOOK (R311). -/
def execKvlook (t : BitVec 6) (d a b : BitVec 5) (s : State) : Host.Outcome State Fault Refusal :=
  issue (.kvlook t d a b) s (fun s =>
    let av := srcVal (here s) a.toNat
    let bv := srcVal (here s) b.toNat
    unitIssue (wordOf (.kvlook t d a b)) d.toNat av bv (kvlookReq d.toNat av bv) s)

/-- KVNEXT's record (R312). -/
def kvNextRec (s : State) (r ad : Nat) (h : Lanes) (i : Nat) : Except Effect Lanes :=
  if shNblk h ≤ i then .ok (Lanes.ofList [0, 0, 0, 0, 0, 0xFFFFFFFF])
  else match kvBlocks s r ad h, (if shPtab h = 0 then Except.ok 0 else kvParent s r ad h i) with
    | .error e, _ => .error e
    | .ok _, .error e => .error e
    | .ok bs, .ok par =>
      let b := bs.getD i 0
      match kvRcnt s r (beFrame b) with
      | .error e => .error e
      | .ok c => .ok (Lanes.ofList (([bePos b, beFill b, packFields [(0, 3, beTag b), (8, 1, if beSealed b then 1 else 0)], beFrame b % 2 ^ 32,
          beFrame b / 2 ^ 32, if i + 1 = shNblk h then 0xFFFFFFFF else i + 1, c, par] : List Nat).map (BitVec.ofNat 32)))

/-- What KVNEXT asks of HOME (R312). -/
def kvnextReq (d : Nat) (a x : W64) (s : State) : Effect :=
  kvServe s a (fun s r ad h => match kvNextRec s r ad h (Bits.nat x 15 0) with
    | .error e => e
    | .ok v => kvRun r ad h (.done s) (fun s => kvResult s d 0 v))

/-- KVNEXT (R312). -/
def execKvnext (t : BitVec 6) (d a b : BitVec 5) (s : State) : Host.Outcome State Fault Refusal :=
  issue (.kvnext t d a b) s (fun s =>
    let av := srcVal (here s) a.toNat
    let bv := srcVal (here s) b.toNat
    unitIssue (wordOf (.kvnext t d a b)) d.toNat av bv (kvnextReq d.toNat av bv) s)

/-! ## Requests that a helm core's engine holds (R262, R287, R377, R406) -/

/-- What the word of a held request asks of its unit, with the operands it had as it issued. -/
def unitReq (w : W32) (a b : W64) : State → Effect :=
  let d := (fieldD w).toNat
  let sel := Bits.nat w 12 0
  match (fieldO w).toNat with
  | 0xC4 => cutReq d (fieldY w).toNat a b
  | 0xC6 => cutrReq d (fieldA w == 28) a
  | 0xC7 => sphdrReq d a b
  | 0xC8 => kvappReq d a
  | 0xC9 => kvsealReq d a
  | 0xCA => kvforkReq d a b
  | 0xCB => retspanReq (sel % 8) (sel / 8 % 2 == 1) a
  | 0xCC => kvmaskReq d a b
  | 0xCD => kvlookReq d a b
  | 0xCE => kvtagReq (sel % 8) a
  | 0xCF => kvparReq d a b
  | _ => kvnextReq d a b

/-- A held request of a unit is tried again, and whether those behind it may be. One that the unit refuses is the fault of its
own instruction, whose address hs.epc names (R389). -/
def retryUnit (s : State) (r : Nat) (o : Outstanding) : State × Bool :=
  if classOf (fieldD o.word).toNat = 8 && !portOpen (getH s r).node ((fieldD o.word).toNat - 24) then (s, false)
  else match unitReq o.word o.dval o.bval s with
    | .done s => (dropReq s r o, true)
    | .wait _ s => (s, false)
    | .trap t => (syncTrap (dropReq s r o) r 1 t o.addr, false)
    | .trapFrom s t => (syncTrap (dropReq s r o) r 1 t o.addr, false)
    | .hold s => (dropReq s r o, false)
    | .jump .. | .absent _ => (s, false)

/-- A held request is tried again, and whether those behind it may be. -/
def retryOne (s : State) (r : Nat) (o : Outstanding) : State × Bool :=
  let k := (fieldO o.word).toNat
  if isUnit o.word then retryUnit s r o
  else if 0xAF ≤ k && k ≤ 0xB9 then retryBar s r o
  else if k = 0xA5 || k = 0xA7 then retryStream s r o
  else if reqClass o.word = 1 then retryBuf s r o
  else retryReq s r o

/-- The held requests in order: one that stays held keeps back those behind it, its core's engine and its units the ones that go
there, the typed buffers the ones that go to them (R377). `mem` and `buf` say which are kept back. -/
def retryGo (r : Nat) : List Outstanding → Bool → Bool → State → State
  | [], _, _, s => s
  | o :: os, mem, buf, s =>
    let inBuf := reqClass o.word == 1
    if !o.queued || (if inBuf then buf else mem) then retryGo r os mem buf s
    else
      let y := retryOne s r o
      let x := if inBuf && y.2 then (bankDrop y.1 (.helm r), true) else y
      retryGo r os (mem || (!inBuf && !x.2)) (buf || (inBuf && !x.2)) x.1

/-- A gather for a port of a helm core has its words, and the port a free entry: the token is fired (R262, R278). -/
def fireGathers (s : State) (r : Nat) : State :=
  let mine := s.arms.filter (fun a => a.who == .helm r && a.kind == .read && a.released.isSome && classOf (fieldD a.word).toNat == 8)
  mine.foldl (fun s a =>
    let h := getH s r
    let k := (fieldD a.word).toNat - 24
    let tok : Token := { hdr := a.bval, pay := Lanes.ofFn (fun k => ((a.got.find? (fun g => g.1 == k)).map (·.2)).getD 0) }
    if !portOpen h.node k then s
    else
      let s := delArm s a
      let s := setH s r { getH s r with outstanding := (getH s r).outstanding.filter (fun o => o.word != a.word || o.failed.isSome) }
      match commitFire (getH s r).node (fireTok (getH s r).node.regs k tok true) with
      | .ok n => setH s r { getH s r with node := n }
      | .error t => memFault s (.helm r) t) s

/-- What a helm core's engine holds is tried again; nothing comes of it before a MAP has changed the tables (R377). -/
def retryReqs (s : State) (r : Nat) : State :=
  fireGathers (retryGo r (getH s r).outstanding false false { s with agent := .helm r }) r

/-! ## The undo of a refused fork (R307, R418) -/

/-- The releases of a refused fork's undo: the release pass alone, one step for each frame in table order. A frame that comes to
0 goes to the pool it was to be shared from; one that stands at 0 is skipped, with its notice. -/
def kvUndoGo (s : State) (r pool : Nat) : List Nat → State × Bool
  | [] => (s, true)
  | f :: fs =>
    match kvRcnt s r f with
    | .error _ => (s, false)
    | .ok 0 => kvUndoGo (faultRec s r 256 0 0 5 0 0 (mkTrap 0x70 2 f)) r pool fs
    | .ok (c + 1) =>
      let back := if c = 0 then
          (match unitRead s r pool 24 with
          | .ok v => [kvW (pool + 64 + 8 * (v / 2 ^ 64 % 2 ^ 64 % (v / 2 ^ 128))) 8 f, kvW (pool + 8) 8 (v / 2 ^ 64 % 2 ^ 64 + 1)]
          | .error _ => [])
        else []
      match kvStore s r (kvW f 4 c :: back) with
      | .done s => kvUndoGo s r pool fs
      | _ => (setR s r { getR s r with kvUndo := some (pool, f :: fs) }, false)

/-- A region's KV unit undoes the raises of the fork that its pool has refused. -/
def kvUndone (s : State) (r : Nat) : State :=
  match (getR s r).kvUndo with
  | none => s
  | some (pool, fs) =>
    let x := kvUndoGo { s with agent := .helm r } r pool fs
    if x.2 then setR x.1 r { getR x.1 r with kvUndo := none } else x.1

/-! ## RING (R160, R313) -/

/-- RING: a scalar fires a new token; a channel's head is forwarded, or has come home and sets p7. -/
def execRing (t : BitVec 6) (d a : BitVec 5) (s : State) : Host.Outcome State Fault Refusal :=
  issueFire (.ring t d a) s false (fun n =>
    let lid : W32 := BitVec.ofNat 32 (getH s (hereR s)).lid
    match headOf n a.toNat with
    | none => .ok (fireTok n.regs (d.toNat - 24) { hdr := mkHdr 1 7 0 0 0x0003 0, pay := Lanes.ofList [lid, (srcVal n a.toNat).setWidth 32] } true)
    | some h =>
      if hKind h.hdr ≠ 1 then .error (illTag h.hdr)
      else if h.pay.get 0 = lid then .ok (fireRegs { n.regs with p := n.regs.p ||| 0x80 })
      else .ok (fireTok { n.regs with p := n.regs.p &&& 0x7F } (d.toNat - 24) h true))

end Sys2Proof.Machine
end

