-- ==== Sys2Proof/Machine/MatrixOps.lean ====
section
/-!
DEFINITION. The matrix node: its command instructions (R289 to R291, R293, R294, R296), and the events in which it
executes MMA, ACCRD and ACCCLR commands and meets a cut's marker (R82 to R84, R194, R198, R199, R290 to R297).
-/

namespace Sys2Proof.Machine

/-! ## Command instructions -/

/-- A control token. -/
def ctrlTok (en ctx : Nat) (m : BitVec 16) (t : Nat) (l : List W32) : Token :=
  { hdr := mkHdr 1 7 en ctx m t, pay := Lanes.ofList l }

/-- Fires a token on a port D; z discards it. -/
def firePortD (n : Node) (d : Nat) (t : Token) : Except Trap Fire :=
  .ok (if classOf d = 8 then fireTok n.regs (d - 24) t true else fireRegs n.regs)

/-- MMCMD (R291): lane 0 from B under OP 1; K0 and K from lanes 0 and 1 of A. -/
def execMmcmd (t : BitVec 6) (d a b : BitVec 5) (s : State) : Host.Outcome State Fault Refusal :=
  issueFire (.mmcmd t d a b) s false (fun n =>
    let x := srcLanes n a.toNat
    let l0 : W32 := BitVec.ofNat 32 (2 ^ 28 + Bits.nat (srcVal n b.toNat) 27 0)
    let tc := match headOf n a.toNat with | some h => (hCtx h.hdr, hT h.hdr) | none => (0, 0)
    firePortD n d.toNat (ctrlTok 0 tc.1 0x0007 tc.2 [l0, x.get 0, x.get 1 - x.get 0]))

/-- The command that ACCRD or ACCCLR builds from its scalar (R293, R294). -/
def accCmd (op : Nat) (a : W64) : Token :=
  ctrlTok 0 0 0x0007 0 [BitVec.ofNat 32 (op * 2 ^ 28 + Bits.nat a 27 0), BitVec.ofNat 32 (Bits.nat a 47 32)]

/-- ACCRD (R293). -/
def execAccrd (t : BitVec 6) (d a : BitVec 5) (s : State) : Host.Outcome State Fault Refusal :=
  issueFire (.accrd t d a) s false (fun n => firePortD n d.toNat (accCmd 2 (srcVal n a.toNat)))
/-- ACCCLR (R294). -/
def execAccclr (t : BitVec 6) (d a : BitVec 5) (s : State) : Host.Outcome State Fault Refusal :=
  issueFire (.accclr t d a) s false (fun n => firePortD n d.toNat (accCmd 3 (srcVal n a.toNat)))

/-- A region is quiet (R296): no element operation in flight, every output queue empty but for open COAL tokens, and no
cut save in progress. -/
def regionQuiet (s : State) (r : Nat) : Bool :=
  let g := getR s r
  let empty := fun (n : Node) => (List.range 4).all (fun k => (nodePort n k).queue.isEmpty)
  empty g.helm.node && g.elems.all (fun e => e.2.ctxs.all (fun c => c.2.flight.isNone && c.2.held.isNone && empty c.2)) &&
    (match launchOf s r with | some (_, l) => l.cut.isNone | none => true)

/-- The matrix node has nothing left to do (R296). -/
def matrixDrained (g : Region) : Bool := g.mmq.isEmpty && g.mmDrain.isNone

/-- MXMODE #0 (R296). -/
def execMxmodeLeave (t : BitVec 6) (s : State) : Host.Outcome State Fault Refusal :=
  issue (.mxmodeLeave t) s (fun s =>
    let g := getR s (hereR s)
    if !g.mxmode then .done s
    else if matrixDrained g then .done (setR s (hereR s) { g with mxmode := false })
    else .wait .mxDrain s)

/-- MXMODE #1 (R296). -/
def execMxmodeEnter (t : BitVec 6) (s : State) : Host.Outcome State Fault Refusal :=
  issue (.mxmodeEnter t) s (fun s =>
    let g := getR s (hereR s)
    if g.mxmode then .done s
    else if regionQuiet s (hereR s) then .done (setR s (hereR s) { g with mxmode := true })
    else .wait .quiescent s)

/-! ## Command fields (R290) -/

/-- OP. -/
def mmOp (c : Token) : Nat := Bits.nat (c.pay.get 0) 31 28
/-- ACC. -/
def mmAcc (c : Token) : Bool := (c.pay.get 0).getLsbD 27
/-- L. -/
def mmL (c : Token) : Nat := 16 * 2 ^ Bits.nat (c.pay.get 0) 26 25
/-- M. -/
def mmM (c : Token) : Nat := 8 * (Bits.nat (c.pay.get 0) 23 20 + 1)
/-- N. -/
def mmN (c : Token) : Nat := 16 * (Bits.nat (c.pay.get 0) 19 16 + 1)
/-- AF. -/
def mmAF (c : Token) : Nat := Bits.nat (c.pay.get 0) 15 13
/-- BF. -/
def mmBF (c : Token) : Nat := Bits.nat (c.pay.get 0) 12 10
/-- K0. -/
def mmK0 (c : Token) : Nat := (c.pay.get 1).toNat
/-- K. -/
def mmK (c : Token) : Nat := (c.pay.get 2).toNat
/-- A scaled command. -/
def mmScaled (c : Token) : Bool := 3 ≤ mmAF c || 3 ≤ mmBF c

/-- Twice the element size in bytes (R289). -/
def halfBytes (f : Nat) : Nat := match f with | 0 => 8 | 1 => 4 | 2 => 4 | 3 => 2 | _ => 1

/-- BASE of MXA, MXW and MXC. -/
def mxBase (x : W64) : Nat := Bits.nat x 19 0
/-- STR. -/
def mxStr (x : W64) : Nat := Bits.nat x 51 32
/-- KW. -/
def mxKw (x : W64) : Nat := 2 ^ Bits.nat x 55 52

/-- A matrix operand register of a region. -/
def mxReg (g : Region) (k : Nat) : W64 := vGet 0 g.mx k

/-- Operand slots that a command touches. -/
def mmSlots (c : Token) (kw : Nat) : List Nat := (List.range (min (mmK c) kw)).map (fun i => (mmK0 c + i) % kw)

/-- Groups of a scaled command, absolute. -/
def mmGroups (c : Token) : List Nat := (List.range (mmK c / mmL c)).map (fun i => mmK0 c / mmL c + i)

/-- Slot of a group's scale entries. -/
def scaleSlot (c : Token) (kw g : Nat) : Nat := g * mmL c % kw / mmL c

/-- The byte ranges that an MMA command reads: space, address, length. -/
def mmReads (g : Region) (c : Token) : List (Nat × Nat × Nat) :=
  let xa := mxReg g 0
  let xw := mxReg g 1
  let xs := mxReg g 3
  let as := (mmSlots c (mxKw xa)).map (fun h => (1, mxBase xa + h * mxStr xa, (mmM c * halfBytes (mmAF c) + 1) / 2))
  let bs := (mmSlots c (mxKw xw)).map (fun h => (0, mxBase xw + h * mxStr xw, (mmN c * halfBytes (mmBF c) + 1) / 2))
  let sc := if mmScaled c then (mmGroups c).flatMap (fun q =>
    [(1, Bits.nat xs 19 0 + scaleSlot c (mxKw xa) q * 512, 4 * mmM c), (0, Bits.nat xs 51 32 + scaleSlot c (mxKw xw) q * 1024, 4 * mmN c)])
    else []
  as ++ bs ++ sc

/-- The byte ranges that an ACCRD command drains to, in C. -/
def mmDrains (g : Region) (c : Token) : List (Nat × Nat × Nat) :=
  (List.range (mmM c)).map (fun m => (2, mxBase (mxReg g 2) + m * mxStr (mxReg g 2), 4 * mmN c))

/-- A command's reserved fields are zero (R290). -/
def mmReserved (c : Token) : Bool :=
  let w := c.pay.get 0
  w.getLsbD 24 || Bits.nat w 9 0 ≠ 0 ||
    (mmOp c ≠ 1 && (mmAF c ≠ 0 || mmBF c ≠ 0 || 2 ^ 16 ≤ mmK0 c || mmK c ≠ 0)) ||
    (List.range 13).any (fun k => c.pay.get (k + 3) ≠ 0)

/-- The number of MMREF: the first condition of R290 that refuses a command. `wide`: the graph is bound by R187. -/
def mmRefused (g : Region) (wide : Bool) (c : Token) : Option Nat :=
  let fa := mmAF c
  let fb := mmBF c
  let ma := mmOp c = 1
  if !(1 ≤ mmOp c && mmOp c ≤ 3) || mmReserved c then some 1
  else if ma && (5 ≤ fa || 5 ≤ fb) then some 2
  else if ma && fa ≠ fb && !(3 ≤ fa && 3 ≤ fb) then some 3
  else if ma && 2 ^ 32 < mmK0 c + mmK c then some 4
  else if ma && mmScaled c && (mmK0 c % mmL c ≠ 0 || mmK c % mmL c ≠ 0 || mxKw (mxReg g 0) % mmL c ≠ 0 || mxKw (mxReg g 1) % mmL c ≠ 0)
  then some 5
  else if wide && mmL c ≠ 16 then some 6
  else
    let rs := if ma then mmReads g c else if mmOp c = 2 then mmDrains g c else []
    if rs.any (fun x => bufSize x.1 < x.2.1 + x.2.2) then some 7
    else if mmOp c = 2 && rs.any (fun x => inJournal x.1 x.2.1 x.2.2) then some 8
    else none

/-! ## Execution -/

/-- The matrix node of a region, as an agent. -/
def mmAgent (r : Nat) : Agent := .elem r 257 0 0

/-- The node may act: matrix mode is on, the graph runs, and the region is not stopped. -/
def mmActs (s : State) (r : Nat) : Bool :=
  let g := getR s r
  g.mxmode && graphRuns s r && !isStopped g && !g.hung && !g.frozen && !g.offline

/-- A command refused at the node: nothing of it is applied (R290, R389). -/
def mmFault (s : State) (r : Nat) (c : Token) (k : Nat) : State :=
  elemFault s (mmAgent r) { cause := 0x25, arg := k, tval := (c.pay.get 0).setWidth 64, hdr := c.hdr }

/-- R187 binds the graph of a region. -/
def mmWide (s : State) (r : Nat) : Bool := match launchOf s r with | some (_, l) => l.wide | none => false

/-- An operand element: the code of INT4a is a nibble, element 2i in bits 3 to 0 (R289). -/
def mmElem (m : Mem) (base f i : Nat) : Nat :=
  match f with
  | 0 => memNat m (base + 4 * i) 4
  | 1 => memNat m (base + 2 * i) 2
  | 2 => memNat m (base + 2 * i) 2
  | 3 => memNat m (base + i) 1
  | _ => memNat m (base + i / 2) 1 / 16 ^ (i % 2) % 16

/-- A floating operand as FP32, with a BF16 or FP16 operand of exponent 0 read as a zero of its sign (R194). -/
def mmFloat (f x : Nat) : Nat × BitVec 5 :=
  let t : FFmt := if f = 1 then bf16 else f16
  if f = 0 then (x, 0)
  else
    let x := if x / 2 ^ t.fb % 2 ^ t.eb = 0 then x / 2 ^ 15 * 2 ^ 15 else x
    if f = 1 then (x * 2 ^ 16, 0) else fConv f32 f16 0 false x

/-- One step of an accumulator over floating operands (R198). -/
def mmStep (fa fb : Nat) (acc : Nat × BitVec 5) (a b : Nat) : Nat × BitVec 5 :=
  let x := mmFloat fa a
  let y := mmFloat fb b
  let z := fFma f32 0 false x.1 y.1 acc.1
  (z.1, acc.2 ||| x.2 ||| y.2 ||| z.2)

/-- One group of an accumulator over codes: three roundings (R199). -/
def mmGroup (acc : Nat × BitVec 5) (sa sb : Nat) (sum : Int) : Nat × BitVec 5 :=
  let x := fConv f32 f16 0 false (sa % 2 ^ 16)
  let y := fConv f32 f16 0 false (sb % 2 ^ 16)
  let p := fMul f32 0 x.1 y.1
  let q := fMul f32 0 p.1 (fOfInt f32 0 sum).1
  let z := fAdd f32 0 acc.1 q.1
  (z.1, acc.2 ||| x.2 ||| y.2 ||| p.2 ||| q.2 ||| z.2)

/-- Zero point of a scale entry in a code format (R185, R289). -/
def mmZero (f x : Nat) : Nat := if f = 4 then x / 2 ^ 16 % 16 else x / 2 ^ 16 % 256

/-- Steps in which a command's operands are added: k by k, or group by group (R198, R199). -/
def mmSteps (c : Token) : Nat := if mmScaled c then mmK c / mmL c else mmK c

/-- Step `i` of accumulator (m, n), whose value is `old`: the new value and the exceptions of the update (R292). -/
def mmAccum (g : Region) (c : Token) (m n i old : Nat) : Nat × BitVec 5 :=
  let ma := (getBuf g 1).mem
  let mb := (getBuf g 0).mem
  let xa := mxReg g 0
  let xw := mxReg g 1
  let xs := mxReg g 3
  let ea := fun k => mmElem ma (mxBase xa + k % mxKw xa * mxStr xa) (mmAF c) m
  let eb := fun k => mmElem mb (mxBase xw + k % mxKw xw * mxStr xw) (mmBF c) n
  let acc := (if i = 0 && !mmAcc c then 0 else old, (0 : BitVec 5))
  if mmScaled c then
    let q := mmK0 c / mmL c + i
    let sa := memNat ma (Bits.nat xs 19 0 + (scaleSlot c (mxKw xa) q * 128 + m) * 4) 4
    let sb := memNat mb (Bits.nat xs 51 32 + (scaleSlot c (mxKw xw) q * 256 + n) * 4) 4
    let sum := (List.range (mmL c)).foldl (fun (t : Int) i =>
      let k := q * mmL c + i
      t + ((ea k : Int) - (mmZero (mmAF c) sa : Int)) * ((eb k : Int) - (mmZero (mmBF c) sb : Int))) 0
    mmGroup acc sa sb sum
  else mmStep (mmAF c) (mmBF c) acc (ea (mmK0 c + i)) (eb (mmK0 c + i))

/-- The numbers of the accumulators of a command: 256 m + n. -/
def mmCells (c : Token) : List (Nat × Nat) :=
  (List.range (mmM c)).flatMap (fun m => (List.range (mmN c)).map (fun n => (m, n)))

/-- An accumulator; unlisted ones are +0. -/
def accGet (g : Region) (m n : Nat) : W32 := aGet 0 g.acc (256 * m + n)
/-- Writes an accumulator; +0 is not listed. -/
def accSet (l : Assoc W32) (m n : Nat) (x : W32) : Assoc W32 :=
  if x = 0 then aDel l (256 * m + n) else aSet l (256 * m + n) x

/-- The command at the head of the queue has been executed (R292). -/
def mmDone (g : Region) (q : List Token) : Region :=
  { g with mmq := q, mmAt := 0, mmaCount := g.mmaCount + 1, moved := true, counters := bump g.counters 3 }

/-- The next step of an MMA command, in the elements of its tile (R83, R292). -/
def mmExec (g : Region) (c : Token) : Region :=
  let f := fun (x : Assoc W32 × BitVec 5) (mn : Nat × Nat) =>
    let y := mmAccum g c mn.1 mn.2 g.mmAt (accGet g mn.1 mn.2).toNat
    (accSet x.1 mn.1 mn.2 (BitVec.ofNat 32 y.1), x.2 ||| y.2)
  let r := (mmCells c).foldl f (g.acc, g.sticky)
  { g with acc := r.1, sticky := r.2, mmAt := g.mmAt + 1, moved := true, mmNow := (mmN c / 16, mmM c / 8) }

/-- Clears the accumulators of a command (R292 to R294). -/
def accClear (l : Assoc W32) (c : Token) : Assoc W32 :=
  l.filter (fun e => !(e.1 / 256 < mmM c && e.1 % 256 < mmN c))

/-- The bytes that the next step of a command reads: space, address, length. -/
def mmStepReads (g : Region) (c : Token) : List (Nat × Nat × Nat) :=
  mmReads g (if mmScaled c then { c with pay := Lanes.ofList [c.pay.get 0, BitVec.ofNat 32 (mmK0 c + g.mmAt * mmL c), BitVec.ofNat 32 (mmL c)] }
    else { c with pay := Lanes.ofList [c.pay.get 0, BitVec.ofNat 32 (mmK0 c + g.mmAt), 1] })

/-- The lines of byte ranges, for the tests of banks and poison. -/
def rangeLines (l : List (Nat × Nat × Nat)) : List (Nat × Nat × Nat) :=
  l.flatMap (fun x => (List.range ((x.2.1 + x.2.2 + 63) / 64 - x.2.1 / 64)).map (fun k => (x.1, 0, 64 * (x.2.1 / 64 + k))))

/-- The first refusal of a bank or a poisoned row that the node's reads meet (R123, R413). -/
def mmReadTest (s : State) (r : Nat) (l : List (Nat × Nat × Nat)) : Option Acc :=
  (rangeLines l).findSome? (fun x => bufReadTest s r x.1 [(0, x.2.2)])

/-- The banks of byte ranges, each once. -/
def rangeBanks (l : List (Nat × Nat × Nat)) : List Nat := ((rangeLines l).map (fun x => bankOf x.1 x.2.2)).eraseDups

/-- A step of the feed, or the drain, has asked each bank that it meets for one row (R119, R206; log 100). -/
def mmServed (s : State) (r : Nat) (before : List Nat) (l : List (Nat × Nat × Nat)) : State :=
  let s := setR s r { getR s r with bankNow := before }
  (rangeBanks l).foldl (fun s b => bankServed s r b) s

/-- MATRIX_MMA: the next step of the command at the head of the queue; its operands are read as they stand then, and with
the last step the command has been executed (R292, R295). A command with K = 0 clears its accumulators where ACC is 0. -/
def execMatrixMma (r : Nat) (s : State) : Host.Outcome State Fault Refusal :=
  let s := { s with agent := mmAgent r }
  let g := getR s r
  match g.mmq with
  | [] => .next s
  | c :: q =>
    if !mmActs s r || hKind c.hdr ≠ 1 || mmOp c = 2 || mmOp c = 3 then .next s
    else match (if g.mmAt = 0 then mmRefused g (mmWide s r) c else none) with
      | some k => .next (mmFault s r c k)
      | none =>
        if mmSteps c = 0 then .next (setR s r (mmDone { g with acc := if mmAcc c then g.acc else accClear g.acc c } q))
        else match mmReadTest s r (mmStepReads g c) with
          | some (.bad t) => .next (elemFault s (mmAgent r) t)
          | some (.busy s) => .next s
          | some (.ok s) => .next s
          | some (.absent pa) => .fault (.absentMemory pa)
          | none =>
            let g := mmExec (getR (mmServed s r g.bankNow (mmStepReads g c)) r) c
            .next (setR s r (if g.mmAt < mmSteps c then g else mmDone g q))

/-- The rows of a drained tile: address and bytes. -/
def drainRows (g : Region) (c : Token) : List (Nat × List Byte) :=
  (List.range (mmM c)).map (fun m => (mxBase (mxReg g 2) + m * mxStr (mxReg g 2),
    (List.range (mmN c)).flatMap (fun n => Bits.bytesOf 4 (accGet g m n).toNat)))

/-- The response of a drain (R293): T and CTX stand nowhere in the manual (log 19). -/
def respTok (g : Region) (c : Token) (fresh : Nat) : Token :=
  let p := Config.respPlace fresh
  ctrlTok 0 (Bits.nat p 39 36) 0x0007 (Bits.nat p 35 0) [BitVec.ofNat 32 (mmK0 c), g.sticky.setWidth 32, g.mmaCount]

/-- MATRIX_ACCRD: the accumulators are drained to the C-buffer row by row, cleared where ACC is set, and the sticky flags
and the count go into the response (R293). -/
def execMatrixAccrd (r : Nat) (s : State) : Host.Outcome State Fault Refusal :=
  let s := { s with agent := mmAgent r }
  let g := getR s r
  match g.mmq with
  | [] => .next s
  | c :: q =>
    if !mmActs s r || hKind c.hdr ≠ 1 || mmOp c ≠ 2 || g.mmDrain.isSome then .next s
    else match mmRefused g (mmWide s r) c with
      | some k => .next (mmFault s r c k)
      | none =>
        match wakeHold s r ((rangeLines (mmDrains g c)).map (fun x => (2, x.2.2))) with
        | some s => .next (setR s r { getR s r with mmBlocked := true })
        | none =>
          let items := (drainRows g c).flatMap (fun x => splitLines x.1 x.2)
          match storeMany (fun s w => bufStore s r 2 w.1 w.2 false) items s none with
          | (.ok _, some t) => .next (elemFault s (mmAgent r) t)
          | (.bad t, _) => .next (elemFault s (mmAgent r) t)
          | (.ok s', none) =>
            let f := freshen (mmServed s' r g.bankNow (mmDrains g c))
            let g' := getR f.2 r
            .next (setR f.2 r { g' with mmq := q, mmDrain := some (respTok g c f.1), sticky := 0, mmaCount := 0, moved := true,
                                        acc := if mmAcc c then accClear g'.acc c else g'.acc })
          | (.absent pa, _) => .fault (.absentMemory pa)
          | (.busy _, _) => .next s

/-- ACCRD_RESPONSE: every drained write has performed, and the node fires the response on the output that the CTRL record
names; with none it is dropped (R293). -/
def execAccrdResponse (r : Nat) (s : State) : Host.Outcome State Fault Refusal :=
  let g := getR s r
  match g.mmDrain with
  | none => .next s
  | some t =>
    let o : OutTok := { tok := t, copies := [(g.mmResp, t)], pos := 0, new := false }
    .next (setR s r { g with mmDrain := none, mmOut := if g.mmResp.getLsbD 44 then g.mmOut ++ [o] else g.mmOut })

/-- MATRIX_ACCCLR (R294). -/
def execMatrixAccclr (r : Nat) (s : State) : Host.Outcome State Fault Refusal :=
  let g := getR s r
  match g.mmq with
  | [] => .next s
  | c :: q =>
    if !mmActs s r || hKind c.hdr ≠ 1 || mmOp c ≠ 3 then .next s
    else match mmRefused g (mmWide s r) c with
      | some k => .next (mmFault s r c k)
      | none => .next (setR s r { g with mmq := q, acc := accClear g.acc c, sticky := 0, moved := true })

end Sys2Proof.Machine
end

