-- ==== Sys2Proof/Machine/ControlOps.lean ====
section
/-!
DEFINITION. Control flow, traps and breaks, messages, SYSC and YIELD (R315 to R323).
-/

namespace Sys2Proof.Machine

/-- Writes a scalar D, or discards the value where D is z (R241). -/
def putD (s : State) (d : Nat) (v : W64) : State :=
  let n := here s
  if classOf d = 2 then setHere s { n with regs := setS n.regs (d - 8) v } else s

/-- An effect of a helm core; the static checks keep the instructions that use it out of elements (R230). -/
def onHelm (f : State → Nat → Helm → Effect) (s : State) : Effect :=
  match s.agent with
  | .helm r => f s r (getH s r)
  | .elem .. => .done s

/-! ## Program flow (R315 to R318) -/

/-- A byte offset from a signed word offset, modulo 2²⁰: the PC has 20 bits (R446). -/
def pcPlus {w : Nat} (pc : BitVec 20) (off : BitVec w) : BitVec 20 := pc + 4 * off.signExtend 20

/-- A taken branch, with its BRANCH record (R214). -/
def branchTo (s : State) (r : Nat) (pc target : BitVec 20) : Effect := .jump (wake s r 1 pc.toNat target.toNat) target

/-- BR (R316). -/
def execBr (t : BitVec 6) (o : BitVec 18) (s : State) : Host.Outcome State Fault Refusal :=
  issue (.br t o) s (onHelm (fun s r h => branchTo s r h.pc (pcPlus h.pc o)))

/-- CALL (R316). -/
def execCall (t : BitVec 6) (o : BitVec 18) (s : State) : Host.Outcome State Fault Refusal :=
  issue (.call t o) s (onHelm (fun s r h => branchTo (putD s 15 ((h.pc + 4).setWidth 64)) r h.pc (pcPlus h.pc o)))

/-- RET of a scalar (R316): the low 20 bits become the PC (log 22). -/
def execRet (t : BitVec 6) (a : BitVec 5) (s : State) : Host.Outcome State Fault Refusal :=
  issue (.ret t a) s (onHelm (fun s r h => branchTo s r h.pc ((srcVal h.node a.toNat).setWidth 20)))

/-- RET z: the return from a trap (R316, R319). -/
def execRetZ (t : BitVec 6) (s : State) : Host.Outcome State Fault Refusal :=
  issue (.retZ t) s (onHelm (fun s r h => branchTo (setH s r (leaveTrap h)) r h.pc (leaveTrap h).pc))

/-- LOOP (R317). -/
def execLoop (t : BitVec 6) (d : BitVec 5) (i : BitVec 8) (s : State) : Host.Outcome State Fault Refusal :=
  issue (.loop t d i) s (onHelm (fun s r h =>
    let v := srcVal h.node d.toNat
    if v = 0 then .done s
    else if v = 1 then .done (putD s d.toNat 0)
    else branchTo (putD s d.toNat (v - 1)) r h.pc (pcPlus h.pc i)))

/-- What HALT waits for: every access performed, every copy complete, every output queue empty (R318). -/
def haltReady (h : Helm) : Bool :=
  h.outstanding.isEmpty && h.copies.isEmpty && (List.range 4).all (fun k => (nodePort h.node k).queue.isEmpty && (nodePort h.node k).coal.isNone)

/-- HALT (R318): the messages left are discarded. -/
def execHalt (t : BitVec 6) (s : State) : Host.Outcome State Fault Refusal :=
  issue (.halt t) s (onHelm (fun s r h =>
    if haltReady h then .done (setH s r { h with halted := true, recv := [] }) else .wait .halt s))

/-- The events YIELD waits for (R318): a message, IPTIM, a migration request, heads on i0 to i3. -/
def yieldSet (h : Helm) : Nat :=
  packFields ([(0, 1, if h.recv.isEmpty then 0 else 1), (1, 1, if h.status.getLsbD 9 then 1 else 0), (2, 1, if h.migPosted then 1 else 0)] ++
    (List.range 4).map (fun k => (4 + k, 1, if (pairHead (nodePair h.node k)).isSome then 1 else 0)))

/-- YIELD (R318). -/
def execYield (t : BitVec 6) (d : BitVec 5) (s : State) : Host.Outcome State Fault Refusal :=
  issue (.yield t d) s (onHelm (fun s _ h =>
    if yieldSet h = 0 then .wait .yield s else .done (putD s d.toNat (BitVec.ofNat 64 (yieldSet h)))))

/-! ## TRAP and BRK (R210, R320) -/

/-- TRAP (R320): in a helm core a trap with hs.epc = PC + 4; in an element a fabric fault. It writes nothing of its own
(R368, R369). -/
def execTrap (t : BitVec 6) (c : BitVec 13) (s : State) : Host.Outcome State Fault Refusal :=
  issue (.trap t c) s (fun s =>
    let x : Trap := { cause := 0x01, arg := c.toNat, tval := 0, hdr := 0 }
    match s.agent with
    | .helm r => .hold (syncTrap s r 1 x (((getH s r).pc + 4).setWidth 64))
    | .elem .. => .trap x)

/-- hs.tval of a BREAK, and of the trap of a precise re-run, which has no stop source (R210, R371). -/
def stopTval (node : W32) (e c slot src : Nat) : W64 :=
  BitVec.ofNat 64 (packFields [(0, 32, node.toNat), (32, 9, e), (41, 4, c), (45, 5, slot), (50, 3, src)])

/-- Asks for a stop: after the present cycle the region may still fire for 4, none in precise mode, and a later request does
not lengthen that (R210, R212, R320). -/
def askStop (s : State) (r src arg e c slot : Nat) : State := setR s r (askGrace (getR s r) (src, arg, e, c, slot))

/-- BW of a SAMPLE or STOP record but for its low bits (R214). -/
def placeWord64 (e c slot low : Nat) : Nat := packFields [(28, 9, e), (24, 4, c), (19, 5, slot), (0, 7, low)]

/-- BRK completes, and asks for the stop of its region, which writes the STOP record (R210, R214, R320). In a helm core the
BREAK trap is taken at once, with hs.epc = PC + 4; an element's is left to the stop. -/
def execBrk (t : BitVec 6) (c : BitVec 13) (s : State) : Host.Outcome State Fault Refusal :=
  issue (.brk t c) s (fun s =>
    let s := finish s (wordOf (.brk t c)) (trigHere s t.toNat).1 none
    let a := agentAt s.agent
    let s := askStop s a.1 4 c.toNat a.2.1 a.2.2.1 a.2.2.2
    match s.agent with
    | .elem .. => .hold s
    | .helm r =>
      let x : Trap := { cause := 0x02, arg := c.toNat, tval := stopTval (nodeNum s r 256 0 0) 256 0 0 4, hdr := 0 }
      .hold (syncTrap s r 0 x ((getH s r).pc.setWidth 64)))

/-! ## SYSC (R321) -/

/-- A service: the argument gives the state and the result. -/
def syscOp (d : Nat) (f : State → Nat → W64 → State × W64) : State → Effect :=
  onHelm (fun s r h => let x := f s r (srcVal h.node d); .done (putD x.1 d x.2))

/-- SYSC 0, ECHO. -/
def execSyscEcho (t : BitVec 6) (d : BitVec 5) (s : State) : Host.Outcome State Fault Refusal :=
  issue (.syscEcho t d) s (syscOp d.toNat (fun s _ x => (s, x)))

/-- SYSC 1, SNAP: an early SNAP is asked for unless a cut is in flight. -/
def execSyscSnap (t : BitVec 6) (d : BitVec 5) (s : State) : Host.Outcome State Fault Refusal :=
  issue (.syscSnap t d) s (syscOp d.toNat (fun s r _ =>
    match launchOf s r with
    | some (l, x) => if x.cut.isNone then (setL s l { x with wantSnap := true }, 1) else (s, 0)
    | none => (s, 0)))

/-- SYSC 2, SEDIMENT: a USER record of the caller's partition and its copy in the sediment record (R420, R430). -/
def execSyscSediment (t : BitVec 6) (d : BitVec 5) (s : State) : Host.Outcome State Fault Refusal :=
  issue (.syscSediment t d) s (syscOp d.toNat (fun s r x =>
    (faultRec s r 256 0 0 1 0 0 { cause := 0x8C, arg := 0, tval := x, hdr := 0 }, 0)))

/-- Launches that wait in a queue of a partition, pre-empted ones included (R321, R444). -/
def queueDepth (s : State) (part q : Nat) : Nat :=
  (s.launches.filter (fun e => e.2.part == part && 4 * e.2.prio + e.2.qsel == q &&
    (e.2.phase == .waiting || e.2.phase == .preempted))).length

/-- SYSC 3, QDEPTH. -/
def execSyscQdepth (t : BitVec 6) (d : BitVec 5) (s : State) : Host.Outcome State Fault Refusal :=
  issue (.syscQdepth t d) s (syscOp d.toNat (fun s r x =>
    (s, BitVec.ofNat 64 (queueDepth s (partOf s r) (Bits.nat x 3 0)))))

/-- SYSC with an unassigned code: all ones (R321, R393). -/
def execSyscUnassigned (t : BitVec 6) (d : BitVec 5) (code : BitVec 13) (s : State) : Host.Outcome State Fault Refusal :=
  issue (.syscUnassigned t d code) s (syscOp d.toNat (fun s _ _ => (s, 0xFFFFFFFFFFFFFFFF)))

/-! ## Messages (R322, R323) -/

/-- MSGTGT (R390). -/
def msgTgt (b : W64) : Trap := { cause := 0x28, arg := 0, tval := b, hdr := 0 }

/-- The region of a launch whose helm core has a logical id (R4, R116). -/
def coreOf (s : State) (r lid : Nat) : Option Nat := (graphOf s r).find? (fun q => (getH s q).lid == lid)

/-- The target that b names: a core of the same launch. -/
def msgTarget (s : State) (r : Nat) (b : W64) : Except Trap Nat :=
  if 256 ≤ b.toNat then .error (msgTgt b)
  else match coreOf s r b.toNat with
    | some q => .ok q
    | none => .error (msgTgt b)

/-- The message as it arrives: lane 15 is the sender's logical id. -/
def msgWith (x : Lanes) (lid : Nat) : Lanes := Lanes.ofFn (fun k => if k = 15 then BitVec.ofNat 32 lid else x.get k)

/-- Puts a message into a core's queue, and counts it as sent. -/
def msgPut (s : State) (r q : Nat) (x : Lanes) : State :=
  let m := msgWith x (getH s r).lid
  let s := setH s q { getH s q with recv := (getH s q).recv ++ [m] }
  setH s r (countH (getH s r) 4)

/-- SENDM (R322): to a halted target it completes without delivery. -/
def execSendm (t : BitVec 6) (a b : BitVec 5) (s : State) : Host.Outcome State Fault Refusal :=
  issue (.sendm t a b) s (onHelm (fun s r h =>
    match msgTarget s r (srcVal h.node b.toNat) with
    | .error x => .trap x
    | .ok q =>
      let sent := fun (s : State) => setH s r { getH s r with sendAbort := none }
      if (getH s q).halted then .done (sent s)
      else if 64 ≤ (getH s q).recv.length then .wait .msgSend s
      else .done (sent (msgPut s r q (srcLanes h.node a.toNat)))))

/-- SENDMT (R322): 0 sent, 1 queue full, 2 target halted. -/
def execSendmt (t : BitVec 6) (d a b : BitVec 5) (s : State) : Host.Outcome State Fault Refusal :=
  issue (.sendmt t d a b) s (onHelm (fun s r h =>
    match msgTarget s r (srcVal h.node b.toNat) with
    | .error x => .trap x
    | .ok q =>
      if (getH s q).halted then .done (putD s d.toNat 2)
      else if 64 ≤ (getH s q).recv.length then .done (putD s d.toNat 1)
      else .done (putD (msgPut s r q (srcLanes h.node a.toNat)) d.toNat 0)))

/-- RECVM (R322); a place frees, and a HELM demand that waits may be posted (R271). -/
def execRecvm (t : BitVec 6) (d : BitVec 5) (s : State) : Host.Outcome State Fault Refusal :=
  issue (.recvm t d) s (onHelm (fun s r h =>
    match h.recv with
    | [] => .wait .msgRecv s
    | m :: ms => .done (postAsked (setH s r { countH h 5 with
        node := { h.node with regs := setV h.node.regs d.toNat m }, recv := ms }) r)))

end Sys2Proof.Machine
end

