-- ==== Sys2Proof/Machine/SystemOps.lean ====
section
/-!
DEFINITION. System registers (R123, R209, R212, R324 to R327, R398), moving a context (R330), fences in programs (R332,
R333), counters, traces, migration points, the timer and identity (R334 to R338).
-/

namespace Sys2Proof.Machine

/-! ## Reading registers (R325) -/

/-- hs.status as it reads: the stored fields, MSGCNT, IPMIG, IPMSG and PREC (R326). -/
def statusRead (g : Region) (h : Helm) : W64 :=
  h.status ||| BitVec.ofNat 64 (packFields [(16, 7, h.recv.length), (10, 1, if h.migPosted then 1 else 0),
    (8, 1, if h.recv.isEmpty then 0 else 1), (2, 1, if isPrec g then 1 else 0)])

/-- The supported feature set (R21). -/
def featSet : Nat := 0x7FF

/-- hs.wake (R215). -/
def wakeReg (g : Region) : W64 :=
  BitVec.ofNat 64 (packFields [(0, 12, g.ringNext), (31, 1, if g.ringFrozen then 1 else 0), (32, 32, g.ringWraps)])

/-- hs.still: LIMIT and HUNG. -/
def stillReg (g : Region) : W64 := BitVec.ofNat 64 (packFields [(0, 32, g.helm.stillLimit.toNat), (32, 1, if g.hung then 1 else 0)])

/-- The value a selector reads. -/
def csrRead (s : State) (r sel : Nat) : W64 :=
  let g := getR s r
  let h := g.helm
  match sel with
  | 0 => statusRead g h
  | 1 => h.cause
  | 2 => h.epc
  | 3 => h.tval
  | 4 => h.trapvec
  | 5 => h.node.regs.fp
  | 6 => (nodeNum s r 256 0 0).setWidth 64
  | 7 => BitVec.ofNat 64 (packFields [(0, 8, h.lid), (8, 2, (physOf s r).1), (10, 7, (physOf s r).2)])
  | 8 => BitVec.ofNat 64 (partOf s r)
  | 9 => stillReg g
  | 10 => BitVec.ofNat 64 (areaOf (getP s (partOf s r)) 5).1
  | 11 => wakeReg g
  | 12 => BitVec.ofNat 64 featSet
  | 13 => BitVec.ofNat 64 s.now
  | 0x20 => g.bgate.setWidth 64
  | 0x21 => g.obsctl
  | 0x2C => g.kvlim.setWidth 64
  | k =>
    if 0x10 ≤ k && k ≤ 0x17 then h.lids.getD (k - 0x10) 0
    else if 0x22 ≤ k && k ≤ 0x25 then vGet 0 g.obsbk (k - 0x22)
    else if 0x28 ≤ k && k ≤ 0x2B then mxReg g (k - 0x28)
    else 0

/-- CSRR (R324). -/
def execCsrr (t : BitVec 6) (d : BitVec 5) (x : BitVec 13) (s : State) : Host.Outcome State Fault Refusal :=
  issue (.csrr t d x) s (onHelm (fun s r _ => .done (putD s d.toNat (csrRead s r x.toNat))))

/-! ## Bank gates (R123, R414) -/

/-- The word lies in a bank. -/
def inBank (b sp a : Nat) : Bool := bankOf sp a == b

/-- Gating discards a bank's contents: it reads as zero with every presence bit empty. -/
def bankClear (g : Region) (b : Nat) : Region :=
  let sp := b / 16
  let x := getBuf g sp
  { g with bufs := vSet g.bufs sp { mem := x.mem.filter (fun c => !inBank b sp c.1), full := x.full.filter (fun w => !inBank b sp w),
                                    poison := x.poison.filter (fun l => !inBank b sp (64 * l)) } }

/-- The armed access stands at a bank of a region, or waits for a place there: the address concerned. -/
def armAtBank (r b : Nat) (a : Arm) : Option Nat :=
  if a.space = 3 || agentR a.who ≠ r then none
  else match (a.need ++ a.more).find? (fun w => inBank b a.space w.2) with
    | some w => some w.2
    | none => if a.need.isEmpty && a.more.isEmpty && inBank b a.space a.addr then some a.addr else none

/-- A bank is gated: its contents go, and each access that it holds takes BANKGATED, whether it waits for the bank to wake or
stands deferred in it: a helm core's load at the first use of its register, any other as it is tried again (R123, R414). -/
def bankGate (s : State) (r b : Nat) : State :=
  let g := bankClear (getR s r) b
  let here_ := s.arms.filter (fun a => a.released.isNone && (armAtBank r b a).isSome)
  let stays := here_.filterMap (fun a => match a.who, a.kind with
    | .helm _, .read | .helm _, .atomic => none
    | w, _ => some w)
  let held := (g.bankHeld.filter (fun x => x.2 == b)).map (·.1)
  let s := setR s r { g with bgate := g.bgate ||| BitVec.ofNat 48 (2 ^ b), waking := g.waking &&& ~~~(BitVec.ofNat 48 (2 ^ b)),
                             bankHeld := g.bankHeld.filter (fun x => x.2 != b),
                             bankBad := g.bankBad ++ (held ++ stays).map (fun w => (w, b, 0x6A)) }
  here_.foldl (fun s a =>
    let s := delArm s a
    match a.who, a.kind with
    | .helm _, .read | .helm _, .atomic => outFail s r a.word (mkTrap 0x6A b ((armAtBank r b a).getD 0))
    | _, _ => s) s

/-- A gate bit is cleared: the bank starts to wake (R123). -/
def bankWake (s : State) (r b : Nat) : State :=
  let g := getR s r
  setR s r { g with bgate := g.bgate &&& ~~~(BitVec.ofNat 48 (2 ^ b)), waking := g.waking ||| BitVec.ofNat 48 (2 ^ b) }

/-- A write of the bank gate mask. -/
def bgateSet (s : State) (r : Nat) (v : W64) : State :=
  (List.range 48).foldl (fun s b =>
    let old := (getR s r).bgate.getLsbD b
    if v.getLsbD b && !old then bankGate s r b else if !v.getLsbD b && old then bankWake s r b else s) s

/-- BANK_WAKE_END: a woken bank passes its self-test and serves what it held, in arrival order (`bankBefore`), or stays gated,
and the accesses that it held take BANKWAKE (R123, R415). -/
def execBankWakeEnd (r bank : Nat) (ok : Bool) (s : State) : Host.Outcome State Fault Refusal :=
  let g := getR s r
  if 48 ≤ bank || !g.waking.getLsbD bank then .next s
  else
    let m : BitVec 48 := BitVec.ofNat 48 (2 ^ bank)
    let held := g.bankHeld.filter (fun x => x.2 == bank)
    let g := { g with waking := g.waking &&& ~~~m }
    if ok then .next (setR s r g)
    else .next (setR s r { g with bgate := g.bgate ||| m, bankBad := g.bankBad ++ held.map (fun x => (x.1, bank, 0x6B)), bankHeld := g.bankHeld.filter (fun x => x.2 != bank),
                                  bufErrTimes := if held.isEmpty then g.bufErrTimes ++ [s.now] else g.bufErrTimes })

/-! ## Writing registers (R324) -/

/-- STOP and STEP of a region, and its sample period (R209). Resuming clears nothing else. -/
def obsStop (s : State) (r : Nat) (stop : Bool) : State :=
  let g := getR s r
  setR s r { g with obsctl := Bits.put g.obsctl 1 1 (if stop then 1 else 0) }
/-- STEP. -/
def obsStep (s : State) (r : Nat) (b : Bool) : State :=
  let g := getR s r
  setR s r { g with obsctl := Bits.put g.obsctl 3 1 (if b then 1 else 0) }
/-- SPER: a new period starts to count. -/
def obsSper (s : State) (r v : Nat) : State :=
  let g := getR s r
  if Bits.nat g.obsctl 39 32 = v then s else setR s r { g with obsctl := Bits.put g.obsctl 32 8 v, sinceSample := 0 }
/-- An allowed SPER: 0 or 10 to 24 (R209). -/
def sperOk (v : Nat) : Bool := v == 0 || (10 ≤ v && v ≤ 24)

/-- PREC is one setting of a whole graph, and pins every region of it to 150 MHz; a fixed clock returns as it is cleared. As it is
set the context counter and the order of the elements begin anew, so that a precise run depends on nothing before it
(R101, R212; log 102). -/
def obsPrec (s : State) (r : Nat) (b : Bool) : State :=
  (graphOf s r).foldl (fun s q =>
    let g := getR s q
    let clock := if b then 0 else if isPrec g && g.gfix then g.gclk else g.clock
    let g := if b && !isPrec g then { g with lastElem := 255, ctxCounter := 0 } else g
    setR s q { g with obsctl := Bits.put g.obsctl 2 1 (if b then 1 else 0), clock := clock }) s

/-- A breakpoint word; its count starts again (R209). -/
def obsBreak (s : State) (r k : Nat) (v : W64) : State :=
  let g := getR s r
  setR s r { g with obsbk := vSet g.obsbk k (v &&& 0xFFFFFFFFFFFFF000), bkCount := vSet g.bkCount k 0 }

/-- hs.still: LIMIT; the region thaws, its count starts again (R398). -/
def stillSet (s : State) (r : Nat) (v : W64) : State :=
  let g := getR s r
  setR s r { g with helm := { g.helm with stillLimit := v.setWidth 32 }, hung := false, still := 0, hangMap := 0 }

/-- Reserved bits of MXA, MXW, MXC and MXS (R289). -/
def mxReserved (k : Nat) : W64 :=
  if k = 3 then 0xFFF00000FFF00000 else if k = 2 then 0xFFF00000FFF00000 else 0xFF000000FFF00000

/-- A matrix operand register. -/
def mxSet (s : State) (r k : Nat) (v : W64) : State :=
  let g := getR s r
  setR s r { g with mx := vSet g.mx k v }

/-- hs.status: IE, PIE and the enables are replaced, IPTIM is cleared by a 1 (R326). -/
def statusWrite (old v : W64) : W64 := (old &&& ~~~(0x73 : W64) &&& ~~~(v &&& 0x200)) ||| (v &&& 0x73)

/-- Writable bits of hs.cause (R327). -/
def causeMask : W64 := 0xE0FF1FFF

/-- A write of one of the hs registers that have no behaviour of their own. -/
def hsSet (h : Helm) (sel : Nat) (v : W64) : Helm :=
  match sel with
  | 0 => { h with status := statusWrite h.status v }
  | 1 => { h with cause := v &&& causeMask }
  | 2 => { h with epc := v &&& 0xFFFFF }
  | 3 => { h with tval := v }
  | 4 => { h with trapvec := v &&& 0xFFFFF }
  | 5 => { h with node := { h.node with regs := { h.node.regs with fp := v &&& fpWritable } } }
  | _ => h

/-- A selector has a writable field (R324, R325). -/
def csrWritable (sel : Nat) : Bool :=
  sel ≤ 5 || sel == 9 || (0x20 ≤ sel && sel ≤ 0x25) || (0x28 ≤ sel && sel ≤ 0x2B)

/-- The value that a write would put there is refused (R390). -/
def csrBad (sel : Nat) (v : W64) : Bool :=
  !csrWritable sel ||
  (sel == 4 && Bits.nat v 19 0 != 0 && (Bits.nat v 19 0 % 4 != 0 || Bits.nat v 19 0 < 512)) ||
  (sel == 0x20 && Bits.nat v 63 48 != 0) ||
  (sel == 0x21 && !sperOk (Bits.nat v 39 32)) ||
  (0x28 ≤ sel && sel ≤ 0x2B && v &&& mxReserved (sel - 0x28) != 0)

/-- A write of a register that is allowed. -/
def csrSet (s : State) (r sel : Nat) (v : W64) : State :=
  if sel ≤ 5 then setH s r (hsSet (getH s r) sel v)
  else if sel = 9 then stillSet s r v
  else if sel = 0x20 then bgateSet s r v
  else if sel = 0x21 then
    obsPrec (obsStop (obsStep (obsSper s r (Bits.nat v 39 32)) r (v.getLsbD 3)) r (v.getLsbD 1)) r (v.getLsbD 2)
  else if sel ≤ 0x25 then obsBreak s r (sel - 0x22) v
  else mxSet s r (sel - 0x28) v

/-- A write of a matrix operand register waits until every command has been added and drained (R324). -/
def csrWaits (g : Region) (sel : Nat) : Bool := 0x28 ≤ sel && sel ≤ 0x2B && !matrixDrained g

/-- CSRW (R324). -/
def execCsrw (t : BitVec 6) (d : BitVec 5) (x : BitVec 13) (s : State) : Host.Outcome State Fault Refusal :=
  issue (.csrw t d x) s (onHelm (fun s r h =>
    let v := srcVal h.node d.toNat
    if csrBad x.toNat v then .trap { cause := 0x27, arg := x.toNat, tval := v, hdr := 0 }
    else if csrWaits (getR s r) x.toNat then .wait .mxDrain s
    else .done (csrSet s r x.toNat v)))

/-! ## The headwater's writes of the same registers (R209, R212) -/

/-- A write by the headwater: as CSRW, but a refused one leaves the register as it is. -/
def headWrite (s : State) (r sel : Nat) (v : W64) : State :=
  if csrBad sel v || csrWaits (getR s r) sel then s else csrSet s r sel v

/-- BGATE_WRITE (R123). -/
def execBgateWrite (r : Nat) (v : BitVec 64) (s : State) : Host.Outcome State Fault Refusal := .next (headWrite s r 0x20 v)
/-- OBSCTL_STOP_WRITE (R209). -/
def execObsctlStopWrite (r : Nat) (stop : Bool) (s : State) : Host.Outcome State Fault Refusal := .next (obsStop s r stop)
/-- OBSCTL_PREC_WRITE (R212). -/
def execObsctlPrecWrite (r : Nat) (prec : Bool) (s : State) : Host.Outcome State Fault Refusal := .next (obsPrec s r prec)
/-- OBSCTL_SPER_WRITE (R209): a period outside 0 and 10 to 24 leaves the word unchanged. -/
def execObsctlSperWrite (r : Nat) (sper : BitVec 8) (s : State) : Host.Outcome State Fault Refusal :=
  .next (if sperOk sper.toNat then obsSper s r sper.toNat else s)
/-- OBSBK_WRITE (R209). -/
def execObsbkWrite (r : Nat) (k : BitVec 2) (v : BitVec 64) (s : State) : Host.Outcome State Fault Refusal :=
  .next (obsBreak s r k.toNat v)
/-- STILL_WRITE (R398). -/
def execStillWrite (r : Nat) (v : BitVec 64) (s : State) : Host.Outcome State Fault Refusal := .next (stillSet s r v)
/-- MXREG_WRITE (R324): not before the command queue has drained. -/
def execMxregWrite (r : Nat) (k : BitVec 2) (v : BitVec 64) (s : State) : Host.Outcome State Fault Refusal :=
  .next (headWrite s r (0x28 + k.toNat) v)
/-- REGISTER_WRITE (R209, R324): hs.status to hs.fp, and OBSCTL whole, STEP with it. -/
def execRegisterWrite (r : Nat) (sel : BitVec 13) (v : BitVec 64) (s : State) : Host.Outcome State Fault Refusal :=
  .next (if sel.toNat ≤ 5 || sel.toNat = 0x21 then headWrite s r sel.toNat v else s)

/-! ## Moving a context (R330) -/

/-- A context record: v0 to v7, s0 to s7, p, the RR pointer, hs.fp, zeros. -/
def ctxBytes (x : Regs) (rr : Nat) : List Byte :=
  ((List.range 8).flatMap (fun k => Bits.bytesOf 64 (getV x k).toNat)) ++
    ((List.range 8).flatMap (fun k => Bits.bytesOf 8 (getS x k).toNat)) ++ Bits.bytesOf 8 (x.p.toNat + 256 * (rr % 32)) ++
    Bits.bytesOf 8 x.fp.toNat ++ List.replicate 48 0

/-- The registers and the RR pointer that a context record holds. -/
def ctxRegs (m : Mem) (ad : Nat) : Regs × Nat :=
  let z := Regs.reset
  let v := (List.range 8).foldl (fun x k => setV x k (BitVec.ofNat 512 (memNat m (ad + 64 * k) 64))) z
  let y := (List.range 8).foldl (fun x k => setS x k (BitVec.ofNat 64 (memNat m (ad + 512 + 8 * k) 8))) v
  ({ y with p := memRead m (ad + 576), fp := BitVec.ofNat 64 (memNat m (ad + 584) 8) &&& fpWritable },
    (memRead m (ad + 577)).toNat % 32)

/-- The checks of CTXSV and CTXRS: ALIGN, then CTXSEL (R391). -/
def ctxCheck (a : Nat) (sel : W64) : Option Trap :=
  if a % 64 ≠ 0 then some (mkTrap 0x1B 6 a)
  else if 255 < Bits.nat sel 8 0 || 11 < Bits.nat sel 12 9 || bufSize 1 < a + 640 then
    some { cause := 0x29, arg := 0, tval := sel, hdr := 0 }
  else none

/-- A context that has an operation in flight is not moved yet. -/
def ctxBusy (n : Node) : Bool := n.flight.isSome || n.held.isSome

/-- CTXSV (R330); its writes are journaled (R136). -/
def execCtxsv (t : BitVec 6) (a b : BitVec 5) (s : State) : Host.Outcome State Fault Refusal :=
  issue (.ctxsv t a b) s (onHelm (fun s r h =>
    let ad := (srcVal h.node a.toNat).toNat
    let sel := srcVal h.node b.toNat
    match ctxCheck ad sel with
    | some x => .trap x
    | none =>
      let n := getN s r (Bits.nat sel 8 0) (Bits.nat sel 12 9)
      if ctxBusy n || bufHolds s then .wait .unit s
      else match wakeHold s r ((List.range 10).map (fun j => (1, ad + 64 * j))) with
        | some s => .wait .unit s
        | none =>
          let items := (List.range 10).map (fun j => (ad + 64 * j, ((ctxBytes n.regs n.rr).drop (64 * j)).take 64))
          match storeMany (fun s w => bufStore s r 1 w.1 w.2 false) items s none with
          | (.ok s, some x) => if isHelm s then .trap x else .done s
          | (.ok s, none) => .done s
          | (x, _) => heldAnswer s .unit x))

/-- CTXRS (R330). -/
def execCtxrs (t : BitVec 6) (a b : BitVec 5) (s : State) : Host.Outcome State Fault Refusal :=
  issue (.ctxrs t a b) s (onHelm (fun s r h =>
    let ad := (srcVal h.node a.toNat).toNat
    let sel := srcVal h.node b.toNat
    match ctxCheck ad sel with
    | some x => .trap x
    | none =>
      let n := getN s r (Bits.nat sel 8 0) (Bits.nat sel 12 9)
      if ctxBusy n || bufHolds s then .wait .unit s
      else match bufReadTest s r 1 (numbered ad 640) with
        | some x => heldAnswer s .unit x
        | none =>
          let x := ctxRegs (getBuf (getR s r) 1).mem ad
          .done (setN s r (Bits.nat sel 8 0) (Bits.nat sel 12 9) { n with regs := x.1, rr := x.2 })))

/-! ## Fences (R332, R333) -/

/-- FWAIT: compares and arms in one step at the base die (R332). One that finds no free place compares again only when a place has
freed, and one behind a request that the core's engine holds waits for that (R377). -/
def execFwait (t : BitVec 6) (d a b : BitVec 5) (s : State) : Host.Outcome State Fault Refusal :=
  issue (.fwait t d a b) s (onHelm (fun s r h =>
    let w := wordOf (.fwait t d a b)
    let va := (srcVal h.node a.toNat).toNat % 2 ^ 57
    let x := srcVal h.node b.toNat
    let start := fun (s : State) =>
      if engineHolds s then Effect.wait .fenceWait s
      else match xlate s (partOf s r) va 0 with
      | .error k => .wait .fenceWait (engineStop s s.agent k va)
      | .ok (pa, leaf) =>
        let s := engineGo s s.agent
        let arm : Arm := { who := s.agent, kind := .fence, space := 3, sys := true, addr := pa, operand := x, word := w, dval := 0,
                           bval := x, need := [], more := [], got := [], released := none }
        let v := memNat s.hbm pa 8
        if !populated pa then .absent pa
        else if poisoned s (pa / 64) then .trap (mkTrap 0x66 0 va)
        else if x.toNat ≤ v then .done (putD (touch s (partOf s r) va pa leaf) d.toNat (BitVec.ofNat 64 v))
        else if placeFree s 3 r pa then
          let s := touch s (partOf s r) va pa leaf
          .wait .fenceWait { s with arms := s.arms ++ [arm] }
        else .wait .fenceWait { s with arms := s.arms ++ [{ arm with more := [(0, pa)] }] }
    match alignCheck va 8, myArm s w with
    | some y, _ => .trap y
    | none, some m => (match m.released with
      | some v => .done (putD (delArm s m) d.toNat v)
      | none => if m.more.isEmpty || !placeFree s 3 r m.addr then .wait .fenceWait s else start (delArm s m))
    | none, none => start s))

/-- FSIG: raises a fence outside the window, with a fence log entry of the launch's TAG (R333). It is no memory instruction (R169): an
element's FSIG emits no completion token. Behind a translation fault a helm core's engine holds it, and the core goes on. -/
def execFsig (t : BitVec 6) (a b : BitVec 5) (s : State) : Host.Outcome State Fault Refusal :=
  issue (.fsig t a b) s (fun s =>
    let r := hereR s
    let va := (srcVal (here s) a.toNat).toNat % 2 ^ 57
    match alignCheck va 8 with
    | some y => .trap y
    | none =>
      let v := srcVal (here s) b.toNat
      let held := fun (s : State) => queueReq s (wordOf (.fsig t a b)) va v 0 99 [] []
      if engineHolds s then held s
      else match xlate s (partOf s r) va 2 with
      | .error k => held (engineStop s s.agent k va)
      | .ok (pa, leaf) =>
        let s := engineGo s s.agent
        if !populated pa then .absent pa
        else if poisoned s (pa / 64) then storeAnswer s (.bad (mkTrap 0x66 2 va), none)
        else .done (fenceRaise s (partOf s r) va pa leaf v.toNat (launchTag s r)))

/-! ## Counters, traces, migration, timer, identity (R334 to R338) -/

/-- What a counter reads that a restored migration image marks as absent (R434). -/
def counterAbsent : Nat := 0xFFFFFFFFFFFFFFFE

/-- A counter of an element: counter 10 is what classes 0 to 9 leave of the interval's cycles, but where a restored image has
brought it a value of its own, from which it counts (R204, R434). -/
def elemCounter (g : Region) (el : Elem) (k : Nat) : Nat :=
  let c := aGet 0 el.counters k
  if k = 10 && (aFind el.counters 10).isNone then
    min (g.cycles - ((List.range 10).foldl (fun n j => n + aGet 0 el.counters j) 0)) 0xFFFFFFFFFFFF
  else c

/-- The counter that PERFRD names (R206, R334). -/
def perfRead (s : State) (r src k : Nat) : Nat :=
  let g := getR s r
  if src < 256 then elemCounter g (getE s r src) k
  else if 7 ≤ k then 0
  else if src = 256 then aGet 0 g.helm.counters k
  else aGet 0 g.counters k

/-- PERFRD (R334). -/
def execPerfrd (t : BitVec 6) (d : BitVec 5) (x : BitVec 13) (s : State) : Host.Outcome State Fault Refusal :=
  issue (.perfrd t d x) s (fun s =>
    .done (putD s d.toNat (BitVec.ofNat 64 (perfRead s (hereR s) (Bits.nat x 12 4) (Bits.nat x 3 0)))))

/-- TRACE: a USER record in the region's wake ring (R214, R335). -/
def execTrace (t : BitVec 6) (d : BitVec 5) (c : BitVec 13) (s : State) : Host.Outcome State Fault Refusal :=
  issue (.trace t d c) s (fun s => .done (wake s (hereR s) 5 c.toNat (srcVal (here s) d.toNat).toNat))

/-- MIGR (R117, R336): parks while a request is posted; a core moved meanwhile reads 1. -/
def execMigr (t : BitVec 6) (d : BitVec 5) (s : State) : Host.Outcome State Fault Refusal :=
  issue (.migr t d) s (onHelm (fun s r h =>
    if h.migPosted then .wait .migr (setH s r { h with parked := true })
    else if h.parked then .done (putD (setH s r { h with parked := false }) d.toNat 1)
    else .done (putD s d.toNat 0)))

/-- TIMER 0: arms the timer, or disarms it with 0 (R337). -/
def execTimerArm (t : BitVec 6) (d : BitVec 5) (s : State) : Host.Outcome State Fault Refusal :=
  issue (.timerArm t d) s (onHelm (fun s r h =>
    let n := Bits.nat (srcVal h.node d.toNat) 47 0
    .done (setH s r { h with timer := n, armed := n != 0 })))
/-- TIMER 1: the cycles remaining. -/
def execTimerRead (t : BitVec 6) (d : BitVec 5) (s : State) : Host.Outcome State Fault Refusal :=
  issue (.timerRead t d) s (onHelm (fun s _ h => .done (putD s d.toNat (BitVec.ofNat 64 (if h.armed then h.timer else 0)))))
/-- TIMER 2: disarms the timer and clears IPTIM. -/
def execTimerDisarm (t : BitVec 6) (d : BitVec 5) (s : State) : Host.Outcome State Fault Refusal :=
  issue (.timerDisarm t d) s (onHelm (fun s r h =>
    .done (setH s r { h with timer := 0, armed := false, status := Bits.put h.status 9 1 0 })))

/-- IDRD 0: the part code (R338). -/
def execIdrdPartCode (t : BitVec 6) (d : BitVec 5) (s : State) : Host.Outcome State Fault Refusal :=
  issue (.idrdPartCode t d) s (fun s => .done (putD s d.toNat 0x7140))
/-- IDRD 1: the stepping (log 4). -/
def execIdrdStepping (t : BitVec 6) (d : BitVec 5) (s : State) : Host.Outcome State Fault Refusal :=
  issue (.idrdStepping t d) s (fun s => .done (putD s d.toNat (Config.stepping.setWidth 64)))
/-- IDRD 2: physical reach and region. -/
def execIdrdPhysicalPosition (t : BitVec 6) (d : BitVec 5) (s : State) : Host.Outcome State Fault Refusal :=
  issue (.idrdPhysicalPosition t d) s (fun s =>
    .done (putD s d.toNat (BitVec.ofNat 64 (packFields [(8, 2, (physOf s (hereR s)).1), (0, 7, (physOf s (hereR s)).2)]))))
/-- IDRD 3: logical id of the region's helm core. -/
def execIdrdLogicalId (t : BitVec 6) (d : BitVec 5) (s : State) : Host.Outcome State Fault Refusal :=
  issue (.idrdLogicalId t d) s (fun s => .done (putD s d.toNat (BitVec.ofNat 64 (getH s (hereR s)).lid)))
/-- IDRD 4: the partition. -/
def execIdrdPartition (t : BitVec 6) (d : BitVec 5) (s : State) : Host.Outcome State Fault Refusal :=
  issue (.idrdPartition t d) s (fun s => .done (putD s d.toNat (BitVec.ofNat 64 (partOf s (hereR s)))))

/-- Spares in use of a reach, one bit each (R338). -/
def spareMap (s : State) (reach : Nat) : Nat :=
  packFields ((List.range 4).map (fun k => (k, 1, if s.spares.any (fun e => e.1 / 64 == reach && e.2 == k) then 1 else 0)))

/-- IDRD 5: the spare map of the reach. -/
def execIdrdSpareMap (t : BitVec 6) (d : BitVec 5) (s : State) : Host.Outcome State Fault Refusal :=
  issue (.idrdSpareMap t d) s (fun s => .done (putD s d.toNat (BitVec.ofNat 64 (spareMap s (hereR s / 64)))))
/-- IDRD 6: low half of the serial number (log 4). -/
def execIdrdSerialLow (t : BitVec 6) (d : BitVec 5) (s : State) : Host.Outcome State Fault Refusal :=
  issue (.idrdSerialLow t d) s (fun s => .done (putD s d.toNat (Config.serial.setWidth 64)))
/-- IDRD 7: high half of the serial number (log 4). -/
def execIdrdSerialHigh (t : BitVec 6) (d : BitVec 5) (s : State) : Host.Outcome State Fault Refusal :=
  issue (.idrdSerialHigh t d) s (fun s => .done (putD s d.toNat (Config.serial.extractLsb' 64 64)))

end Sys2Proof.Machine
end

