-- ==== Sys2Proof/Machine/TrapOps.lean ====
section
/-!
DEFINITION. Traps that fall due at a boundary, the faults of a fetch and of an undefined word, and the helm timer (R315,
R319, R326, R337, R387, R388).
-/

namespace Sys2Proof.Machine

/-- Waits that no interrupt breaks into (R319). -/
def holdsInterrupts (k : WaitKind) : Bool :=
  [.msgSend, .msgRecv, .fenceWait, .waitNe, .barrier, .migr, .halt].contains k

/-- A delivered trap may be taken where the core stands: HANG anywhere, SENDRING at the core's own SENDM, a memory fault at
HALT, which waits for every access of the core (R318, R405), the others only outside the waits of R319. -/
def mayDeliver (h : Helm) (d : Delivered) : Bool :=
  !holdsInterrupts h.wait || d.rank == 0 || (d.rank == 1 && h.wait == .msgSend) || (d.rank == 2 && h.wait == .halt)

/-- The first of a list of delivered traps in the order of R319, with the others. -/
def firstDelivered (h : Helm) (l : List Delivered) : Option Delivered :=
  [0, 1, 2, 3, 4].foldl (fun acc k => match acc with
    | some d => some d
    | none => l.find? (fun d => d.rank == k && mayDeliver h d)) none

/-- The interrupt that may be taken: MIGREQ, TIMER, MSG in this order, each enabled and pending (R319, R326). -/
def dueInterrupt (h : Helm) : Option Nat :=
  if holdsInterrupts h.wait then none
  else if h.status.getLsbD 6 && h.migPosted then some 5
  else if h.status.getLsbD 5 && h.status.getLsbD 9 then some 4
  else if h.status.getLsbD 4 && !h.recv.isEmpty then some 3
  else none

/-- A trap or interrupt falls due at this boundary. -/
def trapDue (h : Helm) : Bool :=
  ieBit h && ((firstDelivered h h.delivered).isSome || (dueInterrupt h).isSome)

/-- A helm core stands at no unit any more. -/
def leaveUnits (s : State) (r : Nat) : State :=
  { s with regions := aMap (fun _ g => { g with unitQ := g.unitQ.filter (fun x => x.2 != .helm r),
                                                kvPass := if g.kvPass = some (.helm r) then none else g.kvPass }) s.regions }

/-- The waits a helm core has armed at a node are withdrawn, and it stands at no bank and at no unit but with a request that it
has moved on from: the waiting instruction counts as not issued (R319, R323). -/
def withdrawWaits (s : State) (r : Nat) : State :=
  let s := { s with arms := s.arms.filter (fun a => !(a.who == .helm r && (a.kind == .waitNe || a.kind == .barrier || a.kind == .fence))) }
  let s := if helmHolds (getH s r) 1 then s else bankDrop s (.helm r)
  if helmHolds (getH s r) 2 then s else leaveUnits s r

/-- Enters a delivered trap or an interrupt at the instruction the core stands at, with its TRAP record (R214, R319); a MIGR
that it breaks into counts as not issued. -/
def enterAsync (s : State) (r int cls code arg : Nat) (tval : W64) : State :=
  let s := withdrawWaits s r
  let h := getH s r
  let cause := causeWord int cls code arg
  let s := wake s r 8 h.pc.toNat cause.toNat
  setH s r { enterTrap (countH (getH s r) 6) cause tval (h.pc.setWidth 64) with parked := false }

/-- TRAP_ENTRY: the first of the traps and interrupts that are due (R319); a delivered trap that is due while hs.trapvec is 0
cannot be taken (R368). -/
def execTrapEntry (r : Nat) (s : State) : Host.Outcome State Fault Refusal :=
  let h := getH s r
  if !ieBit h || h.halted then .next s
  else match firstDelivered h h.delivered with
    | some d =>
      let s := setH s r { h with delivered := h.delivered.erase d }
      if h.trapvec = 0 then .next (noHandler s r d.code d.tval) else .next (enterAsync s r 0 d.cls d.code d.arg d.tval)
    | none => match dueInterrupt h with
      | some code => .next (enterAsync s r 1 0 code 0 0)
      | none => .next s

/-- A word that no instruction defines: the static-fault trap, whatever its trigger (R385, R387). An element never
holds such a word (R383), so there it has no effect. -/
def execUndefinedWord (w : BitVec 32) (s : State) : Host.Outcome State Fault Refusal :=
  match s.agent with
  | .helm r =>
    let f := (staticFault true w).getD (0x10, (fieldO w).toNat)
    .next (syncTrap s r 1 { cause := f.1, arg := f.2, tval := w.setWidth 64, hdr := 0 } ((getH s r).pc.setWidth 64))
  | .elem .. => .next s

/-- FETCH: cause 0x18, ARG 0, hs.tval and hs.epc the PC (R315, R388). -/
def execFetchFault (s : State) : Host.Outcome State Fault Refusal :=
  match s.agent with
  | .helm r =>
    let pc := (getH s r).pc.setWidth 64
    .next (syncTrap s r 1 { cause := 0x18, arg := 0, tval := pc, hdr := 0 } pc)
  | .elem .. => .next s

/-- HELM_TIMER_EXPIRY: the armed count has run out, and IPTIM is set (R326, R337). -/
def execHelmTimerExpiry (r : Nat) (s : State) : Host.Outcome State Fault Refusal :=
  let h := getH s r
  if h.armed && h.timer == 0 then .next (setH s r { h with armed := false, status := Bits.put h.status 9 1 1 })
  else .next s

end Sys2Proof.Machine
end

