-- ==== Sys2Proof/Machine/Turns.lean ====
section
/-!
DEFINITION. What a turn does before an instruction is carried out: which instruction a helm core reaches (R85, R86,
R315, R319, R388), which slot an element fires (R78, R79, R212), and the passing of a region cycle (R78, R203, R204,
R211, R397) and of device time. The order of turns is an input (log 2).
-/

namespace Sys2Proof.Machine

/-! ## Who may act -/

/-- Elements of a region may fire: the graph runs, the region is not in matrix mode, not frozen, not offline, and not
past the cycles a stop leaves it, and its clock runs (R82, R210, R373, R380, R398, R402). -/
def regionFires (s : State) (r : Nat) : Bool :=
  let g := getR s r
  cycleRuns s r && !g.mxmode && !g.hung && !g.frozen && !g.offline && !g.tripped &&
    ((!isStopped g && g.stopReq.isEmpty) || 0 < g.grace)

/-! ## Helm core -/

/-- The PC names a word of the text (R315). -/
def pcValid (h : Helm) : Bool := 512 ≤ h.pc.toNat && h.pc.toNat < h.textEnd && h.pc.toNat % 4 == 0

/-- The word at the PC. -/
def fetchWord (h : Helm) : W32 := BitVec.ofNat 32 (memNat h.text h.pc.toNat 4)

/-- A word whose effects have an order within a region cycle, the helm core's first and then those of the elements in
ascending 16y + x: TRACE, and the requests to the cutter and to the KV unit (R288, R335). -/
def isOrdered (w : W32) : Bool :=
  let o := (fieldO w).toNat
  o == 0xF4 || (0xC4 ≤ o && o ≤ 0xD1)

/-- A helm core executes instructions (R85, R94, R110, R374): one a region cycle in precise mode, and none once an element has
done something in this cycle that comes after what the core does in it (R212, R214, R288, R335). -/
def helmRuns (s : State) (r : Nat) : Bool :=
  let g := getR s r
  let h := getH s r
  h.running && !h.halted && graphRuns s r && !g.offline && !ebbSaved s r h.saved && !(isPrec g && g.helmNow) &&
    g.ordNow == 0

/-- One helm cycle passes: the cycle count and the armed timer (R214, R337). -/
def helmCycle (h : Helm) : Helm :=
  { h with cycle := (h.cycle + 1) % 2 ^ 28, timer := if h.armed then h.timer - 1 else h.timer }

/-- What a helm core does at a boundary: takes what is due, faults at a bad PC, or reaches the word at the PC. -/
def helmInstr (s : State) (r : Nat) : Instr :=
  let h := getH s r
  if trapDue h then .trapEntry r
  else if !pcValid h then .fetchFault
  else match decodeWord (fetchWord h) with
    | .ok i => i
    | .error _ => .undefinedWord (fetchWord h)

/-- The state in which a helm core's instruction is carried out. -/
def helmReady (s : State) (r : Nat) : State :=
  let s := { s with agent := .helm r }
  let g := getR s r
  setR s r { g with helm := helmCycle g.helm, helmNow := true }

/-! ## Elements -/

/-- The context the wheel names (R78). -/
def wheelCtx (g : Region) : Nat := Bits.nat g.wheel (4 * g.ctxCounter.toNat + 3) (4 * g.ctxCounter.toNat)

/-- The eligible slots of a context; none of one that an operation held as the cycle began (R71, R79 step 1). -/
def eligible (el : Elem) (n : Node) : List Nat :=
  if n.flight.isSome || n.held.isSome || n.late.isSome then []
  else (List.range 32).filter (fun k =>
    slotWord n k != 0xFFFFFFFF && (elemTrig el n (fieldT (slotWord n k)).toNat).2)

/-- The slot that fires (R79 steps 2 to 4). -/
def chooseSlot (el : Elem) (n : Node) : Option Nat :=
  let cand := eligible el n
  let rr := fun k => let t := (fieldT (slotWord n k)).toNat; trigRR t (elemTrig el n t).1
  match cand.find? (fun k => !rr k) with
  | some k => some k
  | none => match cand.find? (fun k => n.rr ≤ k) with
    | some k => some k
    | none => cand.head?

/-- An element could fire in the named context. -/
def couldFire (s : State) (r c e : Nat) : Bool :=
  let el := getE s r e
  !ebbSaved s r el.saved && !(eligible el (aGet Node.reset el.ctxs c)).isEmpty

/-- In precise mode an element may fire only when it is the first, after the one that fired last, with an eligible
instruction in the named context, and no other has fired in this cycle (R212). -/
def precTurn (s : State) (r c e : Nat) : Bool :=
  let g := getR s r
  !isPrec g || (!g.firedNow &&
    (List.range 256).find? (fun k => couldFire s r c ((g.lastElem + 1 + k) % 256)) == some ((e + 255 - g.lastElem) % 256))

/-- What an element does has an order among the elements of its region: the word's own, or, with a breakpoint armed, the
order in which firings are matched (R209). -/
def elemOrdered (g : Region) (w : W32) : Bool := isOrdered w || (List.range 4).any (fun k => (vGet 0 g.obsbk k).getLsbD 31)

/-- What an element does in this cycle: the waiting slot of a held context is tried again (R122, R180, R262), else the
slot R79 chooses, at most one a cycle. What has an order among the elements is done in that order (R209, R288, R335). -/
def elemInstr (s : State) (r e : Nat) : Option (Nat × Nat × Instr) :=
  let g := getR s r
  let c := wheelCtx g
  let el := getE s r e
  let n := getN s r e c
  if c ≥ 12 || e ≥ 256 || !cycleRuns s r || ebbSaved s r el.saved then none
  else
    let pick := match n.held with
      | some k => if g.hung || g.frozen then none else some k
      | none => if regionFires s r && !el.fired && precTurn s r c e then chooseSlot el n else none
    match pick with
    | none => none
    | some k =>
      if elemOrdered g (slotWord n k) && e < g.ordNow then none
      else match decodeWord (slotWord n k) with
        | .ok i => some (c, k, i)
        | .error _ => none

/-- The state in which an element's instruction is carried out: the element has fired in this cycle. -/
def elemReady (s : State) (r e c k : Nat) : State :=
  let g := getR s r
  let s := if elemOrdered g (slotWord (getN s r e c) k) then setR s r { g with ordNow := e + 1 } else s
  let s := { s with agent := .elem r e c k }
  if (getN s r e c).held.isSome then s
  else
    let el := { getE s r e with fired := true, idle := 0, lastNode := nodeNum s r e c k, lastSlot := k, lastCtx := c }
    let s := setE s r e el
    let s := match launchOf s r with | some (l, x) => setL s l { x with quietSince := none } | none => s
    setR s r { getR s r with lastElem := e, firedNow := true }

/-! ## A region cycle -/

/-- The channels of an entry that have no head: those of NEEDI and the one its head test reads. -/
def missingIn (n : Node) (e : W64) : List Nat :=
  (List.range 4).filter (fun k => (e.getLsbD (44 + k) || (Bits.nat e 39 38 != 0 && Bits.nat e 37 36 == k)) &&
    (pairHead (nodePair n k)).isNone)

/-- The predicate test and the NEEDO test of a slot hold, its head test has not failed on a head, and it lacks only input
heads: the lowest missing channel (R203). -/
def wantIn (el : Elem) (n : Node) (w : W32) : Option Nat :=
  let e := (elemTrig el n (fieldT w).toNat).1
  let test := Bits.nat e 39 38 == 0 || headTest n e || (pairHead (nodePair n (Bits.nat e 37 36))).isNone
  if (fieldT w).toNat = 63 || !predTest n e || !needOut n e || !test then none else (missingIn n e).head?

/-- The predicate test of a slot holds, and it lacks output space: the lowest full queue (R203). -/
def wantOut (el : Elem) (n : Node) (w : W32) : Option Nat :=
  let e := (elemTrig el n (fieldT w).toNat).1
  if (fieldT w).toNat = 63 || !predTest n e then none
  else (List.range 4).find? (fun k => e.getLsbD (40 + k) && !portOpen n k)

/-- The least of a list of channel numbers. -/
def leastOf (l : List Nat) : Option Nat := l.foldl (fun acc x => some (match acc with | some y => min x y | none => x)) none

/-- The slot of the operation that holds a context. -/
def heldSlot (n : Node) : Option Nat := match n.flight with | some f => some f.slot | none => n.held

/-- A deferred .fe read holds a context of an element. -/
def feHeld (s : State) (r e c : Nat) : Bool :=
  s.arms.any (fun a => (match a.who with | .elem r' e' c' _ => r' == r && e' == e && c' == c | .helm _ => false) && a.kind == .read)

/-- Class of an element's cycle in matrix mode (R83, R203). -/
def matrixClass (g : Region) (e : Nat) : Nat :=
  if e % 16 < g.mmNow.1 && e / 16 < g.mmNow.2 then 0
  else if g.mmq.any (fun t => hKind t.hdr == 1 && mmOp t == 1) then 1
  else if g.mmBlocked then 5 else 10

/-- Class of an element's cycle (R203), with the context and the slot of the operation where it is FIRE; `loading` is a
configuration load into the region. -/
def cycleClass (s : State) (r : Nat) (g : Region) (e : Nat) (el : Elem) (loading : Bool) : Nat × Nat × Nat :=
  let c := wheelCtx g
  let n := aGet Node.reset el.ctxs c
  let words := (n.slots.map (·.2)).filter (· != 0xFFFFFFFF)
  if loading then (9, 0, 0)
  else if g.mxmode then (matrixClass g e, 0, 32)
  else if el.fired then (0, el.lastCtx, el.lastSlot)
  else if c ≥ 12 then (10, 0, 0)
  else match heldSlot n with
    | some k => (if n.flight.isNone && feHeld s r e c then 10 else 0, c, k)
    | none => match n.late with
    | some k => (if k < 32 then 0 else 10, c, k)
    | none => match leastOf (words.filterMap (wantIn el n)), leastOf (words.filterMap (wantOut el n)) with
      | some k, _ => (1 + k, 0, 0)
      | none, some k => (5 + k, 0, 0)
      | none, none => (10, 0, 0)

/-- Tokens queued in an element's pairs for one context (R106); those that stand unseen behind a cut marker do not count (log 105). -/
def queued (n : Node) : Nat := (List.range 4).foldl (fun acc k => acc + (nodePair n k).queue.length) 0

/-- Tokens remain in a region (R397). -/
def tokensRemain (g : Region) : Bool :=
  let node := fun (n : Node) =>
    (List.range 4).any (fun k => !(nodePair n k).queue.isEmpty || !(nodePort n k).queue.isEmpty ||
      !(nodePair n k).held.isEmpty || !(nodePair n k).asked.isEmpty)
  node g.helm.node || g.elems.any (fun e => e.2.ctxs.any (fun c => node c.2)) || !g.mmq.isEmpty || !g.mmOut.isEmpty

/-- A region is stopped, or admits no firing till its stop is written (R210). -/
def standsStopped (g : Region) : Bool := isStopped g || (!g.stopReq.isEmpty && g.grace == 0)

/-- The stillwater count stays at 0 (R397). -/
def stillHeld (s : State) (r : Nat) (g : Region) : Bool :=
  g.helm.stillLimit == 0 || standsStopped g || g.frozen || g.hung || (match launchOf s r with
    | none => false
    | some (l, x) => x.cut.isSome || !x.engines.isEmpty || x.phase == .loading ||
        (regionsOf s l).any (fun q => standsStopped (getR s q)))

/-- What a cycle has put into a context is old from the next cycle on (R71). -/
def settleNode (n : Node) : Node :=
  { n with late := none,
           pairs := n.pairs.map (fun p => { p with queue := p.queue.map (fun q => { q with new := false }),
                                                   behind := p.behind.map (fun q => { q with new := false }) }),
           ports := n.ports.map (fun p => { p with queue := p.queue.map (fun o => { o with new := false }), sent := false, freed := false }) }

/-- One cycle of an element: its class is counted, and it may fire again (R203, R204). Counter 10 is what the others
leave of the interval's cycles, so it is not stored but where a restored image has brought it a value (R434). -/
def elemCycle (s : State) (r : Nat) (g : Region) (loading : Bool) (e : Nat) (el : Elem) : Elem :=
  let cls := cycleClass s r g e el loading
  { el with cls := cls.1, clsCtx := cls.2.1, clsSlot := cls.2.2, fired := false, idle := min (el.idle + 1) 0xFFFFFFFF,
            ctxs := aMap (fun _ n => settleNode n) el.ctxs,
            counters := if cls.1 = 10 && (aFind el.counters 10).isNone then el.counters else bump el.counters cls.1 }

/-- The elements of a region by number, with those that have no configuration yet and whose class is not IDLE: a load and the
matrix node class every element (R203). -/
def allElems (s : State) (r : Nat) (g : Region) (loading : Bool) : Assoc Elem :=
  let elems := aMap (fun e el => elemCycle s r g loading e el) g.elems
  if loading || g.mxmode then
    ((List.range 256).filter (fun e => (aFind g.elems e).isNone)).foldl (fun es e =>
      let el := elemCycle s r g loading e Elem.reset
      if el.cls = 10 then es else aSet es e el) elems
  else elems

/-! ## Stops (R210, R214, R320) -/

/-- The firing that asked for a stop has written its results. -/
def stopWritten (s : State) (r : Nat) (k : Nat × Nat × Nat × Nat × Nat) : Bool :=
  let n := getN s r k.2.2.1 k.2.2.2.1
  256 ≤ k.2.2.1 || (n.held != some k.2.2.2.2 && (match n.flight with | some f => f.slot != k.2.2.2.2 | none => true))

/-- A stop that was asked for takes hold: STOP and the STOP record, and for an element's firing the notice and the BREAK trap;
a helm core's own BRK has taken its trap already. A request is source, argument, element, context and slot. -/
def stopNow (s : State) (r : Nat) (k : Nat × Nat × Nat × Nat × Nat) : State :=
  let (src, arg, e, c, slot) := k
  let g := getR s r
  let s := obsStop (setR s r { g with stopReq := g.stopReq.erase k }) r true
  let node := nodeNum s r e c slot
  let s := wake s r 7 node.toNat (placeWord64 e c slot (16 * src))
  if e = 256 then s
  else
    let tval := stopTval node e c slot src
    let s := faultRec s r e c slot 0 0 0 { cause := 0x02, arg := arg, tval := tval, hdr := 0 }
    deliver s r { rank := 4, cls := 0, code := 0x02, arg := arg, tval := tval }

/-- At the end of the last cycle in which elements may fire the stops that are still asked for take hold (R210). -/
def stopsDue (s : State) (r : Nat) : State :=
  let g := getR s r
  if 1 < g.grace then s else (g.stopReq.filter (stopWritten s r)).foldl (fun s k => stopNow s r k) s

/-- Nothing of a region's present cycle has been recorded yet, so that a STOP record follows the records of the cycle past
(R214). -/
def cycleFresh (g : Region) : Bool := !g.firedNow && !g.helmNow && g.ordNow == 0

/-- The regions of a graph that feed a region across its edge (R107). -/
def feedsInto (s : State) (r : Nat) : List Nat :=
  ((outputsTo s r (fun q d => d.getLsbD 44 && q != r && destRegion s q d == r)).map (·.1.r)).eraseDups

/-- Adds to what the governor of a region has counted. -/
def govAdd (s : State) (r own bout fed wopd : Nat) : State :=
  let g := getR s r
  setR s r { g with govCycles := (g.govCycles.1 + own, g.govCycles.2.1 + bout, g.govCycles.2.2.1 + fed, g.govCycles.2.2.2 + wopd) }

/-- The 256 element cycles of a region go to its own governor, and to those of the regions that feed it (R107). -/
def govCount (s : State) (r : Nat) : State :=
  let els := (getR s r).elems
  let bout := (els.filter (fun e => 5 ≤ e.2.cls && e.2.cls ≤ 8)).length
  let wopd := fun (q : Nat) => (els.filter (fun e => 1 ≤ e.2.cls && e.2.cls ≤ 4 && (feeders s r e.1 (e.2.cls - 1)).any (fun f => f.1.r == q))).length
  (feedsInto s r).foldl (fun s q => govAdd s q 0 0 256 (wopd q)) (govAdd s r 256 bout 0 0)

/-- The cycle still owes something: in precise mode the firing of the element whose turn it is and the helm core's
instruction (R212), and a sample that is due (R211). -/
def cycleOwes (s : State) (r : Nat) : Bool :=
  let g := getR s r
  let per := Bits.nat g.obsctl 39 32
  (per != 0 && 2 ^ per ≤ g.sinceSample) ||
  (isPrec g && ((regionFires s r && !g.firedNow && (List.range 256).any (fun e => (elemInstr s r e).isSome && (getN s r e (wheelCtx g)).held.isNone)) ||
    helmRuns s r))

/-- One region clock cycle: classes and counters, a clash at a bank among them, the wheel, the sampler's and the reweighter's
counts, the cycles left after a stop and the stops that are due, and the stillwater count. -/
def regionCycle (s : State) (r : Nat) : State :=
  let s := stopsDue s r
  let g := getR s r
  let loading := match launchOf s r with | some (_, l) => l.phase == .loading | none => false
  let fired := g.elems.any (fun e => e.2.fired)
  let busy := fired || g.moved || !tokensRemain g || stillHeld s r g
  let elems := allElems s r g loading
  let clash := g.bankNow.eraseDups.length < g.bankNow.length
  let weights := (List.range 12).foldl (fun w c =>
    let t := g.elems.foldl (fun acc e => acc + queued (aGet Node.reset e.2.ctxs c)) 0
    if t = 0 then w else aSet w c (aGet 0 w c + t)) g.weights
  let last := g.ctxCounter == 15
  let s := match launchOf s r with
    | some (l, x) => if x.raceNow.isEmpty then s else setL s l { x with raceNow := x.raceNow.filter (fun q => agentR q.1 != r) }
    | none => s
  govCount (setR s r { g with
    elems := elems, helm := { g.helm with node := settleNode g.helm.node }, weights := weights,
    counters := if clash then bump g.counters 6 else g.counters, bankNow := [], ctxCounter := g.ctxCounter + 1,
    wheel := if last then g.nextWheel.getD g.wheel else g.wheel,
    nextWheel := if last then none else g.nextWheel,
    cycles := g.cycles + 1, sinceWheel := g.sinceWheel + 1, sinceSample := g.sinceSample + 1,
    grace := g.grace - 1, firedNow := false, ordNow := 0, moved := false, helmNow := false, faultNow := false, mmNow := (0, 0),
    mmBlocked := false, still := if busy then 0 else g.still + 1 }) r

/-- The engines of a context or helm core that have work are all stopped by translation faults (R377). -/
def enginesHeld (x : Launch) (r e c : Nat) (n : Node) (copies : Nat) : Bool :=
  let stopped := fun (ok : Nat → Bool) => x.engines.any (fun y => match y.1 with
    | .elem q e' c' k => q == r && e' == e && c' == c && ok k
    | .helm _ => false)
  (List.range 4).all (fun k => let p := nodePort n k; p.spb.isNone || p.pending.isEmpty || stopped (fun j => 32 ≤ j && j < 64)) &&
    (List.range copies).all (fun k => stopped (fun j => j == 64 + 32 * k))

/-- Nothing that an agent of the region has asked of a bank, of a unit or of global memory is in flight, but for what an engine
that a translation fault has stopped holds, and for reads and waits that memory has armed. -/
def requestsQuiet (s : State) (x : Launch) (r : Nat) : Bool :=
  let g := getR s r
  g.unitQ.all (fun q => !unitStands s q.2 || engineStopped x q.2) && g.kvUndo.isNone && g.kvPass.isNone &&
    g.bankHeld.all (fun q => !stillStands s q.1) &&
    g.helm.outstanding.all (fun o => !o.queued || (reqClass o.word != 1 && engineStopped x (.helm r))) &&
    g.elems.all (fun e => e.2.ctxs.all (fun c => match c.2.held with
      | none => true
      | some k => engineStopped x (.elem r e.1 c.1 k) || s.arms.any (fun a => a.who == .elem r e.1 c.1 k)))

/-- A graph stands at a quiescent point (R378): no operation is in flight in an element, in a helm core's copies, in the
matrix node, at a bank or a unit, or on a link that leads to it, and no element could fire. -/
def graphQuiet (s : State) (l : Nat) (x : Launch) : Bool :=
  x.cut.isNone && (regionsOf s l).all (fun r =>
    let g := getR s r
    requestsQuiet s x r &&
    let free := fun (n : Node) => (List.range 4).all (fun k => (nodePair n k).held.isEmpty)
    free g.helm.node && enginesHeld x r 256 0 g.helm.node g.helm.copies.length && g.mmq.isEmpty && g.mmDrain.isNone &&
      s.links.all (fun k => k.dst.r != r) &&
      g.elems.all (fun e => e.2.ctxs.all (fun c =>
        c.2.flight.isNone && c.2.late.isNone && free c.2 && (eligible e.2 c.2).isEmpty && enginesHeld x r e.1 c.1 c.2 0)))

/-- A graph that stands quiescent behind a translation fault keeps the time since which it does. -/
def noteQuiet (s : State) (l : Nat) (x : Launch) : Launch :=
  if x.engines.isEmpty || !graphQuiet s l x then { x with quietSince := none }
  else { x with quietSince := some (x.quietSince.getD s.now) }

/-- The core whose full queue a core waits on at SENDM (R400). -/
def sendNext (s : State) (r : Nat) : Option Nat :=
  let h := getH s r
  if h.wait != .msgSend then none
  else match msgTarget s r (srcVal h.node (fieldB (fetchWord h)).toNat) with
    | .ok q => if 64 ≤ (getH s q).recv.length then some q else none
    | .error _ => none

/-- A wait-for chain: the cores passed, in order, and the first core met again, where one is. -/
def sendGo (s : State) : Nat → List Nat → Nat → List Nat × Option Nat
  | 0, seen, _ => (seen, none)
  | k + 1, seen, r =>
    if seen.contains r then (seen, some r)
    else match sendNext s r with
      | some q => sendGo s k (seen ++ [r]) q
      | none => (seen ++ [r], none)

/-- The wait-for chain of a core. -/
def sendChain (s : State) (r : Nat) : List Nat × Option Nat := sendGo s 257 [] r

/-- A cut, a stop or a freeze of a region holds back the 100 µs of the chains that pass it (R400). -/
def sendStays (s : State) (r : Nat) : Bool :=
  let g := getR s r
  isStopped g || g.frozen || g.hung || (match launchOf s r with | some (_, x) => x.cut.isSome | none => false)

/-- Device time passes (R325). -/
def passTime (s : State) (ns : Nat) : State :=
  let now := (s.now + ns) % 2 ^ 64
  let anew := fun (r : Nat) (g : Region) =>
    if g.helm.wait == .msgSend && (sendChain s r).1.any (sendStays s) then { g with helm := { g.helm with waitSince := now } } else g
  { s with launches := aMap (noteQuiet s) s.launches, regions := aMap anew s.regions, now := now }

/-! ## A turn -/

/-- The turn taken: the first one listed, else one the surroundings choose (log 2). -/
def nextTurn (s : State) : Turn × State :=
  match s.todo with
  | t :: ts => (t, { s with todo := ts })
  | [] => let f := freshen s; (Config.turn f.1, f.2)

/-- What goes wrong, or right again, unseen (log 73): a row or a journal entry is spoilt, a copy of the sediment record no longer
has its digest, a port tries a flit again or gets it through, a port that is down is disabled or enabled. -/
def troubled (x : Trouble) (s : State) : State :=
  match x with
  | .row r sp k =>
    let g := getR s r
    let b := getBuf g sp
    if bufSize sp ≤ 64 * k || g.bgate.getLsbD (bankOf sp (64 * k)) then s
    else setR s r { g with bufs := vSet g.bufs sp { b with poison := setAdd b.poison k } }
  | .journal r k =>
    let g := getR s r
    setR s r { g with journal := (g.journal.zip (List.range g.journal.length)).map (fun j => if j.2 = k then { j.1 with bad := true } else j.1) }
  | .copy k =>
    let c := vGet NvCopy.reset s.nvram (if k then 1 else 0)
    { s with nvram := vSet s.nvram (if k then 1 else 0) { c with digest := ~~~ c.digest } }
  | .retry n through =>
    let p := aGet EthPort.reset s.ports n
    if 16 ≤ n || !p.up then s else { s with ports := aSet s.ports n { p with tries := if through then 0 else min 16 (p.tries + 1) } }
  | .disable n off =>
    let p := aGet EthPort.reset s.ports n
    if 16 ≤ n || p.up then s else { s with ports := aSet s.ports n { p with disabled := off } }

/-- What a turn comes to: the state before an instruction, and the instruction, where there is one. What a helm core's engine
holds is tried again before the core's next instruction (R377). -/
def beginTurn (t : Turn) (s : State) : State × Option Instr :=
  match t with
  | .helm r =>
    if helmRuns s r then
      let s := retryReqs { s with agent := .helm r } r
      if helmRuns s r then (helmReady s r, some (helmInstr s r)) else (s, none)
    else (s, none)
  | .elem r e => match elemInstr s r e with
    | some (c, k, i) => (elemReady s r e c k, some i)
    | none => (s, none)
  | .tick r => (if cycleOwes s r || (getR s r).tripped then s else regionCycle (kvUndone s r) r, none)
  | .pass ns => (passTime s ns, none)
  | .event i => (s, some i)
  | .trouble x => (troubled x s, none)

/-- Bytes written from an address up into a helm core's text (R102). -/
def putText (h : Helm) (a : Nat) (bs : List Byte) : Helm :=
  { h with text := memWriteN h.text a bs, textEnd := max h.textEnd (a + bs.length) }

/-- A state whose next step fetches and runs a word as helm core 0: a running core with a PC that names a word of its
text, and its turn first in the list (log 2). -/
def placeWord (s : State) (w : W32) : State :=
  let h := getH s 0
  let h := if pcValid { h with textEnd := h.pc.toNat + 4 } then h else { h with pc := 512 }
  let h := putText { h with running := true, halted := false } h.pc.toNat (bytesOfWord w)
  { setH s 0 h with todo := [.helm 0] }

end Sys2Proof.Machine
end

