-- ==== Sys2Proof/Machine/ObsOps.lean ====
section
/-!
DEFINITION. Observation: counter pages (R204 to R206), stops (R210), samples (R211), the reweighter (R106), the
channel-occupancy map (R401) and the notice queue's consumer (R142, R143, R416).
-/

namespace Sys2Proof.Machine

/-! ## Blocks of memory given by fields -/

/-- Fields of a block: offset, bytes, value; the rest of the block is zero. -/
abbrev Fields := List (Nat × Nat × Nat)

/-- Zeroes a physical range. -/
def hbmZero (s : State) (pa n : Nat) : State := { s with hbm := s.hbm.filter (fun c => !(pa ≤ c.1 && c.1 < pa + n)) }

/-- Writes a block: zeros, then its fields. -/
def blockPut (s : State) (pa n : Nat) (fs : Fields) : State :=
  nudge { s with hbm := fs.foldl (fun m f => memPutNat m (pa + f.1) f.2.1 f.2.2) (hbmZero s pa n).hbm } pa n

/-- The bytes of a block. -/
def blockBytes (n : Nat) (fs : Fields) : List Byte := memReadN (fs.foldl (fun m f => memPutNat m f.1 f.2.1 f.2.2) []) 0 n

/-! ## Counter pages (R204 to R206) -/

/-- The counters of a page. -/
def pageCounters (s : State) (r : Nat) : Fields :=
  let g := getR s r
  (List.range 256).flatMap (fun e => (List.range 16).map (fun k => (0x1000 + 128 * e + 8 * k, 8, elemCounter g (getE s r e) k))) ++
    (List.range 7).map (fun k => (0x9000 + 8 * k, 8, aGet 0 g.helm.counters k)) ++
    (List.range 7).map (fun k => (0x9200 + 8 * k, 8, aGet 0 g.counters k))

/-- The header of a page. -/
def pageHeader (s : State) (r why seq : Nat) : Nat :=
  let g := getR s r
  let ids : W64 × W64 := match launchOf s r with | some (_, l) => (l.ltag, l.gdig) | none => (0, 0)
  let ph := physOf s r
  packFields [(448, 64, ids.1.toNat), (384, 64, ids.2.toNat), (320, 64, g.interval), (256, 64, s.now), (224, 32, seq),
    (216, 8, g.helm.lid), (214, 2, ph.1), (207, 7, ph.2), (204, 3, why), (0, 1, 1)]

/-- A region's counters start again at 0: a configuration interval begins (R205). -/
def intervalStart (s : State) (r : Nat) : State :=
  let g := getR s r
  setR s r { g with elems := aMap (fun _ el => { el with counters := [] }) g.elems, helm := { g.helm with counters := [] },
                    counters := [], cycles := 0, interval := s.now }

/-- The end of a configuration interval: its counters go into the partition's counter ring (R205): 0 replaced, 1 EBB
save, 2 launch end, 3 partition reset. -/
def intervalEnd (s : State) (r why : Nat) : State :=
  let part := partOf s r
  let p := getP s part
  let ar := areaOf p 2
  let s := if ar.2.2 = 0 then s
    else blockPut s (ar.2.1 + 65536 * (p.counterSeq % ar.2.2)) 65536 ((0, 64, pageHeader s r why p.counterSeq) :: pageCounters s r)
  intervalStart (setP s part { p with counterSeq := (p.counterSeq + 1) % 2 ^ 32 }) r

/-! ## Stops and samples (R210, R211) -/

/-- REGION_STOP: a stop that was asked for takes hold between two cycles, once the firing that asked for it has written its
results (R210, R320); the region's own cycles do so at the latest as the last one that may fire ends. -/
def execRegionStop (r : Nat) (src : BitVec 3) (arg : BitVec 13) (e c slot : Nat) (s : State) :
    Host.Outcome State Fault Refusal :=
  let g := getR s r
  let k := (src.toNat, arg.toNat, e, c, slot)
  .next (if g.stopReq.contains k && cycleFresh g && stopWritten s r k then stopNow s r k else s)

/-- SAMPLE: every 2^SPER cycles the next element's class in the cycle past, and the place of its firing where the class is
FIRE; what stands there otherwise, or for the matrix node, is open (R211; log 23). -/
def execSample (r : Nat) (s : State) : Host.Outcome State Fault Refusal :=
  let g := getR s r
  let per := Bits.nat g.obsctl 39 32
  if per = 0 || g.sinceSample < 2 ^ per then .next s
  else
    let e := g.sampleElem
    let el := getE s r e
    let s := setR s r { g with sampleElem := (e + 1) % 256, sinceSample := 0 }
    if el.cls = 0 && el.clsSlot < 32 then
      .next (wake s r 6 (nodeNum s r e el.clsCtx el.clsSlot).toNat (placeWord64 e el.clsCtx el.clsSlot 0))
    else
      let f := freshen s
      let x := Config.samplePlace f.1
      .next (wake f.2 r 6 (Bits.nat x 31 0) (placeWord64 e (Bits.nat x 35 32) (Bits.nat x 40 36) el.cls))

/-! ## The reweighter (R106) -/

/-- Contexts for which some element of the region holds a non-empty slot. -/
def activeCtxs (g : Region) : List Nat :=
  (List.range 12).filter (fun c => g.elems.any (fun e => (aGet Node.reset e.2.ctxs c).slots.any (fun x => x.2 != 0xFFFFFFFF)))

/-- The context with the largest remainder among those left, the lower number on a tie. -/
def largestOf (l : List (Nat × Nat)) : Option Nat :=
  (l.foldl (fun (acc : Option (Nat × Nat)) x => match acc with
    | some y => if y.2 < x.2 then some x else some y
    | none => some x) none).map (·.1)

/-- Gives one slot each to the contexts with the largest remainders. -/
def giveRest : Nat → List (Nat × Nat) → List Nat
  | 0, _ => []
  | k + 1, l => match largestOf l with
    | some c => c :: giveRest k (l.filter (fun x => x.1 != c))
    | none => []

/-- Slots of each active context: one, and a share of the rest by its weight (R106 steps 1 and 2). -/
def wheelShares (act : List Nat) (w : Assoc Nat) : List (Nat × Nat) :=
  let rest := 16 - act.length
  let total := act.foldl (fun n c => n + aGet 0 w c) 0
  if total = 0 then
    (act.zip (List.range act.length)).map (fun x => (x.1, 1 + rest / act.length + (if x.2 < rest % act.length then 1 else 0)))
  else
    let floors := act.map (fun c => (c, rest * aGet 0 w c / total))
    let left := rest - floors.foldl (fun n x => n + x.2) 0
    let more := giveRest left (act.map (fun c => (c, rest * aGet 0 w c % total)))
    floors.map (fun x => (x.1, 1 + x.2 + (if more.contains x.1 then 1 else 0)))

/-- Smooth weighted round-robin: the contexts of the slots, in order (R106 step 3). -/
def wheelGo : Nat → List (Nat × Nat × Int) → List Nat
  | 0, _ => []
  | k + 1, l =>
    let l := l.map (fun x => (x.1, x.2.1, x.2.2 + (x.2.1 : Int)))
    match l.foldl (fun (acc : Option (Nat × Nat × Int)) x => match acc with
      | some y => if y.2.2 < x.2.2 then some x else some y
      | none => some x) none with
    | none => 15 :: wheelGo k l
    | some y => y.1 :: wheelGo k (l.map (fun x => if x.1 = y.1 then (x.1, x.2.1, x.2.2 - 16) else x))

/-- The wheel for a set of weights (R106). -/
def wheelFor (g : Region) (w : Assoc Nat) : W64 :=
  let slots := wheelGo 16 ((wheelShares (activeCtxs g) w).map (fun x => (x.1, x.2, 0)))
  BitVec.ofNat 64 (packFields ((slots.zip (List.range 16)).map (fun x => (4 * x.2, 4, x.1))))

/-- WHEEL_REWRITE: every 4,096 cycles; the new wheel takes effect at the next slot 0 (R106). -/
def execWheelRewrite (r : Nat) (s : State) : Host.Outcome State Fault Refusal :=
  let g := getR s r
  if g.rwoff || g.sinceWheel < 4096 then .next s
  else .next (setR s r { g with nextWheel := some (wheelFor g g.weights), weights := [], sinceWheel := 0,
                                counters := bump g.counters 2 })

/-! ## Channel-occupancy map (R401) -/

/-- Bound pairs of an element in ascending context and channel: the index of a pair is its place in this list. -/
def pairList (el : Elem) : List (Nat × Nat) :=
  el.ctxs.flatMap (fun c => ((List.range 4).filter (fun k => (nodePair c.2 k).ctxset != 0)).map (fun k => (c.1, k)))

/-- Index of a pair. -/
def pairIndex (el : Elem) (c ch : Nat) : Nat := (pairList el).findIdx (fun x => x.1 == c && x.2 == ch)

/-- The entry of an element. -/
def mapElem (s : State) (r e : Nat) (el : Elem) : Nat :=
  let defers := (s.arms.filter (fun a => match a.who with | .elem q e' _ _ => q == r && e' == e | .helm _ => false)).length
  let ctx := fun c => aGet Node.reset el.ctxs c
  packFields ([(288, 32, el.idle), (256, 32, el.lastNode.toNat), (244, 5, el.lastSlot), (240, 4, el.lastCtx), (236, 4, defers)] ++
    (List.range 12).map (fun c => (224 + c, 1, if ctxBusy (ctx c) then 1 else 0)) ++
    (List.range 12).flatMap (fun c => (List.range 4).map (fun q => (128 + 8 * c + 2 * q, 2, (nodePort (ctx c) q).queue.length))) ++
    ((pairList el).zip (List.range 32)).map (fun x => (4 * x.2, 4, (nodePair (ctx x.1.1) x.1.2).queue.length)))

/-- Code of a helm core's wait kind. -/
def waitCode (k : WaitKind) : Nat :=
  match k with
  | .channel => 1
  | .port => 2
  | .msgSend => 3
  | .msgRecv => 4
  | .fenceWait => 5
  | .waitNe => 6
  | .barrier => 7
  | .yield => 8
  | .migr => 9
  | .halt => 10
  | _ => 0

/-- The target of a helm core's wait: the logical id that SENDM names, or the channel or queue it lacks. -/
def waitTarget (h : Helm) : Nat :=
  let w := fetchWord h
  match h.wait with
  | .msgSend => Bits.nat (srcVal h.node (fieldB w).toNat) 7 0
  | .channel => (((codesOf w).filter (fun c => classOf c == 4 && (headOf h.node c).isNone)).map chanOf).headD 0
  | .port => ((portsOf w).filter (fun k => !portOpen h.node k)).headD 0
  | _ => 0

/-- The entry of the helm core. -/
def mapHelm (h : Helm) : Nat :=
  packFields [(0, 20, h.pc.toNat), (24, 4, waitCode h.wait), (32, 8, waitTarget h), (40, 7, h.recv.length)]

/-- The entry of the region. -/
def mapRegion (g : Region) : Nat :=
  let node := fun (n : Node) => (List.range 4).foldl (fun k ch => k + (nodePair n ch).held.length + (nodePair n ch).asked.length) 0
  let dem := g.elems.foldl (fun k e => e.2.ctxs.foldl (fun k c => k + node c.2) k) (node g.helm.node)
  packFields [(0, 64, g.wheel.toNat), (64, 8, g.mmq.length), (72, 8, min dem 255), (80, 4, g.clock.toNat + 2)]

/-- A map: `why` 0 a hang, 1 a send ring, with the wait-for chain. -/
def mapFields (s : State) (r why : Nat) (chain : List Nat) : Fields :=
  let g := getR s r
  let ltag : W64 := match launchOf s r with | some (_, l) => l.ltag | none => 0
  let ph := physOf s r
  let hdr := packFields [(448, 64, ltag.toNat), (384, 64, s.now), (352, 32, g.helm.stillLimit.toNat), (344, 8, g.helm.lid),
    (342, 2, ph.1), (335, 7, ph.2), (333, 2, why), (0, 1, 1)]
  (0, 64, hdr) :: (List.range 256).map (fun k => (0x40 + k, 1, chain.getD k 0xFF)) ++
    (List.range 256).map (fun e => (0x200 + 64 * e, 64, mapElem s r e (getE s r e))) ++
    [(0x4200, 64, mapHelm g.helm), (0x4240, 64, mapRegion g)]

/-- Writes a map into the partition's map ring, and gives its virtual address (R401). -/
def mapWrite (s : State) (r why : Nat) (chain : List Nat) : State × Nat :=
  let part := partOf s r
  let p := getP s part
  let ar := areaOf p 3
  let i := if ar.2.2 = 0 then 0 else p.mapNext % ar.2.2
  let s' := if ar.2.2 = 0 then s else blockPut s (ar.2.1 + 32768 * i) 32768 (mapFields s r why chain)
  (setP s' part { p with mapNext := p.mapNext + 1 }, ar.1 + 32768 * i)

/-! ## The notice queue's consumer (R142, R143, R416) -/

/-- NOTICE_CONS_WRITE: the entries that CONS passes are consumed; a write outside [old CONS, PROD] is ignored, with a
notice. -/
def execNoticeConsWrite (part : BitVec 5) (v : BitVec 64) (s : State) : Host.Outcome State Fault Refusal :=
  let ar := areaOf (getP s part.toNat) 4
  let old := memNat s.hbm (ar.2.1 + 8) 8
  if ar.2.2 = 0 || v.toNat = old then .next s
  else if v.toNat < old || memNat s.hbm ar.2.1 8 < v.toNat then .next (partRec s part.toNat 0 0 3 (ar.2.1 / 2 ^ 37) 0 (mkTrap 0x6D 0 v.toNat))
  else .next (consMoved (hbmPutNat s (ar.2.1 + 8) 8 v.toNat) part.toNat old v.toNat)

end Sys2Proof.Machine
end

