-- ==== Sys2Proof/Machine/FabricOps.lean ====
section
/-!
DEFINITION. Tokens on the mesh: sending under credit, arriving, conversion, the end of a held operation, and in-flight
reductions (R68 to R71, R77, R81, R99, R103, R110, R111, R244).
-/

namespace Sys2Proof.Machine

/-! ## Places and credit (R68, R69) -/

/-- The matrix command input stands as element 257, a chain's local input as element 258 with the chain as its context
and the hop as its channel. -/
def destAt (s : State) (r : Nat) (d : W64) : At :=
  match Bits.nat d 55 47 with
  | 0x101 => ⟨destRegion s r d, 257, 0, 0⟩
  | 0x102 => ⟨r, 258, Bits.nat d 43 36, Bits.nat d 35 32⟩
  | e => ⟨destRegion s r d, e, 0, Bits.nat d 46 45⟩

/-- The context whose pair on a channel holds a CTX tag (R68). -/
def pairOf (s : State) (r e ch ctx : Nat) : Option Nat :=
  if e = 256 then (if (nodePair (getH s r).node ch).ctxset.getLsbD ctx then some 0 else none)
  else ((getE s r e).ctxs.find? (fun c => (nodePair c.2 ch).ctxset.getLsbD ctx)).map (·.1)

/-- Tokens on their way to a pair. -/
def onWay (s : State) (r e c ch : Nat) : Nat :=
  (s.links.filter (fun l => l.dst.r == r && l.dst.e == e && l.dst.n == ch && !isCutMarker l.tok &&
    pairOf s r e ch (hCtx l.tok.hdr) == some c)).length

/-- The head of a channel has been taken by a pair-form ATOM in flight: its slot is free (R75, R262). -/
def headTaken (n : Node) (ch : Nat) : Bool :=
  match n.flight with
  | some f => let w := slotWord n f.slot; isAtomPair w && (fieldA w).toNat == 20 + ch
  | none => false

/-- Slots a pair uses, those of tokens on their way included. -/
def pairUse (s : State) (r e c ch : Nat) : Nat :=
  let n := getN s r e c
  let p := nodePair n ch
  p.queue.length - (if headTaken n ch then 1 else 0) + p.behind.length + onWay s r e c ch

/-- Shared slots of an element in use, and how many there are (R69). -/
def poolUse (s : State) (r e : Nat) : Nat × Nat :=
  let ps := pairList (getE s r e)
  (ps.foldl (fun k x => k + (pairUse s r e x.1 x.2 - 2)) 0, 64 - 2 * ps.length)

/-- A pair that uses `k` slots can take one more token: two reserved slots, and up to eight of the shared pool (R69); a helm
core's pairs hold ten each (R446). -/
def slotFree (s : State) (r e k : Nat) : Bool :=
  if k < 2 then true
  else if 10 ≤ k then false
  else if e = 256 then true
  else let u := poolUse s r e; u.1 < u.2

/-- A pair can take one more token beside the RELOAD tokens that it has still to be brought (R61, R69). -/
def pairRoom (s : State) (r e c ch : Nat) : Bool :=
  slotFree s r e (pairUse s r e c ch + (nodePair (getN s r e c) ch).reload.length)

/-- The conversion node of a pair fires back to it in place, in front of a cut's marker or behind it (R81, R110). -/
def isReturn (p : Pair) (r : Nat) (src : At) : Bool :=
  match p.conv with
  | some (ce, _) => src.r == r && src.e == ce && (p.queue.any (·.away) || p.behind.any (·.away))
  | none => false

/-- Tokens of an element or helm core that a cut has caught on the link: in its image, and on their way to a pair that is
catching (R111). -/
def caughtUse (s : State) (r e : Nat) : Nat :=
  let inNode := fun (n : Node) => (List.range 4).foldl (fun k ch => k + ((nodePair n ch).queue.filter (·.caught)).length) 0
  match (launchOf s r).bind (fun x => x.2.cut) with
  | none => 0
  | some k =>
    let g := aGet Region.reset k.image r
    let img := if e = 256 then inNode g.helm.node else (aGet Elem.reset g.elems e).ctxs.foldl (fun k c => k + inNode c.2) 0
    img + (s.links.filter (fun l => l.dst.r == r && l.dst.e == e && !isCutMarker l.tok)).length

/-- A pair that is catching takes a token while its element has caught fewer than 64 (R111). -/
def catchRoom (s : State) (r e c ch : Nat) : Bool := !(nodePair (getN s r e c) ch).catching || caughtUse s r e < 64

/-- There is credit for a token: a channel that binds no pair for its CTX takes it and faults (R68). -/
def sendRoom (s : State) (src : At) (dst : At) (t : Token) : Bool :=
  if isCutMarker t then true
  else if dst.e = 257 then (getR s dst.r).mmq.length + (s.links.filter (fun l => l.dst == dst && !isCutMarker l.tok)).length < 16
  else if dst.e = 258 then true
  else match pairOf s dst.r dst.e dst.n (hCtx t.hdr) with
    | none => true
    | some c => isReturn (nodePair (getN s dst.r dst.e c) dst.n) dst.r src || (pairRoom s dst.r dst.e c dst.n && catchRoom s dst.r dst.e c dst.n)

/-! ## TOKEN_SEND (R70, R71, R99) -/

/-- The first copy that may leave: no earlier copy stands for the same pair, and there is credit. `seen` holds the places
of the copies passed over, with their pairs, none for a marker. -/
def pickCopy (s : State) (src : At) : List (Nat × Nat × At × Token) → List (At × Option Nat) → Option (Nat × Nat × At × Token)
  | [], _ => none
  | (i, j, dst, t) :: xs, seen =>
    let key := if isCutMarker t then none else some ((pairOf s dst.r dst.e dst.n (hCtx t.hdr)).getD 12)
    let blocked := seen.any (fun x => x.1 == dst && (key.isNone || x.2 == key || x.2.isNone))
    if !blocked && sendRoom s src dst t then some (i, j, dst, t) else pickCopy s src xs (seen ++ [(dst, key)])

/-- The copies of an output queue, in order; a token that was fired in this cycle is not in the queue yet (R71). -/
def copyList (s : State) (r : Nat) (q : List OutTok) : List (Nat × Nat × At × Token) :=
  ((q.zip (List.range q.length)).filter (fun x => !x.1.new)).flatMap (fun x =>
    (x.1.copies.zip (List.range x.1.copies.length)).map (fun y => (x.2, y.2, destAt s r y.1.1, y.1.2)))

/-- Takes a copy out of a queue; a token with no copy left frees its entry. -/
def takeCopy (q : List OutTok) (i j : Nat) : List OutTok :=
  match q[i]? with
  | none => q
  | some o =>
    let cs := o.copies.eraseIdx j
    if cs.isEmpty then q.eraseIdx i else q.set i { o with copies := cs }

/-- Output queues of a region may send: its graph runs, and it is not frozen (R398). -/
def regionSends (s : State) (r : Nat) : Bool := graphMoves s r && !(getR s r).hung && !(getR s r).frozen

/-- The matrix node's output sends. -/
def mmSend (s : State) (r : Nat) : State :=
  let g := getR s r
  match pickCopy s ⟨r, 257, 0, 0⟩ (copyList s r g.mmOut) [] with
  | none => s
  | some (i, j, dst, t) =>
    { setR s r { g with mmOut := takeCopy g.mmOut i j } with links := s.links ++ [{ src := ⟨r, 257, 0, 0⟩, dst := dst, tok := t }] }

/-- TOKEN_SEND: an output queue sends one token, an element's at most one in a cycle (R71). The rank-7 end of a bound port ends its binding as it leaves (R277). After
an EBB save nothing is sent but what a bound source has put ahead of its marker (R110, R358). -/
def execTokenSend (at_ : At) (s : State) : Host.Outcome State Fault Refusal :=
  let src : At := at_
  let last := (nodePort (getN s at_.r at_.e at_.c) at_.n).queue.any (fun o => isCutMarker o.tok)
  if !regionSends s at_.r || (ebbSaved s at_.r (if at_.e = 257 then none else savedAt s at_.r at_.e) && !last) then .next s
  else if at_.e = 257 then .next (mmSend s at_.r)
  else
    let n := getN s at_.r at_.e at_.c
    let p := nodePort n at_.n
    match (if p.sent && at_.e < 256 then none else pickCopy s src (copyList s at_.r p.queue) []) with
    | none => .next s
    | some (i, j, dst, t) =>
      let q := takeCopy p.queue i j
      let cyc := decide (at_.e < 256)
      let n := setPort n at_.n { p with queue := q, sent := cyc, freed := cyc && decide (q.length < p.queue.length) }
      let gone := hEnd t.hdr == 7 && hKind t.hdr == 0 && p.spb.isSome && !q.any (fun o => hEnd o.tok.hdr == 7)
      let s := setN s at_.r at_.e at_.c (if gone then endBinding n at_.n else n)
      let s := if at_.e < 256 && !isCutMarker t then
          setE s at_.r at_.e { getE s at_.r at_.e with counters := bump (getE s at_.r at_.e).counters 12 } else s
      .next { s with links := s.links ++ [{ src := src, dst := dst, tok := t }] }

/-! ## TOKEN_ARRIVAL (R68, R77, R81, R110, R111) -/

/-- Changes every pair bound on a channel of an element or helm core. -/
def withChannel (s : State) (r e ch : Nat) (f : Pair → Pair) : State :=
  let one := fun (n : Node) => if (nodePair n ch).ctxset = 0 then n else setPair n ch (f (nodePair n ch))
  if e = 256 then setH s r { getH s r with node := one (getH s r).node }
  else setE s r e { getE s r e with ctxs := aMap (fun _ n => one n) (getE s r e).ctxs }

/-- Every feeder of a channel is among those whose marker has arrived. -/
def allMarked (s : State) (r e ch : Nat) (l : List At) : Bool := (markersOf s r e ch).all l.contains

/-- The cut in flight has this number and kind. -/
def cutIs (s : State) (r : Nat) (kind seq : Nat) : Bool :=
  match launchOf s r with
  | some (_, x) => (match x.cut with | some c => c.kind == kind && c.seq == seq | none => false)
  | none => false

/-- MARKSEQ (R394). -/
def markSeq (t : Token) : Trap :=
  { cause := 0x48, arg := (t.pay.get 0).toNat, tval := (t.pay.get 1).setWidth 64, hdr := t.hdr }

/-- A marker arrives on a channel: beside every pair bound there until the save; after it, it ends the catching of its
feeder's tokens (R110, R111). -/
def markerArrive (s : State) (src dst : At) (t : Token) : State :=
  let seq := (t.pay.get 1).toNat
  if !cutIs s dst.r (t.pay.get 0).toNat seq then elemFault s (.elem dst.r dst.e 0 0) (markSeq t)
  else if savedAt s dst.r dst.e = some seq then
    withChannel s dst.r dst.e dst.n (fun p =>
      let m := if p.marked.contains src then p.marked else p.marked ++ [src]
      if allMarked s dst.r dst.e dst.n m then { p with catching := false, marked := [] } else { p with marked := m })
  else withChannel s dst.r dst.e dst.n (fun p => { p with marker := some t, marked := p.marked ++ [src] })

/-- A token caught on the link joins the image of the element or helm core that has saved, with its caught flag
(R111). -/
def imageCatch (s : State) (r e c ch : Nat) (q : QTok) : State :=
  match launchOf s r with
  | none => s
  | some (l, x) => match x.cut with
    | none => s
    | some k =>
      let t := setR s r (aGet Region.reset k.image r)
      let t := serveToken (withPair t r e c ch (fun p => { p with queue := p.queue ++ [{ q with caught := true }] })) r e c ch q.away q.tok
      setL s l { x with cut := some { k with image := aSet k.image r (getR t r) } }

/-- Counts an event of an element. -/
def countE (s : State) (r e k : Nat) : State :=
  if e < 256 then setE s r e { getE s r e with counters := bump (getE s r e).counters k } else s

/-- The RELOAD that a data token is the first of its extended range to follow (R61). -/
def reloadFor (p : Pair) (t : Token) : Option (Ival × Nat) :=
  if hKind t.hdr = 0 then p.reload.find? (fun x => (tokTimes p.tstep t).any (fun u => ivHas x.1 (hCtx t.hdr) u)) else none

/-- The RELOAD token: lane 0 is 1, lane 1 the checkpoint's time (R61). -/
def reloadTok (ctx c : Nat) (t : BitVec 36) : Token :=
  { hdr := mkHdr 1 7 0 ctx 3 t.toNat, pay := Lanes.ofList [1, BitVec.ofNat 32 c] }

/-- Puts RELOAD into a pair ahead of a token, where one is due. -/
def reloadPair (s : State) (r e c ch : Nat) (t : Token) : State :=
  match reloadFor (nodePair (getN s r e c) ch) t with
  | none => s
  | some x =>
    let f := freshen s
    let q : QTok := { tok := reloadTok (hCtx t.hdr) x.2 (Config.reloadT f.1), away := false, caught := false, new := decide (e < 256) }
    withPair f.2 r e c ch (fun p => { p with queue := p.queue ++ [q], reload := p.reload.erase x })

/-- A token enters a pair's queue, behind the RELOAD it brings (R61). -/
def enterPair (s : State) (r e c ch : Nat) (q : QTok) : State :=
  serveToken (withPair (reloadPair s r e c ch q.tok) r e c ch (fun p => { p with queue := p.queue ++ [q] })) r e c ch q.away q.tok

/-- A token joins a pair: behind a marker, caught, or in the queue (R61, R68, R110, R111). -/
def joinPair (s : State) (src : At) (r e c ch : Nat) (q : QTok) : State :=
  let p := nodePair (getN s r e c) ch
  if p.marker.isSome && p.marked.contains src then withPair s r e c ch (fun p => { p with behind := p.behind ++ [q] })
  else enterPair (if p.catching && !p.marked.contains src then countE (imageCatch s r e c ch q) r e 15 else s) r e c ch q

/-- NOCONV (R394). -/
def noConv (arg idx : Nat) (h : W64) : Trap := { cause := 0x44, arg := arg, tval := BitVec.ofNat 64 idx, hdr := h }

/-- A data or scale token whose FMT a pair does not accept (R81). -/
def wrongFmt (p : Pair) (t : Token) : Bool := (hKind t.hdr == 0 || hKind t.hdr == 3) && !p.fmtmask.getLsbD (hFmt t.hdr)

/-- Index of a pair in a record: the channel in a helm core. -/
def pairNo (s : State) (r e c ch : Nat) : Nat := if e = 256 then ch else pairIndex (getE s r e) c ch

/-- A token arrives at a channel of an element or helm core. -/
def channelArrive (s : State) (l : Link) (rest : State) : State :=
  let (r, e, ch) := (l.dst.r, l.dst.e, l.dst.n)
  let t := l.tok
  if isCutMarker t then markerArrive rest l.src l.dst t
  else match pairOf s r e ch (hCtx t.hdr) with
    | none => elemFault s (.elem r e 0 0) { cause := 0x43, arg := ch, tval := 0, hdr := t.hdr }
    | some c =>
      let p := nodePair (getN s r e c) ch
      if isReturn p r l.src then s
      else if wrongFmt p t then
        match p.conv with
        | none => elemFault s (.elem r e c 0) (noConv 0 (pairNo s r e c ch) t.hdr)
        | some (ce, cc) =>
          let x := joinPair (countE (countE rest r e 11) r e 14) l.src r e c ch { tok := t, away := true, caught := false, new := decide (e < 256) }
          { x with links := x.links ++ [{ src := ⟨r, e, c, ch⟩, dst := ⟨r, ce, 0, cc⟩, tok := t }] }
      else postAsked (joinPair (countE rest r e 11) l.src r e c ch { tok := t, away := false, caught := false, new := decide (e < 256) }) r

/-- A token on its way may arrive: one that has to go on to a conversion node needs credit there, and one that brings a RELOAD a
slot for that (R61, R69, R81; log 104). -/
def canArrive (s : State) (l : Link) : Bool :=
  match (if isCutMarker l.tok || 257 ≤ l.dst.e then none else pairOf s l.dst.r l.dst.e l.dst.n (hCtx l.tok.hdr)) with
  | none => true
  | some c =>
    let p := nodePair (getN s l.dst.r l.dst.e c) l.dst.n
    ((reloadFor p l.tok).isNone || slotFree s l.dst.r l.dst.e (pairUse s l.dst.r l.dst.e c l.dst.n)) && match p.conv with
    | some (ce, cc) => isReturn p l.dst.r l.src || !wrongFmt p l.tok || sendRoom s ⟨l.dst.r, l.dst.e, c, l.dst.n⟩ ⟨l.dst.r, ce, 0, cc⟩ l.tok
    | none => true

/-- The first token of one source that may arrive, none of its own pair being before it; `seen` holds the pairs passed over,
none for a marker (R69, R70). Of tokens for different pairs, which R170 leaves unordered, it takes the first in send order
(log 104). -/
def firstArrival (s : State) : List Link → List (Option Nat) → Option Link
  | [], _ => none
  | l :: ls, seen =>
    let key := if isCutMarker l.tok then none else some ((pairOf s l.dst.r l.dst.e l.dst.n (hCtx l.tok.hdr)).getD 12)
    let blocked := seen.any (fun x => x.isNone || key.isNone || x == key)
    if !blocked && canArrive s l then some l else firstArrival s ls (seen ++ [key])

/-- The oldest token on its way from the k-th of the sources that have one there; tokens of different sources arrive in
any order (R70). -/
def linkOf (s : State) (a : At) : Option Link :=
  let ls := s.links.filter (fun l => l.dst.r == a.r && l.dst.e == a.e && l.dst.n == a.n && (a.e < 258 || l.dst.c == a.c))
  let srcs := (ls.map (·.src)).eraseDups
  match srcs[if a.e < 258 then a.c else 0]? with
  | some x => firstArrival s (ls.filter (fun l => l.src == x)) []
  | none => none

/-- A chain's local input takes a token for its hop (R103). -/
def chainArrive (s : State) (src : At) (r chain hop : Nat) (t : Token) : State :=
  match launchOf s r with
  | some (l, x) => setL s l { x with partials := x.partials ++ [(chain, hop, false, src, t)] }
  | none => s

/-- TOKEN_ARRIVAL: a token on its way arrives; one whose CTX no pair holds, or whose format nothing can convert, is not
stored (R68, R81). -/
def execTokenArrival (at_ : At) (s : State) : Host.Outcome State Fault Refusal :=
  match linkOf s at_ with
  | none => .next s
  | some l =>
    let rest := { s with links := s.links.erase l }
    if !graphMoves s l.dst.r then .next s
    else if l.dst.e = 257 then
      let g := getR s l.dst.r
      if isCutMarker l.tok && !cutIs s l.dst.r (l.tok.pay.get 0).toNat (l.tok.pay.get 1).toNat then
        .next (elemFault s (mmAgent l.dst.r) (markSeq l.tok))
      else .next (setR rest l.dst.r { g with mmq := g.mmq ++ [l.tok] })
    else if l.dst.e = 258 then
      if isCutMarker l.tok && !cutIs s l.dst.r (l.tok.pay.get 0).toNat (l.tok.pay.get 1).toNat then
        .next (elemFault s (.elem l.dst.r 258 0 0) (markSeq l.tok))
      else .next (chainArrive rest l.src l.dst.r l.dst.c l.dst.n l.tok)
    else .next (serveReqs (channelArrive s l rest))

/-! ## CONVERSION_RETURN (R81) -/

/-- A token as its conversion node sends it back: T, END, CTX and VMASK are unchanged (R81). -/
def convTok (old new : Token) : Token := { hdr := Bits.put old.hdr 59 3 (hFmt new.hdr), pay := new.pay }

/-- Puts a converted token into its original place; no trigger sees it before the next cycle (R71). -/
def convPut (new : Bool) : List QTok → Token → List QTok
  | [], _ => []
  | q :: qs, t =>
    if q.away then
      { q with away := false, new := new, tok := convTok q.tok t } :: qs
    else q :: convPut new qs t

/-- CONVERSION_RETURN: the converted token comes back to its pair; one whose FMT is still outside the mask is NOCONV 1. -/
def execConversionReturn (at_ : At) (s : State) : Host.Outcome State Fault Refusal :=
  let (r, e, c, ch) := (at_.r, at_.e, at_.c, at_.n)
  let p := nodePair (getN s r e c) ch
  match s.links.find? (fun l => l.dst.r == r && l.dst.e == e && l.dst.n == ch && !isCutMarker l.tok && isReturn p r l.src &&
      pairOf s r e ch (hCtx l.tok.hdr) == some c) with
  | none => .next s
  | some l =>
    if !graphRuns s r then .next s
    else if wrongFmt p l.tok then .next (elemFault s (.elem r e c 0) (noConv 1 (pairNo s r e c ch) l.tok.hdr))
    else
      let s := { s with links := s.links.erase l }
      let cyc := decide (e < 256)
      match p.queue.find? (·.away) with
      | some q => .next (fillHist (withPair s r e c ch (fun p => { p with queue := convPut cyc p.queue l.tok })) r e c ch (convTok q.tok l.tok))
      | none => .next (withPair s r e c ch (fun p => { p with behind := convPut cyc p.behind l.tok }))

/-! ## OPERATION_COMPLETE (R71, R244) -/

/-- A pair-form ATOM in flight is applied at its bank, whole, or stands there (R262, R280). -/
def pairComplete (s : State) (r e c : Nat) (n : Node) (f : Flight) : Host.Outcome State Fault Refusal :=
  let w := slotWord n f.slot
  match atomPairRun w (setN s r e c { n with flight := none }) with
  | .done s => .next (complete s w (elemTrig (getE s r e) n (fieldT w).toNat).1 none)
  | .wait _ s => .next (setN s r e c { getN s r e c with flight := some f })
  | .trap t => .next (elemFault (bankLeave (setN s r e c { n with flight := none })) s.agent t)
  | .absent pa => .fault (.absentMemory pa)
  | .jump .. | .hold _ | .trapFrom .. => .next s

/-- OPERATION_COMPLETE: in a cycle after the one that began it a held operation writes its results, and its trigger action and dequeues follow. -/
def execOperationComplete (r e c : Nat) (s : State) : Host.Outcome State Fault Refusal :=
  let n := getN s r e c
  match n.flight with
  | none => .next s
  | some f =>
    let el := getE s r e
    if e = 256 || !cycleRuns s r || ebbSaved s r el.saved || (el.fired && el.lastCtx = c) then .next s
    else
      let s := { s with agent := .elem r e c f.slot }
      if isAtomPair (slotWord n f.slot) then pairComplete s r e c n f
      else
      let s := setN s r e c { n with flight := none }
      match f.trap with
      | some t => .next (elemFault s s.agent t)
      | none => match commitFire { n with flight := none } f.fire with
        | .error t => .next (elemFault s s.agent t)
        | .ok n' =>
          let w := slotWord n f.slot
          .next (complete (setN s r e c n') w (elemTrig (getE s r e) n (fieldT w).toNat).1 none)

/-! ## CHAIN_HOP_ADD (R103, R201) -/

/-- An Ethernet port adder. -/
def hopEth (x : W64) : Bool := Bits.nat x 1 0 == 1
/-- PORT. -/
def hopPort (x : W64) : Nat := Bits.nat x 11 8
/-- GIDX. -/
def hopGidx (x : W64) : Nat := Bits.nat x 57 32

/-- The sum of an incoming and a local partial: FP32, RNE; a lane valid in one passes unchanged; the higher END. -/
def chainSum (a b : Token) : Token :=
  let ma := hMask a.hdr
  let mb := hMask b.hdr
  let lane := fun k =>
    if maskBit ma k && maskBit mb k then BitVec.ofNat 32 (fAdd f32 0 (a.pay.get k).toNat (b.pay.get k).toNat).1
    else if maskBit ma k then a.pay.get k else if maskBit mb k then b.pay.get k else 0
  { hdr := hSetEnd (hSetMask b.hdr (ma ||| mb)) (max (hEnd a.hdr) (hEnd b.hdr)), pay := Lanes.ofFn lane }

/-- The partial of a hop goes on: to the next hop on this device, or to OUT after the last; to another device it leaves
the model (log 25). -/
def chainForward (s : State) (l chain hop gidx : Nat) (t : Token) : State :=
  match getL s l with
  | none => s
  | some x =>
    let ch := x.chains.getD chain 0
    if hop + 1 < chainHops ch then
      if hopGidx (chainHop ch (hop + 1)) = gidx then setL s l { x with partials := x.partials ++ [(chain, hop + 1, true, ⟨x.origin, 258, chain, hop⟩, t)] } else s
    else
      let r := x.origin
      { s with links := s.links ++ [{ src := ⟨r, 258, chain, hop⟩, dst := destAt s r (chainOut ch), tok := t }] }

/-- GIDX of a launch on this device: that of its GROUP level, else 0 (R91). -/
def launchGidx (x : Launch) : Nat :=
  let lv := fun n => Bits.ofBytes ((x.record.drop (136 + 8 * n)).take 8)
  (((List.range 8).filter (fun n => lv n / 2 ^ 61 % 8 == 7)).map (fun n => lv n / 2 ^ 32 % 2 ^ 26)).headD 0

/-- The port of a hop, where it is an Ethernet adder's, is up (R439). -/
def hopUp (s : State) (x : W64) : Bool := !hopEth x || (aGet EthPort.reset s.ports (hopPort x)).up

/-- A partial at a chain hop. -/
abbrev Partial := Nat × Nat × Bool × At × Token

/-- The data partials of a list that no cut marker of their own source precedes. -/
def aheadOf : List At → List Partial → List Partial
  | _, [] => []
  | seen, p :: l =>
    if isCutMarker p.2.2.2.2 then aheadOf (p.2.2.2.1 :: seen) l
    else if seen.contains p.2.2.2.1 then aheadOf seen l else p :: aheadOf seen l

/-- The first marker of each source of a list of partials. -/
def markersAt : List At → List Partial → List Partial
  | _, [] => []
  | seen, p :: l =>
    if isCutMarker p.2.2.2.2 && !seen.contains p.2.2.2.1 then p :: markersAt (p.2.2.2.1 :: seen) l else markersAt seen l

/-- Two partials pair: of equal T and CTX. -/
def chainPairs (a b : Partial) : Bool := hT a.2.2.2.2.hdr == hT b.2.2.2.2.hdr && hCtx a.2.2.2.2.hdr == hCtx b.2.2.2.2.hdr

/-- CHAIN_HOP_ADD: the adder of a hop pairs its oldest incoming partial with the oldest local one of equal T and CTX, and
forwards the sum, the last hop under OUT's credit (R69); hop 0 passes its local partial on; a marker goes on once it has arrived on both inputs, and none of
what it holds back passes it. -/
def execChainHopAdd (l chain hop : Nat) (s : State) : Host.Outcome State Fault Refusal :=
  match getL s l with
  | none => .next s
  | some x =>
    let h := chainHop (x.chains.getD chain 0) hop
    let mine := fun (side : Bool) => x.partials.filter (fun p => p.1 == chain && p.2.1 == hop && p.2.2.1 == side)
    let go := fun (used : List Partial) (t : Token) =>
      Host.Outcome.next (chainForward (setL s l { x with partials := used.foldl List.erase x.partials }) l chain hop (launchGidx x) t)
    let inc := aheadOf [] (mine true)
    let loc := aheadOf [] (mine false)
    let marks := markersAt [] (mine false) ++ markersAt [] (mine true)
    let need := ((hopFeeders s x.origin chain hop).map (·.1)).eraseDups.length + (if hop = 0 then 0 else 1)
    if !(x.phase == .running || x.phase == .rerun) || !hopUp s h || hopGidx h ≠ launchGidx x then .next s
    else
      let data := if hop = 0 then (loc.head?).map (fun p => ([p], p.2.2.2.2))
        else inc.findSome? (fun a => (loc.find? (chainPairs a)).map (fun b => ([a, b], chainSum a.2.2.2.2 b.2.2.2.2)))
      let last := chainHops (x.chains.getD chain 0) ≤ hop + 1
      let room := fun (t : Token) => !last || sendRoom s ⟨x.origin, 258, chain, hop⟩ (destAt s x.origin (chainOut (x.chains.getD chain 0))) t
      match data, marks with
      | some d, _ => if room d.2 then go d.1 d.2 else .next s
      | none, m :: _ => if marks.length = need && inc.isEmpty && loc.isEmpty then go marks m.2.2.2.2 else .next s
      | none, [] => .next s

end Sys2Proof.Machine
end

