-- ==== Sys2Proof/Machine/Loader.lean ====
section
/-!
DEFINITION. The configuration loader: graph images, sections and records (R97 to R103, R207, R217, R443), what a record
gives a region, and the checks of a load in the order in which the records lie (R392).
-/

namespace Sys2Proof.Machine

/-! ## Reading through the tables -/

/-- A walk for the headwater's own reads: the page must be the partition's, whatever its permissions (R90). -/
def walkAny (s : State) (part va : Nat) : Option Nat :=
  if 2 ^ 57 ≤ va then none
  else match xlate s part va 3 with
  | .ok x => some x.1
  | .error _ => none

/-- Bytes at a virtual address, page by page, as a graph sees them, or as committed for none. -/
def virtRead (s : State) (part : Nat) (l : Option Nat) : Nat → Nat → Nat → Option (List Byte)
  | 0, _, n => if n = 0 then some [] else none
  | k + 1, va, n =>
    if n = 0 then some []
    else
      let m := min n (65536 - va % 65536)
      match walkAny s part va with
      | none => none
      | some pa => (virtRead s part l k (va + m) (n - m)).map (fun rest => viewBytes s l pa m ++ rest)

/-- `n` bytes at a virtual address. -/
def virtBytes (s : State) (part : Nat) (l : Option Nat) (va n : Nat) : Option (List Byte) :=
  virtRead s part l (n / 65536 + 2) va n

/-- Every page that a range touches is the partition's. -/
def virtOk (s : State) (part va n : Nat) : Bool :=
  (List.range ((va % 65536 + n + 65535) / 65536)).all (fun k => (walkAny s part (va / 65536 * 65536 + 65536 * k)).isSome)

/-- Writes fields at a virtual address, outside every window; a page that is not mapped takes none. -/
def virtPut (s : State) (part va : Nat) (fs : List (Nat × Nat × Nat)) : State :=
  fs.foldl (fun s f => match walkAny s part (va + f.1) with
    | some pa => hbmPutNat s pa f.2.1 f.2.2
    | none => s) s

/-! ## Graph image header and section table (R97, R98) -/

/-- The header of a graph image. -/
structure Img where
  gdig : Nat
  choff : Nat
  nch : Nat
  npeer : Nat
  peeroff : Nat
  secoff : Nat
  nsec : Nat
  shw : Nat
  shh : Nat
  shr : Nat
  race : Nat
  quad : Bool
  whole : Bool
  deriving DecidableEq, Repr

/-- Reads a header; `whole` says that its fixed fields are as R97 has them. -/
def imgOf (b : List Byte) : Img :=
  let x : BitVec 512 := BitVec.ofNat 512 (at_ b 0 64)
  let f := Bits.nat x
  let i : Img :=
    { gdig := f 511 448, choff := f 447 416, nch := f 415 408, npeer := f 407 400, peeroff := f 399 368,
      secoff := f 127 96, nsec := f 95 80, shw := f 79 72, shh := f 71 64, shr := f 63 61, race := f 60 59, quad := x.getLsbD 58,
      whole := false }
  { i with whole := f 7 0 == 1 && f 367 128 == 0 && f 57 8 == 0 && i.race < 2 && i.nsec == i.shw * i.shh * i.shr &&
      i.nch ≤ 16 && (i.nch != 0 || i.choff == 0) && (i.npeer != 0 || i.peeroff == 0) }

/-- R187 binds the graph of an image. -/
def imgWide (i : Img) : Bool := !i.quad || 1 < i.shr

/-- An entry of the section table. -/
structure SecEnt where
  sig : Nat
  off : Nat
  len : Nat
  reach : Nat
  col : Nat
  row : Nat
  rsvd : Nat
  deriving DecidableEq, Repr

/-- Reads an entry of the section table. -/
def secOf (b : List Byte) : SecEnt :=
  let x : BitVec 256 := BitVec.ofNat 256 (at_ b 0 32)
  { sig := Bits.nat x 255 192, off := Bits.nat x 191 160, len := Bits.nat x 159 128, reach := Bits.nat x 7 6,
    col := Bits.nat x 5 3, row := Bits.nat x 2 0, rsvd := Bits.nat x 127 8 }

/-- The low 64 bits of SHA-512 over a section (R98). -/
def sigOf (b : List Byte) : Nat := (Config.sha512 b).toNat % 2 ^ 64

/-! ## Records (R98) -/

/-- One record of a section. -/
structure Rec where
  off : Nat
  kind : Nat
  tgt : Nat
  ctx : Nat
  body : List Byte
  deriving DecidableEq, Repr

/-- The records of a section, and the offset of one that runs past its end. -/
def recsOf : Nat → List Byte → Nat → List Rec × Option Nat
  | 0, _, _ => ([], none)
  | k + 1, b, off =>
    if b.isEmpty then ([], none)
    else
      let len := at_ b 0 4
      if b.length < 8 + len then ([], some off)
      else
        let r : Rec := { off := off, kind := at_ b 7 1, tgt := at_ b 5 2, ctx := at_ b 4 1, body := (b.drop 8).take len }
        let x := recsOf k (b.drop (8 + len)) (off + 8 + len)
        (r :: x.1, x.2)

/-- The records of a section. -/
def records (b : List Byte) : List Rec × Option Nat := recsOf (b.length / 8 + 1) b 0

/-- The TGT and the length that a KIND allows. -/
def shapeOk (r : Rec) : Bool :=
  let elem := r.tgt < 256 && r.ctx < 12
  let node := elem || (r.tgt == 0x100 && r.ctx == 0)
  let whole := r.tgt == 0xFFFF
  let n := r.body.length
  match r.kind with
  | 1 => elem && n == 128
  | 2 => r.tgt < 256 && n == 512
  | 3 => node && n == 520
  | 4 => node && n == 64
  | 5 => elem && n == 128
  | 6 => elem && n == 640
  | 7 => whole && n == 8
  | 8 => whole && n == 64
  | 9 => whole && 516 ≤ n
  | 10 => whole && 8 ≤ n
  | 11 => (r.tgt < 256 || (r.tgt == 0x100 && r.ctx == 0)) && n == 8
  | 12 => elem && 8 ≤ n
  | _ => false

/-! ## What a record gives a region (R99 to R102, R217, R443) -/

/-- The values that a section primes on a channel: the record that carries them stands nowhere in the manual, and State
holds them beside the section's bytes (R217; log 26). -/
def primesOf (s : State) (b : List Byte) (e c ch : Nat) : List W32 :=
  (s.primes.filter (fun p => p.sect == b && p.elem == e && p.ctx == c && p.chan == ch)).flatMap (·.vals)

/-- A primed token (R217). -/
def primeTok (ctxset : BitVec 16) (v : W32) : QTok :=
  let c := ((List.range 16).find? (fun k => ctxset.getLsbD k)).getD 0
  { tok := { hdr := mkHdr 0 5 0 c 0x0001 0, pay := v.setWidth 512 }, away := false, caught := false, new := false }

/-- An input pair entry (R99). -/
def pairIn (p : Pair) (x : BitVec 128) (primes : List W32) : Pair :=
  let set : BitVec 16 := x.extractLsb' 112 16
  { p with ctxset := set, fmtmask := x.extractLsb' 104 8, tstep := Bits.nat x 103 96, gl := x.extractLsb' 94 2,
           sink := x.getLsbD 93, conv := if x.getLsbD 75 then some (Bits.nat x 72 64, Bits.nat x 74 73) else none,
           queue := if set = 0 then [] else primes.map (primeTok set) }

/-- Destination entry d of port n of a BIND record. -/
def bindDest (b : List Byte) (n d : Nat) : W64 := BitVec.ofNat 64 (at_ b (0x80 + 64 * n + 8 * d) 8)

/-- An output port entry with its destinations (R99). -/
def portIn (p : Port) (b : List Byte) (n : Nat) : Port :=
  let x : BitVec 128 := BitVec.ofNat 128 (at_ b (0x40 + 16 * n) 16)
  let k := min (Bits.nat x 127 124) 8
  { p with role := x.extractLsb' 122 2, dests := (List.range k).map (bindDest b n), dset := List.replicate k [] }

/-- The route table's header and destinations (R99). -/
def routeHead (b : List Byte) : W64 := BitVec.ofNat 64 (at_ b 0x180 8)
/-- The route table's destinations. -/
def routeList (b : List Byte) : List W64 := (List.range 16).map (fun k => BitVec.ofNat 64 (at_ b (0x188 + 8 * k) 8))

/-- A BIND record. -/
def bindNode (n : Node) (b : List Byte) (primes : Nat → List W32) : Node :=
  let n := (List.range 4).foldl (fun n k =>
    setPort (setPair n k (pairIn (nodePair n k) (BitVec.ofNat 128 (at_ b (16 * k) 16)) (primes k))) k (portIn (nodePort n k) b k)) n
  let h := routeHead b
  let on := (List.range 4).any (fun k => (nodePort n k).role == 2)
  { n with rbase := h.extractLsb' 0 32, rspace := h.extractLsb' 32 2, rport := h.extractLsb' 34 2,
           routes := if on then routeList b else [] }

/-- An entry of a STATE record (R100). -/
def classIn (x : W64) : ClassEnt :=
  { cls := x.extractLsb' 0 3, param := Bits.nat x 31 8, area := Bits.nat x 51 32, w := 0, ring := 0 }

/-- The entries of a STATE record; an entry of zeros is class SL. -/
def classesIn (b : List Byte) : Assoc ClassEnt :=
  ((List.range 16).filter (fun k => at_ b (8 * k) 8 != 0)).map (fun k => (k, classIn (BitVec.ofNat 64 (at_ b (8 * k) 8))))

/-- An entry of a MEMR record (R443). -/
def rangeIn (b : List Byte) : MemRange :=
  let f : Byte := BitVec.ofNat 8 (at_ b 16 1)
  { lo := at_ b 0 8, hi := at_ b 8 8, space := f.extractLsb' 0 2, acc := f.extractLsb' 2 2, owner := f.getLsbD 4,
    fe := f.getLsbD 5, node := BitVec.ofNat 32 (at_ b 24 4) }

/-- The entries of a MEMR record. -/
def rangesIn (b : List Byte) : List MemRange := (List.range (at_ b 0 1)).map (fun k => rangeIn ((b.drop (8 + 32 * k)).take 32))

/-- Changes a node of a region: element 0x100 is the helm core. -/
def onNode (g : Region) (e c : Nat) (f : Node → Node) : Region :=
  if e = 0x100 then { g with helm := { g.helm with node := f g.helm.node } }
  else
    let el := aGet Elem.reset g.elems e
    { g with elems := aSet g.elems e { el with ctxs := aSet el.ctxs c (f (aGet Node.reset el.ctxs c)) } }

/-- The non-zero entries of a trigger table, from 1 up to 62. -/
def trigsIn (b : List Byte) : Assoc W64 :=
  (((List.range 62).map (· + 1)).filter (fun k => at_ b (8 * k) 8 != 0)).map (fun k => (k, BitVec.ofNat 64 (at_ b (8 * k) 8)))

/-- A CTRL record (R101). -/
def ctrlIn (g : Region) (b : List Byte) : Region :=
  let x : W64 := BitVec.ofNat 64 (at_ b 0 8)
  let fix := x.getLsbD 2
  { g with mxmode := x.getLsbD 0, rwoff := x.getLsbD 1, gfix := fix, gclk := x.extractLsb' 4 3, clock := if fix then x.extractLsb' 4 3 else g.clock,
           kvlim := x.extractLsb' 32 32, mmResp := BitVec.ofNat 64 (at_ b 8 8),
           mx := Vector.ofFn (fun (k : Fin 4) => BitVec.ofNat 64 (at_ b (16 + 8 * k.val) 8)) }

/-- Header of a BUF record: OFF, space, SCR and the length of a scratch range (R102). -/
def bufHead (b : List Byte) : Nat × Nat × Bool × Nat :=
  let x : W64 := BitVec.ofNat 64 (at_ b 0 8)
  (Bits.nat x 19 0, Bits.nat x 21 20, x.getLsbD 22, Bits.nat x 51 32)

/-- A BUF record (R102). -/
def bufIn (g : Region) (b : List Byte) : Region :=
  let (off, sp, scr, len) := bufHead b
  if scr then { g with scratch := g.scratch ++ [(sp, off, len)] } else bufPut g sp off (b.drop 8)

/-- One record applied to a region; `primes` gives the values primed on a channel of an element's context. -/
def applyRec (primes : Nat → Nat → Nat → List W32) (g : Region) (r : Rec) : Region :=
  let b := r.body
  match r.kind with
  | 1 =>
    let used := (List.range 32).filter (fun k => at_ b (4 * k) 4 != 0xFFFFFFFF)
    onNode g r.tgt r.ctx (fun n => { n with slots := used.map (fun k => (k, BitVec.ofNat 32 (at_ b (4 * k) 4))) })
  | 2 => { g with elems := aSet g.elems r.tgt { aGet Elem.reset g.elems r.tgt with trig := trigsIn b } }
  | 3 => onNode g r.tgt r.ctx (fun n => bindNode n b (primes r.tgt r.ctx))
  | 4 => onNode g r.tgt r.ctx (fun n => (List.range 4).foldl (fun n k =>
      setPair n k { nodePair n k with rtf := rtfKept (BitVec.ofNat 128 (at_ b (16 * k) 16)) }) n)
  | 5 => onNode g r.tgt r.ctx (fun n => { n with classes := classesIn b })
  | 6 => onNode g r.tgt r.ctx (fun n => let x := ctxRegs (memWriteN [] 0 b) 0; { n with regs := x.1, rr := x.2 })
  | 7 => { g with wheel := BitVec.ofNat 64 (at_ b 0 8) }
  | 8 => ctrlIn g b
  | 9 => { g with helm := { g.helm with text := memWriteN [] 0 b, textEnd := at_ b 0 4, trig := trigsIn b, running := true } }
  | 10 => bufIn g b
  | 11 => if r.tgt = 0x100 then onNode g 0x100 0 (fun n => (List.range 4).foldl (fun n k =>
        setPair n k { nodePair n k with back := (at_ b 0 1).testBit k }) n)
      else { g with elems := aSet g.elems r.tgt (let el := aGet Elem.reset g.elems r.tgt
        { el with ctxs := (List.range 12).foldl (fun cs c =>
            let n := aGet Node.reset cs c
            if n = Node.reset && (at_ b 0 1) = 0 then cs
            else aSet cs c ((List.range 4).foldl (fun n k => setPair n k { nodePair n k with back := (at_ b 0 1).testBit k }) n)) el.ctxs }) }
  | 12 => onNode g r.tgt r.ctx (fun n => { n with ranges := rangesIn b })
  | _ => g

/-- Entry 0 of the checkpoint ring of each SEED tag, from the context's initial registers (R274). -/
def seedEntries (g : Region) : Region :=
  g.elems.foldl (fun g e => e.2.ctxs.foldl (fun g c => c.2.classes.foldl (fun g x =>
    if x.2.cls = 3 then bufPut g 1 (chkAddr x.2 x.1 0) (chkBytes c.2.regs 0) else g) g) g) g

/-- A region as a section leaves it; without a WHEEL record the wheel is that of R106 with every weight 0 (R100). -/
def buildRegion (primes : Nat → Nat → Nat → List W32) (g : Region) (rs : List Rec) : Region :=
  let g := seedEntries (rs.foldl (applyRec primes) g)
  if rs.any (fun r => r.kind == 7) then g else { g with wheel := wheelFor g [] }

/-- The words that a node runs: its slots, or the helm core's text. -/
def nodeWords (g : Region) (e : Nat) (n : Node) : List W32 :=
  if e = 256 then (List.range ((g.helm.textEnd - 512) / 4)).map (fun k => BitVec.ofNat 32 (memNat g.helm.text (512 + 4 * k) 4))
  else n.slots.map (·.2)

/-- FILTER or COAL writes a port (R66, R256, R257). -/
def compacts (ws : List W32) (k : Nat) : Bool := ws.any (fun w => (fieldO w == 0x67 || fieldO w == 0x68) && (portsOf w).contains k)

/-- The place that a destination reaches: that of a chain's output for a hop of the chain (R103). -/
def throughChain (s : State) (r : Nat) (a : At) : At :=
  match launchOf s r with
  | some (_, x) => if a.e = 258 then destAt s x.origin (chainOut (x.chains.getD a.c 0)) else a
  | none => a

/-- Marks what the whole graph decides: which channels are fed (R109), the TSTEP of each port (R99), and the ports that
apply no demand filter (R66). -/
def markGraph (s : State) (r : Nat) : State :=
  let chan := fun (s : State) (x : Nat × Nat × Node) =>
    let ws := nodeWords (getR s r) x.1 x.2.2
    let n := (List.range 4).foldl (fun n k =>
      let dst := fun (d : W64) =>
        let a := throughChain s r (destAt s r d)
        (if a.e < 257 then (if a.e = 256 then [(getH s a.r).node] else (getE s a.r a.e).ctxs.map (·.2)) else []).map (fun m => nodePair m a.n)
      let ts := ((portDests n k).flatMap dst).filter (fun p => p.ctxset != 0)
      let n := setPair n k { nodePair n k with fed := isFed s r x.1 k }
      setPort n k { nodePort n k with tstep := ((ts.head?).map (·.tstep)).getD 1, compact := compacts ws k }) x.2.2
    setN s r x.1 x.2.1 n
  (nodesOf (getR s r)).foldl chan s

/-! ## Checks (R392) -/

/-- Why a section is refused: the cause, its argument, the place, and hs.tval. -/
structure LoadFail where
  code : Nat
  arg : Nat
  elem : Nat
  ctx : Nat
  slot : Nat
  tval : W64
  deriving DecidableEq, Repr

/-- What the checks of a section need to know: the state in which every section of the graph stands as its records give
it, the region, the shape of the placement, the number of hops of each chain, and the section's number. -/
structure LoadCtx where
  st : State
  r : Nat
  shw : Nat
  shh : Nat
  shr : Nat
  wide : Bool
  hops : List Nat
  sect : Nat

/-- LOADREJ for a record. -/
def rejRec (c : LoadCtx) (arg : Nat) (r : Rec) (slot : Nat) : Option LoadFail :=
  some { code := 0x30, arg := arg, elem := if r.tgt = 0xFFFF then 0x1FF else r.tgt, ctx := r.ctx, slot := slot,
         tval := BitVec.ofNat 64 (packFields [(48, 16, c.sect), (0, 32, r.off)]) }

/-- A trigger entry breaks R231 or R73. -/
def trigBad (e : W64) : Bool :=
  let tsel := Bits.nat e 39 38
  Bits.nat e 10 0 != 0 || (e.extractLsb' 48 8 &&& ~~~ e.extractLsb' 56 8 : BitVec 8) != 0 ||
    (tsel == 0 && Bits.nat e 37 32 != 0) || (tsel == 1 && Bits.nat e 35 34 != 0) || (tsel == 3 && 8 ≤ Bits.nat e 35 32)

/-- The channels a word reads: those its operands name, but for the channel that DMD, DMDR, DMDK and RTFW act on. -/
def readsOf (w : W32) : List Nat :=
  let codes := codesOf w
  ((if 0x8C ≤ (fieldO w).toNat && (fieldO w).toNat ≤ 0x8F then codes.drop 1 else codes).filter (fun c => classOf c == 4)).map chanOf

/-- Memory instructions (R169). -/
def isMemOp (w : W32) : Bool := let o := (fieldO w).toNat; (0xA0 ≤ o && o ≤ 0xB9) || o == 0x91 || o == 0x92

/-- Every FMT that the pair of a .tag instruction's A accepts is one that the opcode takes (R243). -/
def tagOk (n : Node) (w : W32) : Bool :=
  let o := (fieldO w).toNat
  match opRow o with
  | some (_, 0, _, tys, _) =>
    if (fieldY w).toNat ≠ 7 then true
    else (List.range 8).all (fun f => !(nodePair n (chanOf (fieldA w).toNat)).fmtmask.getLsbD f ||
      (match tyOfFmt f with
        | some t => if 8 ≤ t then isMove o else tys.testBit t
        | none => false))
  | _ => true

/-- The checks of one slot. -/
def slotCheck (c : LoadCtx) (r : Rec) (k : Nat) : Option LoadFail :=
  let w : W32 := BitVec.ofNat 32 (at_ r.body (4 * k) 4)
  if w = 0xFFFFFFFF then none
  else match staticFault false w with
    | some (code, arg) => some { code := code, arg := arg, elem := r.tgt, ctx := r.ctx, slot := k, tval := w.setWidth 64 }
    | none =>
      let el := getE c.st c.r r.tgt
      let n := aGet Node.reset el.ctxs r.ctx
      let t := (fieldT w).toNat
      let e := (elemTrig el n t).1
      if t = 63 || (readsOf w).any (fun i => !e.getLsbD (44 + i)) || (portsOf w).any (fun o => !e.getLsbD (40 + o)) ||
          (List.range 4).any (fun i => e.getLsbD (12 + i) && !e.getLsbD (44 + i)) then rejRec c 4 r k
      else if !tagOk n w then rejRec c 11 r k
      else if fieldO w = 0xA9 && classOf (fieldA w).toNat = 4 && classOf (fieldD w).toNat ≠ 2 &&
          !n.ranges.any (fun x => x.owner && x.space.toNat == (fieldY w).toNat / 2) then rejRec c 16 r k
      else none

/-- A destination lies inside the placement, and names a bound pair, the matrix command input, or a hop of a chain. -/
def destOk (c : LoadCtx) (d : W64) : Bool :=
  let e := Bits.nat d 55 47
  let a := destAt c.st c.r d
  let bound := fun (n : Node) => (nodePair n a.n).ctxset != 0
  d.getLsbD 44 && Bits.nat d 31 0 == 0 && Bits.nat d 63 62 < c.shr && Bits.nat d 61 59 < c.shw && Bits.nat d 58 56 < c.shh &&
    (if e < 256 then (getE c.st a.r e).ctxs.any (fun x => bound x.2)
     else if e = 256 then bound (getH c.st a.r).node
     else if e = 257 then true
     else e == 258 && Bits.nat d 35 32 < c.hops.getD (Bits.nat d 43 36) 0)

/-- TSTEPs of the pairs that a destination reaches. -/
def destSteps (c : LoadCtx) (d : W64) : List Nat :=
  let a := throughChain c.st c.r (destAt c.st c.r d)
  let ns := if a.e < 256 then (getE c.st a.r a.e).ctxs.map (·.2) else if a.e = 256 then [(getH c.st a.r).node] else []
  ((ns.map (fun n => nodePair n a.n)).filter (fun p => p.ctxset != 0)).map (·.tstep)

/-- All of a list of numbers are equal. -/
def allSame (l : List Nat) : Bool := l.all (fun x => x == l.headD 0)

/-- The pair entries of a BIND record keep their rules. -/
def pairsOk (b : List Byte) : Bool :=
  (List.range 4).all (fun k =>
    let x : BitVec 128 := BitVec.ofNat 128 (at_ b (16 * k) 16)
    Bits.nat x 92 76 == 0 && Bits.nat x 63 0 == 0 && (Bits.nat x 127 112 == 0 || Bits.nat x 103 96 != 0) &&
      (!x.getLsbD 75 || Bits.nat x 72 64 < 256))

/-- The port entries and destinations of a BIND record keep their rules. -/
def portsOk (c : LoadCtx) (b : List Byte) : Bool :=
  let head := fun k => (BitVec.ofNat 128 (at_ b (0x40 + 16 * k) 16) : BitVec 128)
  let role := fun k => Bits.nat (head k) 123 122
  let h := routeHead b
  (List.range 4).all (fun k =>
    let n := Bits.nat (head k) 127 124
    let ds := (List.range (min n 8)).map (bindDest b k)
    Bits.nat (head k) 121 0 == 0 && n ≤ 8 && role k < 3 && (role k != 2 || n == 0) && ds.all (destOk c) &&
      (role k != 0 || allSame (ds.flatMap (destSteps c)))) &&
    ((List.range 4).filter (fun k => role k == 1)).length ≤ 1 &&
    (match (List.range 4).filter (fun k => role k == 2) with
      | [] => at_ b 0x180 136 == 0
      | [k] => Bits.nat h 63 36 == 0 && Bits.nat h 35 34 == k && Bits.nat h 33 32 < 3 && (routeList b).all (destOk c)
      | _ => false)

/-- Every memory instruction of a context names the completion port in its trigger's NEEDO, and none writes it (R99). -/
def donePortOk (c : LoadCtx) (e x : Nat) : Bool :=
  let el := getE c.st c.r e
  let n := aGet Node.reset el.ctxs x
  match (List.range 4).find? (fun k => (nodePort n k).role == 1) with
  | none => true
  | some q => n.slots.all (fun w =>
      (!isMemOp w.2 || (elemTrig el n (fieldT w.2).toNat).1.getLsbD (40 + q)) && !(portsOf w.2).contains q)

/-- CTX tags of a BIND record's pair. -/
def tagsOf (r : Rec) (k : Nat) : BitVec 16 := BitVec.ofNat 16 (at_ r.body (16 * k + 14) 2)

/-- The checks of a BIND record after those of its element that lie before it (R68, R99, R187, R217). -/
def bindCheck (c : LoadCtx) (before : List Rec) (r : Rec) : Option LoadFail :=
  let b := r.body
  let others := before.filter (fun q => q.kind == 3 && q.tgt == r.tgt && q.ctx != r.ctx)
  let bound := (others ++ [r]).foldl (fun n q => n + ((List.range 4).filter (fun k => tagsOf q k != 0)).length) 0
  let shared := (List.range 4).any (fun k => others.any (fun q => tagsOf q k &&& tagsOf r k != 0))
  let routes := ((others ++ [r]).filter (fun q => (List.range 4).any (fun k => at_ q.body (0x40 + 16 * k + 15) 1 / 4 % 4 == 2))).length
  let n := getN c.st c.r r.tgt r.ctx
  let q := (List.range 4).map (fun k => (nodePair n k).queue.length)
  let ps := pairList (getE c.st c.r r.tgt)
  let pool := ps.foldl (fun m x => m + ((nodePair (getN c.st c.r r.tgt x.1) x.2).queue.length - 2)) 0
  if shared || 32 < bound || 1 < routes || !pairsOk b || !portsOk c b || (r.tgt < 256 && !donePortOk c r.tgt r.ctx) then rejRec c 5 r 0
  else if c.wide && (List.range 4).any (fun k => let p := nodePair n k; p.ctxset != 0 && p.fmtmask &&& 0x18 != 0 && p.gl != 0)
  then rejRec c 10 r 0
  else if q.any (fun x => 10 < x) || (r.tgt < 256 && 64 - 2 * ps.length < pool) then rejRec c 8 r 0
  else none

/-- An entry of a STATE record is valid (R58, R100). -/
def classOk (tag : Nat) (x : W64) : Bool :=
  let p := Bits.nat x 31 8
  let area := Bits.nat x 51 32
  let cls := Bits.nat x 2 0
  Bits.nat x 7 3 == 0 && Bits.nat x 63 52 == 0 && cls < 4 && (cls != 1 || (1 ≤ p && p ≤ 255)) && (cls != 3 || 1 ≤ p) &&
    (if cls = 3 then area % 64 == 0 && area + 10240 * (tag + 1) ≤ bufSize 1 else area == 0)

/-- The KVLIM of a region of the chain does not rise over that of the region before it (R159). -/
def kvlimBad (c : LoadCtx) : Bool :=
  let chain := kvChain c.st c.r c.r
  match chain.findIdx? (· == c.r) with
  | some (i + 1) => (getR c.st c.r).kvlim.toNat ≤ (getR c.st (chain.getD i 0)).kvlim.toNat
  | _ => false

/-- A range lies in a buffer and outside the journal range (R102). -/
def inBuf (sp off n : Nat) : Bool := sp < 3 && off + n ≤ bufSize sp && !inJournal sp off n

/-- The checks of a MEMR record: R443, then an element that would write W (R120). -/
def memrCheck (c : LoadCtx) (r : Rec) : Option LoadFail :=
  let b := r.body
  let n := at_ b 0 1
  let rs := rangesIn b
  let ent := fun k => (b.drop (8 + 32 * k)).take 32
  let bad := fun k => let x := rangeIn (ent k)
    x.hi ≤ x.lo || x.acc == 0 || at_ (ent k) 16 1 / 64 != 0 || at_ (ent k) 17 7 != 0 || at_ (ent k) 28 4 != 0 || (x.owner && x.acc != 3)
  if 16 < n || at_ b 1 7 != 0 || b.length != 8 + 32 * n || (List.range n).any bad ||
      (List.range 4).any (fun sp => 1 < (rs.filter (fun x => x.owner && x.space.toNat == sp)).length) then rejRec c 16 r 0
  else if rs.any (fun x => x.space == 0 && x.acc != 1) then rejRec c 12 r 0
  else none

/-- ARG of a record of a wrong shape: a BIND record of another length breaks R99, a MEMR record without its header R443, and the
others R98 and R100 to R102 (R392). -/
def shapeArg (r : Rec) : Nat :=
  if r.kind = 3 && shapeOk { r with body := List.replicate 520 0 } then 5
  else if r.kind = 12 && shapeOk { r with body := List.replicate 8 0 } then 16
  else 2

/-- The checks of one record, the records before it known (R392). A CTRL record with bit 3 of its first word set is refused
(log 107). -/
def recCheck (c : LoadCtx) (before : List Rec) (r : Rec) : Option LoadFail :=
  let b := r.body
  if !shapeOk r then rejRec c (shapeArg r) r 0
  else match r.kind with
  | 1 => (List.range 32).findSome? (slotCheck c r)
  | 2 => if (List.range 64).any (fun k => let e : W64 := BitVec.ofNat 64 (at_ b (8 * k) 8)
      ((k == 0 || k == 63) && e != 0) || trigBad e) then rejRec c 3 r 0 else none
  | 3 => bindCheck c before r
  | 4 =>
    let n := getN c.st c.r r.tgt r.ctx
    let x := fun k => (BitVec.ofNat 128 (at_ b (16 * k) 16) : BitVec 128)
    if (List.range 4).any (fun k => rtfBad (x k)) then rejRec c 7 r 0
    else if (List.range 4).any (fun k => (nodePair n k).ctxset == 0 && x k != 0) then rejRec c 2 r 0 else none
  | 5 => if (List.range 16).all (fun k => classOk k (BitVec.ofNat 64 (at_ b (8 * k) 8))) then none else rejRec c 8 r 0
  | 6 => if at_ b 578 6 != 0 || at_ b 592 48 != 0 || 32 ≤ at_ b 577 1 then rejRec c 2 r 0 else none
  | 7 => if (List.range 16).any (fun k => let v := at_ b 0 8 / 16 ^ k % 16; 12 ≤ v && v < 15) then rejRec c 6 r 0 else none
  | 8 =>
    let x : W64 := BitVec.ofNat 64 (at_ b 0 8)
    let resp : W64 := BitVec.ofNat 64 (at_ b 8 8)
    if Bits.nat x 31 7 != 0 || x.getLsbD 3 || Bits.nat x 6 4 == 7 || at_ b 48 16 != 0 || (resp.getLsbD 44 && !destOk c resp) ||
        (List.range 4).any (fun k => (BitVec.ofNat 64 (at_ b (16 + 8 * k) 8) : W64) &&& mxReserved k != 0) then rejRec c 2 r 0
    else if kvlimBad c then rejRec c 9 r 0 else none
  | 9 =>
    let te := at_ b 0 8
    if te % 4 != 0 || te < 516 || b.length < te then rejRec c 2 r 0
    else if (List.range 63).any (fun k => let e : W64 := BitVec.ofNat 64 (at_ b (8 * (k + 1)) 8)
      ((k + 1 ≤ 16 || k + 1 == 63) && e != 0) || trigBad e) then rejRec c 3 r 0 else none
  | 10 =>
    let (off, sp, scr, len) := bufHead b
    let scratch := (before.filter (fun q => q.kind == 10 && (bufHead q.body).2.2.1)).length
    let n := if scr then len else b.length - 8
    if !inBuf sp off n || (scr && (off % 64 != 0 || len % 64 != 0 || b.length != 8 || 8 ≤ scratch)) then rejRec c 2 r 0 else none
  | 11 => if 16 ≤ at_ b 0 8 then rejRec c 2 r 0 else none
  | 12 => memrCheck c r
  | _ => none

/-- The checks of the records in the order they lie; the first that fails. -/
def recsCheck (c : LoadCtx) : List Rec → List Rec → Option LoadFail
  | _, [] => none
  | before, r :: rs => match recCheck c before r with
    | some f => some f
    | none => recsCheck c (before ++ [r]) rs

/-- A record that runs past the end of its section. -/
def pastEnd (c : LoadCtx) (off : Nat) : LoadFail :=
  { code := 0x30, arg := 2, elem := 0x1FF, ctx := 0, slot := 0, tval := BitVec.ofNat 64 (packFields [(48, 16, c.sect), (0, 32, off)]) }

/-- The checks of a section: SIG, then its records (R104, R392). -/
def sectCheck (c : LoadCtx) (e : SecEnt) (b : List Byte) : Option LoadFail :=
  let rs := records b
  if sigOf b ≠ e.sig then some { pastEnd c 0 with arg := 1 }
  else match recsCheck c [] rs.1 with
    | some f => some f
    | none => rs.2.map (pastEnd c)

/-! ## Race check (R169, R178) -/

/-- A memory node of the graph: an element context, the compiler's node number, and the ranges declared under it
(R178, R443). -/
structure MemNode where
  r : Nat
  e : Nat
  c : Nat
  num : W32
  ranges : List MemRange
  node : Node
  deriving DecidableEq, Repr

/-- The memory nodes of one context: one for each node number that its ranges name. -/
def ctxMemNodes (r e c : Nat) (n : Node) : List MemNode :=
  ((n.ranges.map (·.node)).eraseDups).map (fun k => { r := r, e := e, c := c, num := k, ranges := n.ranges.filter (·.node == k), node := n })

/-- The memory nodes of a graph. -/
def memNodes (s : State) (rs : List Nat) : List MemNode :=
  rs.flatMap (fun r => (getR s r).elems.flatMap (fun e => e.2.ctxs.flatMap (fun c => ctxMemNodes r e.1 c.1 c.2)))

/-- Two ranges conflict. -/
def rangesClash (same : Bool) (a b : MemRange) : Bool :=
  a.space == b.space && (same || a.space == 3) && decide (a.lo < b.hi) && decide (b.lo < a.hi) &&
    (a.acc != 1 || b.acc != 1) && !(a.fe && b.fe)

/-- The pairs, and the matrix command inputs, that a node's destinations reach. -/
def pairsFed (s : State) (r : Nat) (ds : List W64) : List At :=
  ds.flatMap (fun d =>
    let a := throughChain s r (destAt s r d)
    if a.e < 256 then ((getE s a.r a.e).ctxs.filter (fun c => (nodePair c.2 a.n).ctxset != 0)).map (fun c => ⟨a.r, a.e, c.1, a.n⟩)
    else if a.e = 257 then [⟨a.r, 257, 0, 0⟩]
    else if a.e = 256 && (nodePair (getH s a.r).node a.n).ctxset != 0 then [⟨a.r, 256, 0, a.n⟩] else [])

/-- The destinations of what a place sends on: those of a context's ports, and of the matrix node the one of its responses (R84,
R293). -/
def destsAt (s : State) (a : At) : List W64 :=
  if a.e = 257 then (if (getR s a.r).mmResp.getLsbD 44 then [(getR s a.r).mmResp] else [])
  else (List.range 4).flatMap (portDests (getN s a.r a.e a.c))

/-- The pairs reached from a front by any number of channels. -/
def pathsGo (s : State) : Nat → List At → List At → List At
  | 0, seen, _ => seen
  | k + 1, seen, front =>
    if front.isEmpty then seen
    else
      let next := front.flatMap (fun a => pairsFed s a.r (destsAt s a))
      let new := (next.filter (fun a => !seen.contains a)).eraseDups
      pathsGo s k (seen ++ new) new

/-- An arc path joins a memory node's completion port to a channel that a memory instruction's trigger of the other needs
(R169). A slot without a node number may be any node of its context. -/
def arcJoins (s : State) (a b : MemNode) : Bool :=
  let ports := (List.range 4).filter (fun k => (nodePort a.node k).role == 1)
  let start := (pairsFed s a.r (ports.flatMap (portDests a.node))).eraseDups
  let el := getE s b.r b.e
  let mine := fun k => let n := nodeNum s b.r b.e b.c k; n == b.num || n == 0xFFFFFFFF
  let needs := fun ch => b.node.slots.any (fun w => isMemOp w.2 && mine w.1 && (elemTrig el b.node (fieldT w.2).toNat).1.getLsbD (44 + ch))
  let total := 4 * ((regionsOf s ((getR s a.r).launch.getD 0)).foldl (fun k r => k + 1 + (nodesOf (getR s r)).length) 0) + 1
  (pathsGo s total start start).any (fun p => p.r == b.r && p.e == b.e && p.c == b.c && needs p.n)

/-- The ranges over which two memory nodes conflict. -/
def raceOf (s : State) (a b : MemNode) : Option (MemRange × MemRange) :=
  let hit := a.ranges.findSome? (fun x => (b.ranges.find? (fun y => rangesClash (a.r == b.r) x y)).map (fun y => (x, y)))
  match hit with
  | some h => if arcJoins s a b || arcJoins s b a then none else some h
  | none => none

/-- Every pair of memory nodes in conflict, with the ranges. -/
def racesGo (s : State) : List MemNode → List (MemNode × MemRange × MemRange)
  | [] => []
  | a :: l => l.filterMap (fun b => (raceOf s a b).map (fun h => (a, h.1, h.2))) ++ racesGo s l

/-! ## Chains and peers (R103) -/

/-- GROUP level of a launch record: its EXTENT and GIDX (R91). -/
def groupOf (rc : List Byte) : Option (Nat × Nat) :=
  let lv := fun n => (BitVec.ofNat 64 (at_ rc (136 + 8 * n) 8) : W64)
  let nlev := at_ rc 4 1 % 16
  ((List.range nlev).find? (fun n => Bits.nat (lv n) 63 61 == 7)).map (fun n => (Bits.nat (lv n) 31 0, Bits.nat (lv n) 57 32))

/-- Side of a reach-edge hop, and its reach. -/
def hopReach (x : W64) : Nat := Bits.nat x 5 4
/-- The reach that a reach-edge adder's link leads to. -/
def hopNext (x : W64) : Nat := if x.getLsbD 2 then (hopReach x + 3) % 4 else (hopReach x + 1) % 4
/-- The adder of a hop: the reach edge, or the port. -/
def hopAdder (x : W64) : Nat := if hopEth x then 16 + hopPort x else 2 * hopReach x + (if x.getLsbD 2 then 1 else 0)

/-- Two hops of a chain follow one another (R103). -/
def hopsJoin (a b : W64) : Bool :=
  if hopGidx a = hopGidx b then hopEth a || hopEth b || hopNext a == hopReach b else hopEth a && hopEth b

/-- A chain keeps the rules of R103; `grp` is the GROUP level, and `inred` says that port hops are allowed. -/
def chainOk (c : LoadCtx) (grp : Option (Nat × Nat)) (inred : Bool) (x : Lanes) : Bool :=
  let n := chainHops x
  let hs := (List.range n).map (chainHop x)
  let mine := match grp with | some g => g.2 | none => 0
  let own := hs.filter (fun h => hopGidx h == mine)
  1 ≤ n && n ≤ 6 && Bits.nat x 63 3 == 0 &&
    hs.all (fun h => Bits.nat h 1 0 < 2 && Bits.nat h 63 58 == 0 && Bits.nat h 31 12 == 0 && Bits.nat h 7 6 == 0 && !h.getLsbD 3 &&
      (match grp with | some g => decide (hopGidx h < g.1) | none => hopGidx h == 0) && (!hopEth h || inred)) &&
    (List.range (n - 1)).all (fun i => hopsJoin (hs.getD i 0) (hs.getD (i + 1) 0)) &&
    (own.map hopAdder).eraseDups.length == own.length &&
    (hopGidx (hs.getLastD 0) != mine || (destOk c (chainOut x)))

/-- The chain table of an image. -/
def chainsIn (i : Img) (b : List Byte) : List Lanes := (List.range i.nch).map (fun k => BitVec.ofNat 512 (at_ b (64 * k) 64))
/-- The peer table of an image. -/
def peersIn (i : Img) (b : List Byte) : List (BitVec 128) := (List.range i.npeer).map (fun k => BitVec.ofNat 128 (at_ b (16 * k) 16))

/-! ## Node map (R207) -/

/-- Key of an entry (PREACH, PREG, ELEM, CTX, SLOT). -/
def nmKey (x : BitVec 128) : Nat := Bits.nat x 45 19

/-- An entry keeps its rules. -/
def nmEntOk (x : BitVec 128) : Bool :=
  Bits.nat x 18 0 == 0 && Bits.nat x 127 96 != 0xFFFFFFFF && Bits.nat x 43 37 ≤ 67 && Bits.nat x 27 24 < 12 && Bits.nat x 36 28 ≤ 0x100 &&
    (Bits.nat x 36 28 != 0x100 || Bits.nat x 27 19 == 0)

/-- The first entry that breaks a rule of its own or of the order, with its number. -/
def nmBadGo : List (BitVec 128) → Nat → Option (BitVec 128) → Option (Nat × BitVec 128)
  | [], _, _ => none
  | x :: l, k, prev =>
    if !nmEntOk x || (match prev with | some p => nmKey x ≤ nmKey p | none => false) then some (k, x) else nmBadGo l (k + 1) (some x)

/-- Where a node map table breaks R207: the byte offset, and PREG of the key. -/
def nmBad (b : List Byte) (ents : List (BitVec 128)) : Option (Nat × Nat) :=
  let h : BitVec 512 := BitVec.ofNat 512 (at_ b 0 64)
  let n := ents.length
  if Bits.nat h 7 0 ≠ 1 || Bits.nat h 31 8 ≠ 0 || Bits.nat h 511 64 ≠ 0 then some (0, 0)
  else match nmBadGo ents 0 none with
    | some (k, x) => some (64 + 16 * k, Bits.nat x 43 37)
    | none =>
      let late := (List.range n).find? (fun k => 8192 ≤ k && nmKey (ents.getD k 0) / 2 ^ 18 == nmKey (ents.getD (k - 8192) 0) / 2 ^ 18)
      late.map (fun k => (64 + 16 * k, Bits.nat (ents.getD k 0) 43 37))

/-- The entries of a table. -/
def nmEntries (b : List Byte) (n : Nat) : List (BitVec 128) := (List.range n).map (fun k => BitVec.ofNat 128 (at_ b (64 + 16 * k) 16))

/-- The entries of a region, by the key that the region's store uses. -/
def nmRegion (ph : Nat × Nat) (ents : List (BitVec 128)) : Assoc (BitVec 128) :=
  (ents.filter (fun x => Bits.nat x 45 44 == ph.1 && Bits.nat x 43 37 == ph.2)).map (fun x =>
    (512 * Bits.nat x 36 28 + 32 * Bits.nat x 27 24 + Bits.nat x 23 19, x))

end Sys2Proof.Machine
end

