-- ==== Sys2Proof/Machine/Images.lean ====
section
/-!
DEFINITION. The save area: region images, trailers, the header and the counter blocks, written and read as bytes (R114,
R115, R284, R361, R433, R434, R445 to R448).
-/

namespace Sys2Proof.Machine

/-! ## The device's own writes of a run of bytes -/

/-- The pieces of a virtual range, page by page: offset and length. -/
def runPages (va : Nat) : Nat → Nat → Nat → List (Nat × Nat)
  | 0, _, _ => []
  | k + 1, off, n =>
    if n = 0 then []
    else let m := min n (65536 - (va + off) % 65536); (off, m) :: runPages va k (off + m) (n - m)

/-- Replaces a physical run: zeros, then the cells given; whole lines lose their poison, and words and sectors are kept
as a write keeps them, and the waits on it are checked (R138, R139, R180, R410). -/
def deviceRun (s : State) (pa n : Nat) (leaf : W64) (cells : Mem) : State :=
  let s := hbmZero s pa n
  let s := nudge { s with hbm := cells.foldl (fun m c => memWrite m c.1 c.2) s.hbm,
                          poison := s.poison.filter (fun k => !(pa ≤ 64 * k && 64 * k + 64 ≤ pa + n)) } pa n
  let s := if leafFE leaf then { s with full := (wordsOf pa n).foldl setAdd s.full } else s
  if leafComp leaf then
    { s with clen := (List.range (n / 4096 + 1)).foldl (fun m k =>
        let a := pa / 4096 + k; if 4096 * a < pa + n then aSet m a (sectorCode s.hbm (4096 * a)) else m) s.clen }
  else s

/-- Replaces a virtual run of the partition by a block of bytes at offsets, outside every window. -/
def virtBlock (s : State) (part va n : Nat) (m : Mem) : State :=
  (runPages va (n / 65536 + 2) 0 n).foldl (fun s x =>
    match xlate s part ((va + x.1) % 2 ^ 57) 3 with
    | .error _ => s
    | .ok (pa, leaf) =>
      deviceRun s pa x.2 leaf ((m.filter (fun c => x.1 ≤ c.1 && c.1 < x.1 + x.2)).map (fun c => (pa + (c.1 - x.1), c.2)))) s

/-- A block given by fields. -/
def fieldsMem (fs : Fields) : Mem := fs.foldl (fun m f => memPutNat m f.1 f.2.1 f.2.2) []

/-! ## Pieces -/

/-- A token in 72 bytes. -/
def tokNat (t : Token) : Nat := t.hdr.toNat + t.pay.toNat * 2 ^ 64
/-- A token from 72 bytes. -/
def tokOfNat (x : Nat) : Token := { hdr := BitVec.ofNat 64 x, pay := BitVec.ofNat 512 (x / 2 ^ 64) }

/-- A token-store slot of 80 bytes (R361). -/
def tokSlot (t : Token) (pair pos : Nat) (caught : Bool) : Nat :=
  packFields [(0, 576, tokNat t), (576, 8, pair), (584, 8, pos), (592, 1, 1), (593, 1, if caught then 1 else 0)]

/-- An entry of a served or pending set (R448). -/
def setEntry (v : Ival) : Nat := packFields [(0, 36, v.lo), (36, 36, v.hi), (72, 8, v.step), (80, 4, v.ctx), (84, 1, 1)]
/-- The entry that 16 bytes hold. -/
def setEntryOf (x : Nat) : Option Ival :=
  if x / 2 ^ 84 % 2 = 0 then none
  else some { lo := x % 2 ^ 36, hi := x / 2 ^ 36 % 2 ^ 36, step := x / 2 ^ 72 % 2 ^ 8, ctx := x / 2 ^ 80 % 16 }

/-- A set block: eight served entries, eight pending ones (R448). -/
def setBlock (base : Nat) (served pending : List Ival) : Fields :=
  ((ivSort served).zip (List.range 8)).map (fun x => (base + 16 * x.2, 16, setEntry x.1)) ++
    (pending.zip (List.range 8)).map (fun x => (base + 128 + 16 * x.2, 16, setEntry x.1))

/-- The tokens of an output queue, the open COAL token last (R257). -/
def queueToks (p : Port) : List Token := p.queue.map (·.tok) ++ p.coal.toList

/-! ## Element records -/

/-- The tokens that a pair stores, those behind a cut's marker last (R110, R115); an image of a cut has none behind one. -/
def storedToks (p : Pair) : List QTok := p.queue ++ p.behind

/-- An element record (R115). -/
def elemFields (g : Region) (e : Nat) : Fields :=
  let el := aGet Elem.reset g.elems e
  let base := 0x8000 * e
  let pairs := (pairList el).zip (List.range 32)
  let pair := fun (x : Nat × Nat) => nodePair (aGet Node.reset el.ctxs x.1) x.2
  let ctxs := el.ctxs.map (fun c => (base + 640 * c.1, 640, Bits.ofBytes (ctxBytes c.2.regs c.2.rr)))
  let toks := pairs.flatMap (fun x => let q := storedToks (pair x.1)
    (q.zip (List.range q.length)).map (fun y => tokSlot y.1.tok x.2 y.2 y.1.caught))
  let held := pairs.flatMap (fun x =>
    ((pair x.1).held ++ (pair x.1).asked).map (fun d => (Config.heldCode x.2 d.lo d.hi d.step d.ctx d.ext).toNat))
  ctxs ++ (toks.zip (List.range 64)).map (fun x => (base + 0x1E00 + 80 * x.2, 80, x.1)) ++
    pairs.flatMap (fun x => setBlock (base + 0x3200 + 256 * x.2) (pair x.1).served (pair x.1).pending) ++
    el.ctxs.flatMap (fun c => c.2.classes.map (fun k =>
      (base + 0x5200 + 96 * k.1 + 8 * c.1, 8, packFields [(0, 36, k.2.w), (36, 4, k.2.ring), (40, 3, k.2.cls.toNat)]))) ++
    el.ctxs.flatMap (fun c => (List.range 4).flatMap (fun q =>
      ((queueToks (nodePort c.2 q)).zip (List.range 2)).map (fun t => (base + 0x5800 + (4 * c.1 + q) * 144 + 72 * t.2, 72, tokNat t.1)))) ++
    (held.zip (List.range 32)).map (fun x => (base + 0x7300 + 80 * x.2, 80, x.1)) ++
    (g.acc.filter (fun a => a.1 / 256 / 8 == e / 16 && a.1 % 256 / 16 == e % 16)).map (fun a =>
      (base + 0x7D00 + 64 * (a.1 / 256 % 8) + 4 * (a.1 % 16), 4, a.2.toNat))

/-! ## Helm block, region block, copies, trailer -/

/-- The helm block (R446); the fields hs.status and hs.still are as they read. -/
def helmFields (g : Region) : Fields :=
  let h := g.helm
  let n := h.node
  let b := 0xA80000
  let w := fun (k : Nat) (x : W64) => (b + k, 8, x.toNat)
  let toks := (List.range 4).flatMap (fun ch => let q := storedToks (nodePair n ch)
    (q.zip (List.range q.length)).map (fun y => tokSlot y.1.tok ch y.2 y.1.caught))
  [(b, 640, Bits.ofBytes (ctxBytes n.regs 0)), (b + 0x280, 8, h.pc.toNat), w 0x288 (statusRead g h), w 0x290 h.cause, w 0x298 h.epc,
   w 0x2A0 h.tval, w 0x2A8 h.trapvec, w 0x2B0 (stillReg g), (b + 0x2B8, 8, if h.armed then h.timer else 0), (b + 0x2C0, 8, h.launches.toNat),
   (b + 0x2C8, 8, packFields [(0, 8, h.lid), (8, 1, if h.halted then 1 else 0)])] ++
    (h.outstanding.zip (List.range 16)).map (fun x => (b + 0x300 + 32 * x.2, 32,
      packFields [(0, 32, x.1.word.toNat), (32, 1, 1), (64, 64, x.1.addr.toNat), (128, 64, x.1.dval.toNat), (192, 64, x.1.bval.toNat)])) ++
    (h.recv.zip (List.range 64)).map (fun x => (b + 0x500 + 64 * x.2, 64, x.1.toNat)) ++
    (toks.zip (List.range 40)).map (fun x => (b + 0x1500 + 80 * x.2, 80, x.1)) ++
    (List.range 4).flatMap (fun q => ((queueToks (nodePort n q)).zip (List.range 2)).map (fun t =>
      (b + 0x2180 + 160 * q + 80 * t.2, 80, tokSlot t.1 0 t.2 false))) ++
    (List.range 4).flatMap (fun ch => setBlock (b + 0x2400 + 256 * ch) (nodePair n ch).served (nodePair n ch).pending) ++
    (List.range 4).flatMap (fun q => let p := nodePort n q
      (match p.spb with
        | some x => [(b + 0x2800 + 384 * q, 64, x.toNat), (b + 0x2840 + 384 * q, 1, 1)]
        | none => []) ++ setBlock (b + 0x2880 + 384 * q) [] p.pending)

/-- The region block (R447). -/
def regionFields (g : Region) : Fields :=
  let b := 0xA84000
  let bit := fun (x : Bool) => if x then 1 else 0
  let cont := g.cont.getD { mode := 0, budgets := 0, cursor := 0 }
  [(b, 8, g.wheel.toNat), (b + 8, 8, packFields [(0, 3, g.clock.toNat), (8, 1, bit g.mxmode), (9, 1, bit g.rwoff), (10, 1, bit g.gfix), (32, 32, g.kvlim.toNat)]),
   (b + 0x30, 8, packFields [(0, 5, g.sticky.toNat), (32, 32, g.mmaCount.toNat)]), (b + 0x38, 8, g.mmq.length),
   (b + 0x540, 64, g.ha.toNat), (b + 0x580, 64, g.hb.toNat),
   (b + 0x5C0, 8, packFields [(0, 1, bit g.haValid), (1, 1, bit g.hbValid), (2, 1, bit g.cont.isSome), (3, 3, cont.mode)]),
   (b + 0x5C8, 8, cont.budgets.toNat), (b + 0x5D0, 8, cont.cursor.toNat), (b + 0x608, 8, g.bgate.toNat), (b + 0x610, 8, g.obsctl.toNat)] ++
    (List.range 4).map (fun k => (b + 0x10 + 8 * k, 8, (mxReg g k).toNat)) ++
    (g.mmq.zip (List.range 16)).map (fun x => (b + 0x40 + 80 * x.2, 80, tokSlot x.1 0 x.2 false)) ++
    (List.range 6).map (fun k => (b + 0x5D8 + 8 * k, 8, (vGet 0 g.bounds k).toNat)) ++
    (List.range 4).map (fun k => (b + 0x618 + 8 * k, 8, (vGet 0 g.obsbk k).toNat))

/-- The copy area (R284). -/
def copyFields (h : Helm) : Fields :=
  (h.copies.zip (List.range 2048)).map (fun x =>
    let a := if x.1.op = 0xB1 then Bits.nat x.1.a 63 0 else x.1.a.toNat
    (0xA88000 + 192 * x.2, 192, packFields [(0, 512, a), (512, 512, if x.1.op = 0xB0 then x.1.d.toNat else 0),
      (1024, 64, if x.1.op = 0xB0 then 0 else x.1.dval.toNat), (1088, 64, x.1.bar.toNat), (1152, 8, x.1.op.toNat), (1160, 3, x.1.sz.toNat),
      (1168, 1, 1)]))

/-- Tokens of a region's image whose caught flag is set. -/
def caughtCount (g : Region) : Nat :=
  let node := fun (n : Node) => (List.range 4).foldl (fun k ch => k + ((nodePair n ch).queue.filter (·.caught)).length) 0
  g.elems.foldl (fun k e => e.2.ctxs.foldl (fun k c => k + node c.2) k) (node g.helm.node)

/-- The trailer (R361). -/
def trailerFields (kind seq window caught : Nat) : Fields :=
  [(0xAFFFC0, 64, packFields [(504, 1, 1), (128, 32, caught), (64, 64, window), (8, 32, seq), (0, 8, kind)])]

/-- A region image (R115); the buffers go into an EBB's image only. -/
def imageMem (g : Region) (kind seq window : Nat) : Mem :=
  let fs := (aKeys g.elems).flatMap (elemFields g) ++ (List.range 256).flatMap (fun e => if (aFind g.elems e).isSome then [] else
      (elemFields { Region.reset with acc := g.acc } e)) ++
    helmFields g ++ regionFields g ++ copyFields g.helm ++ trailerFields kind seq window (caughtCount g)
  let m := fieldsMem fs
  if kind = 2 then
    [(0, 0x800000), (1, 0x900000), (2, 0xA00000)].foldl (fun m x => (getBuf g x.1).mem.foldl (fun m c => memWrite m (x.2 + c.1) c.2) m) m
  else m

/-! ## The area (R114, R433, R445) -/

/-- Bytes of one region image. -/
def imageLen : Nat := 0xB00000

/-- Offset of a section's image in a slot of the save area. -/
def imageOff (nsec slot k : Nat) : Nat := 0x1000 + slot * nsec * imageLen + k * imageLen

/-- Least size of a save area of so many sections. -/
def saveMin (nsec : Nat) : Nat := 0x1000 + 2 * nsec * imageLen

/-- SAVE and SAVESZ of a record. -/
def saveAddr (rc : List Byte) : Nat := at_ rc 40 8
/-- SAVESZ. -/
def saveSize (rc : List Byte) : Nat := at_ rc 48 8

/-- The header (R445). -/
def headerFields (s : State) (x : Launch) (c : Snap) : Fields :=
  [(0, 8, packFields [(0, 8, 1), (8, 1, 1), (9, 1, c.slot), (10, 1, if c.rerun then 1 else 0)]), (8, 8, c.seq), (0x10, 8, c.kind),
   (0x18, 8, c.window), (0x20, 8, x.gdig.toNat), (0x28, 8, x.ltag.toNat), (0x30, 8, x.nsec)] ++
    (x.place.zip (List.range x.place.length)).map (fun p => let ph := physOf s p.1
      (0x40 + 8 * p.2, 8, packFields [(0, 8, p.1), (8, 8, x.firstPlace.getD p.2 p.1), (16, 2, ph.1), (18, 7, ph.2)]))

/-- The counter block of a section (R433). -/
def counterFields (g : Region) : Fields :=
  let ent := fun (id v : Nat) => if v = counterAbsent then packFields [(48, 16, 0xFFFF)] else packFields [(48, 16, id), (0, 48, v)]
  (0, 64, 4128) ::
    ((List.range 256).flatMap (fun e => (List.range 16).map (fun k => (64 + 8 * (16 * e + k), 8, ent k (elemCounter g (aGet Elem.reset g.elems e) k)))) ++
     (List.range 16).map (fun k => (64 + 8 * (4096 + k), 8, if k < 7 then ent (0x100 + k) (aGet 0 g.helm.counters k) else ent 0xFFFF 0)) ++
     (List.range 16).map (fun k => (64 + 8 * (4112 + k), 8, if k < 7 then ent (0x200 + k) (aGet 0 g.counters k) else ent 0xFFFF 0)))

/-- Writes a completed cut into the save area: each section's image, then, for an EBB of a large enough area, the counter
blocks, and then the header. -/
def writeCut (s : State) (x : Launch) (c : Snap) : State :=
  let va := saveAddr x.record
  let secs := x.place.zip (List.range x.place.length)
  let s := secs.foldl (fun s p =>
    virtBlock s x.part (va + imageOff x.nsec c.slot p.2) imageLen (imageMem (aGet Region.reset c.image p.1) c.kind c.seq c.window)) s
  let s := if c.kind = 2 && saveMin x.nsec + 65536 * x.nsec ≤ saveSize x.record then
      secs.foldl (fun s p => virtBlock s x.part (va + saveMin x.nsec + 65536 * p.2) 65536 (fieldsMem (counterFields (getR s p.1)))) s
    else s
  virtBlock s x.part va 4096 (fieldsMem (headerFields s x c))

/-! ## Reading an image (R116, R434) -/

/-- A reader of bytes at offsets of an area; what is not mapped reads as zero. -/
def areaRead (s : State) (part va : Nat) : Nat → Nat → Nat := fun off n => Bits.ofBytes ((virtBytes s part none (va + off) n).getD [])

/-- The entries that a run of sixteen bytes each holds. -/
def readSet (rd : Nat → Nat → Nat) (base : Nat) : List Ival := (List.range 8).filterMap (fun k => setEntryOf (rd (base + 16 * k) 16))

/-- The token slots of a store: pair, token and caught flag. -/
def readSlots (rd : Nat → Nat → Nat) (base n : Nat) : List (Nat × QTok) :=
  (List.range n).filterMap (fun k => let x := rd (base + 80 * k) 80
    if x / 2 ^ 592 % 2 = 0 then none
    else some (x / 2 ^ 576 % 256, { tok := tokOfNat x, away := false, caught := (x / 2 ^ 593).testBit 0, new := false }))

/-- COAL writes a port. -/
def coalWrites (ws : List W32) (k : Nat) : Bool := ws.any (fun w => fieldO w == 0x68 && (portsOf w).contains k)

/-- The last of a queue's tokens is COAL's open one: it ends nothing, and has room left (R257; log 28). -/
def openLast (ts : List Token) : Option Token :=
  ts.getLast?.filter (fun t => hKind t.hdr == 0 && hEnd t.hdr == 0 &&
    ((List.range 16).filter (maskBit (laneMask t.hdr))).length < (if isCoord t.hdr then 8 else 16))

/-- An output queue's tokens, for every destination of the port; an open token of COAL is still open (R116, R257). -/
def readQueue (p : Port) (coal : Bool) (ts : List Token) : Port :=
  let last := if coal then openLast ts else none
  let whole := if last.isSome then ts.dropLast else ts
  { p with queue := whole.map (fun t => { tok := t, copies := p.dests.map (fun d => (d, t)), pos := endPos p.tstep t, new := false }),
           coal := last }

/-- Registers and RR pointer at an offset. -/
def readCtx (rd : Nat → Nat → Nat) (base : Nat) : Regs × Nat := ctxRegs (memPutNat [] 0 640 (rd base 640)) 0

/-- A context of an element record. -/
def readNode (rd : Nat → Nat → Nat) (base c : Nat) (el : Elem) (n : Node) : Node :=
  let x := readCtx rd (base + 640 * c)
  let pl := pairList el
  let slots := readSlots rd (base + 0x1E00) 64
  let held := (List.range 32).filterMap (fun k => Config.heldDecode (BitVec.ofNat 640 (rd (base + 0x7300 + 80 * k) 80)))
  let dem := fun (y : Bool × Nat × Nat × Nat × Nat × Nat × Bool) (ch : Nat) =>
    ({ lo := y.2.2.1, hi := y.2.2.2.1, step := y.2.2.2.2.1, ctx := y.2.2.2.2.2.1, inp := ch, ext := y.2.2.2.2.2.2 } : Demand)
  let one := fun (n : Node) (ch : Nat) =>
    let i := pl.findIdx (fun z => z.1 == c && z.2 == ch)
    if (nodePair n ch).ctxset = 0 then n
    else
      let mine := fun (b : Bool) => (held.filter (fun y => y.1 == b && y.2.1 == i)).map (fun y => dem y ch)
      setPair n ch { nodePair n ch with
        queue := (slots.filter (fun y => y.1 == i)).map (·.2), held := mine true, asked := mine false,
        served := readSet rd (base + 0x3200 + 256 * i), pending := readSet rd (base + 0x3200 + 256 * i + 128) }
  let n := [0, 1, 2, 3].foldl one { n with regs := x.1, rr := x.2 }
  let out := fun (n : Node) (q : Nat) =>
    let ts := ((List.range 2).map (fun t => rd (base + 0x5800 + (4 * c + q) * 144 + 72 * t) 72)).filter (· != 0)
    setPort n q (readQueue (nodePort n q) (coalWrites (n.slots.map (·.2)) q) (ts.map tokOfNat))
  let n := [0, 1, 2, 3].foldl out n
  { n with classes := n.classes.map (fun k => let y := rd (base + 0x5200 + 96 * k.1 + 8 * c) 8
      (k.1, { k.2 with w := y % 2 ^ 36, ring := y / 2 ^ 36 % 16, cls := BitVec.ofNat 3 (y / 2 ^ 40) })) }

/-- The helm block read back. A core of a persistent launch that stands at MIGR has parked there (R117, R336). -/
def readHelm (rd : Nat → Nat → Nat) (persist : Bool) (h : Helm) : Helm :=
  let b := 0xA80000
  let w := fun (k : Nat) => (BitVec.ofNat 64 (rd (b + k) 8) : W64)
  let slots := readSlots rd (b + 0x1500) 40
  let n := { h.node with regs := (readCtx rd b).1 }
  let n := [0, 1, 2, 3].foldl (fun n ch => setPair n ch { nodePair n ch with
    queue := (slots.filter (fun y => y.1 == ch)).map (·.2), served := readSet rd (b + 0x2400 + 256 * ch),
    pending := readSet rd (b + 0x2400 + 256 * ch + 128) }) n
  let n := [0, 1, 2, 3].foldl (fun n q =>
    let p := readQueue (nodePort n q) (coalWrites (nodeWords { Region.reset with helm := h } 256 n) q) ((readSlots rd (b + 0x2180 + 160 * q) 2).map (·.2.tok))
    let bound := rd (b + 0x2840 + 384 * q) 1 % 2 == 1
    setPort n q { p with spb := if bound then some (BitVec.ofNat 512 (rd (b + 0x2800 + 384 * q) 64)) else none,
                         pending := readSet rd (b + 0x2880 + 384 * q + 128) }) n
  let outs := (List.range 16).filterMap (fun k =>
    let x := rd (b + 0x300 + 32 * k) 32
    if x / 2 ^ 32 % 2 = 0 then none
    else
      let wd : W32 := BitVec.ofNat 32 x
      some ({ word := wd, addr := BitVec.ofNat 64 (x / 2 ^ 64), dval := BitVec.ofNat 64 (x / 2 ^ 128), bval := BitVec.ofNat 64 (x / 2 ^ 192),
              dst := (fieldD wd).toNat, failed := none, queued := false, words := [], data := [] } : Outstanding))
  let copies := (List.range 2048).filterMap (fun k =>
    let x := rd (0xA88000 + 192 * k) 192
    let a : Lanes := BitVec.ofNat 512 x
    let d : Lanes := BitVec.ofNat 512 (x / 2 ^ 512)
    let op : Byte := BitVec.ofNat 8 (x / 2 ^ 1152)
    if x / 2 ^ 1168 % 2 = 0 then none
    else some ({ a := a, d := d, dval := BitVec.ofNat 64 (x / 2 ^ 1024), bar := BitVec.ofNat 64 (x / 2 ^ 1088), op := op,
                 sz := BitVec.ofNat 3 (x / 2 ^ 1160), bytes := if op = 0xB1 then srcLen (BitVec.ofNat 64 x) else copyBytes a, waits := [], done := false } : Copy))
  let pc : BitVec 20 := BitVec.ofNat 20 (rd (b + 0x280) 8)
  let st := w 0x288
  { h with node := n, pc := pc, status := st &&& 0x273, cause := w 0x290, epc := w 0x298, tval := w 0x2A0, trapvec := w 0x2A8,
           stillLimit := (w 0x2B0).setWidth 32, timer := (w 0x2B8).toNat % 2 ^ 48, armed := Bits.nat (w 0x2B8) 47 0 != 0,
           launches := (w 0x2C0).setWidth 32, lid := Bits.nat (w 0x2C8) 7 0, halted := (w 0x2C8).getLsbD 8,
           recv := (List.range (Bits.nat st 22 16)).map (fun k => BitVec.ofNat 512 (rd (b + 0x500 + 64 * k) 64)),
           outstanding := outs, copies := copies,
           parked := persist && fieldO (BitVec.ofNat 32 (memNat h.text pc.toNat 4)) == 0xF6 }

/-- The region block read back. -/
def readBlock (rd : Nat → Nat → Nat) (g : Region) : Region :=
  let b := 0xA84000
  let w := fun (k : Nat) => (BitVec.ofNat 64 (rd (b + k) 8) : W64)
  let x := w 8
  let c := w 0x5C0
  let acc := (List.range 256).flatMap (fun e => (List.range 128).map (fun k =>
    (256 * (8 * (e / 16) + k / 16) + 16 * (e % 16) + k % 16, BitVec.ofNat 32 (rd (0x8000 * e + 0x7D00 + 4 * k) 4))))
  { g with wheel := w 0, clock := x.extractLsb' 0 3, mxmode := x.getLsbD 8, rwoff := x.getLsbD 9, gfix := x.getLsbD 10, kvlim := x.extractLsb' 32 32,
           mx := Vector.ofFn (fun (k : Fin 4) => w (0x10 + 8 * k.val)), sticky := (w 0x30).setWidth 5, mmaCount := (w 0x30).extractLsb' 32 32,
           mmq := (readSlots rd (b + 0x40) ((w 0x38).toNat % 32)).map (·.2.tok),
           ha := BitVec.ofNat 512 (rd (b + 0x540) 64), hb := BitVec.ofNat 512 (rd (b + 0x580) 64), haValid := c.getLsbD 0, hbValid := c.getLsbD 1,
           cont := if c.getLsbD 2 then some { mode := Bits.nat c 5 3, budgets := w 0x5C8, cursor := w 0x5D0 } else none,
           bounds := Vector.ofFn (fun (k : Fin 6) => w (0x5D8 + 8 * k.val)), bgate := (w 0x608).setWidth 48, obsctl := w 0x610,
           obsbk := Vector.ofFn (fun (k : Fin 4) => w (0x618 + 8 * k.val)),
           acc := (acc.filter (fun a => a.2 != 0)).foldl (fun m a => aSet m a.1 a.2) [] }

/-- A buffer of an EBB image. An image has no place for presence: which words a restore leaves full is open (log 28). -/
def readBuf (s : State) (part va sp n : Nat) : Buf :=
  { mem := memWriteN [] 0 ((virtBytes s part none va n).getD []),
    full := ((List.range (n / 4)).filter (fun k => Config.restoredFull va sp (4 * k))).map (4 * ·), poison := [] }

/-- A region's agents and registers read from an image, over its loaded configuration. -/
def readState (s : State) (part va : Nat) (persist : Bool) (g : Region) : Region :=
  let rd := areaRead s part va
  let elems := aMap (fun e el => { el with ctxs := aMap (fun c n => readNode rd (0x8000 * e) c el n) el.ctxs }) g.elems
  readBlock rd { g with elems := elems, helm := readHelm rd persist g.helm }

/-- A region read from an EBB's image over its loaded configuration. -/
def readImage (s : State) (part va : Nat) (persist : Bool) (g : Region) : Region :=
  let g := readState s part va persist g
  let bufs := vSet (vSet (vSet g.bufs 0 (readBuf s part (va + 0x800000) 0 0x100000)) 1 (readBuf s part (va + 0x900000) 1 0x100000)) 2
    (readBuf s part (va + 0xA00000) 2 0x80000)
  { g with bufs := bufs }

/-- The bytes of a section's image are those that the cut wrote: they stand for the region that the model keeps beside them
(R116, R370; log 40). -/
def imageHolds (s : State) (part va kind seq window : Nat) (g : Region) : Bool :=
  virtBytes s part none va imageLen == some (memReadN (imageMem g kind seq window) 0 imageLen)

/-- The counters of a counter block, those of elements without a configuration among them; an event that this device does not
count there leaves its counter absent (R434). -/
def readCounters (rd : Nat → Nat → Nat) (base : Nat) (g : Region) : Region :=
  let ent := fun n => rd (base + 64 + 8 * n) 8
  let val := fun (n id : Nat) => let x := ent n; if x / 2 ^ 48 = id then x % 2 ^ 48 else counterAbsent
  let sum := fun e => (List.range 11).foldl (fun t k => let x := ent (16 * e + k); if x / 2 ^ 48 = k then t + x % 2 ^ 48 else t) 0
  let elems := (List.range 256).foldl (fun es e =>
    let cs := (List.range 16).map (fun k => (k, val (16 * e + k) k))
    if (aFind es e).isNone && cs.all (fun c => c.2 == (if c.1 = 10 then sum 0 else 0)) then es
    else aSet es e { aGet Elem.reset es e with counters := cs }) g.elems
  { g with elems := elems, helm := { g.helm with counters := (List.range 7).map (fun k => (k, val (4096 + k) (0x100 + k))) },
           counters := (List.range 7).map (fun k => (k, val (4112 + k) (0x200 + k))), cycles := sum 0 }

end Sys2Proof.Machine
end

