-- ==== Sys2Proof/Machine/LaunchOps.lean ====
section
/-!
DEFINITION. Launch records and their checks, queues and placement, the load of a graph and its start (R88 to R104, R116,
R207, R392, R444).
-/

namespace Sys2Proof.Machine

/-! ## The record (R88 to R91) -/

/-- NLEV. -/
def rcNlev (rc : List Byte) : Nat := at_ rc 4 1 % 16
/-- PERSIST. -/
def rcPersist (rc : List Byte) : Bool := (at_ rc 4 1).testBit 4
/-- PART. -/
def rcPart (rc : List Byte) : Nat := at_ rc 1 1 % 32
/-- PRIO. -/
def rcPrio (rc : List Byte) : Nat := at_ rc 2 1 / 64
/-- QSEL. -/
def rcQsel (rc : List Byte) : Nat := at_ rc 2 1 / 16 % 4
/-- Source tokens between SNAP cuts (R89). -/
def rcSnapn (rc : List Byte) : Nat := if at_ rc 6 2 = 0 then 4096 else at_ rc 6 2
/-- GIMG. -/
def rcGimg (rc : List Byte) : Nat := at_ rc 8 8
/-- NMAP. -/
def rcNmap (rc : List Byte) : Nat := at_ rc 16 8
/-- HENTRY. -/
def rcHentry (rc : List Byte) : Nat := at_ rc 24 8
/-- ARGS. -/
def rcArgs (rc : List Byte) : Nat := at_ rc 32 8
/-- Waits in use: address and value. -/
def rcWaits (rc : List Byte) : List (Nat × Nat) :=
  ((List.range 4).map (fun n => (at_ rc (56 + 16 * n) 8, at_ rc (64 + 16 * n) 8))).filter (fun w => w.1 != 0)
/-- SIGADDR. -/
def rcSigaddr (rc : List Byte) : Nat := at_ rc 120 8
/-- SIGVAL. -/
def rcSigval (rc : List Byte) : Nat := at_ rc 128 8
/-- Level descriptors in use, innermost first. -/
def rcLevels (rc : List Byte) : List W64 := (List.range (rcNlev rc)).map (fun n => BitVec.ofNat 64 (at_ rc (136 + 8 * n) 8))

/-- DOM. -/
def lvDom (x : W64) : Nat := Bits.nat x 63 61
/-- EXTENT. -/
def lvExtent (x : W64) : Nat := Bits.nat x 31 0

/-- A domain's own scope (R91). -/
def ownScope (dom : Nat) : Nat := match dom with | 0 | 1 | 2 => 0 | 3 => 1 | 4 | 5 => 2 | 6 => 3 | _ => 4

/-- The rules of one descriptor. -/
def levelOk (x : W64) : Bool :=
  1 ≤ lvExtent x && Bits.nat x 60 58 < 5 && ownScope (lvDom x) ≤ Bits.nat x 60 58 &&
    (if lvDom x = 7 then Bits.nat x 57 32 < lvExtent x else Bits.nat x 57 32 == 0)

/-- Product of the extents of the levels whose domain is in a list. -/
def extents (ls : List W64) (doms : List Nat) : Nat :=
  (ls.filter (fun x => doms.contains (lvDom x))).foldl (fun n x => n * lvExtent x) 1

/-- Domains never decrease outwards. -/
def domsRise : List W64 → Bool
  | x :: y :: l => decide (lvDom x ≤ lvDom y) && domsRise (y :: l)
  | _ => true

/-- The rules of R91; the product rule of the region levels needs the image. -/
def levelsOk (ls : List W64) (nsec : Option Nat) : Bool :=
  ls.all levelOk && domsRise ls && extents ls [0] ≤ 16 && extents ls [1] ≤ 12 && extents ls [2] ≤ 256 && extents ls [6] ≤ 1 &&
    (match nsec with | some n => extents ls [3, 4, 5] == n | none => true)

/-- VER, NLEV, DUMP and the reserved fields are as R89 has them. -/
def ctlOk (rc : List Byte) : Bool :=
  at_ rc 0 1 == 1 && at_ rc 1 1 / 32 == 0 && at_ rc 2 1 % 16 == 0 && at_ rc 3 1 == 0 && at_ rc 5 1 == 0 && 1 ≤ rcNlev rc && rcNlev rc ≤ 8 &&
    rcDump rc < 4 && at_ rc 200 56 == 0

/-- hs.lid0 to hs.lid7 of a section's helm core (R92). -/
def lidRegs (rc : List Byte) (r : Nat) : List W64 :=
  ((rcLevels rc).foldl (fun (acc : List W64 × Nat) x =>
    let d := lvDom x
    let e := max 1 (lvExtent x)
    if 3 ≤ d && d ≤ 5 then (acc.1 ++ [BitVec.ofNat 64 (packFields [(0, 32, acc.2 % e), (32, 32, lvExtent x)])], acc.2 / e)
    else (acc.1 ++ [BitVec.ofNat 64 (packFields [(0, 32, if d = 7 then Bits.nat x 57 32 else 0), (32, 32, lvExtent x)])], acc.2)) ([], r)).1

/-! ## Pins (R32, R114, R128) -/

/-- Key of a pin count: partition and page. -/
def pinKey (part va : Nat) : Nat := part * 2 ^ 57 + va

/-- Bases of the pages that a range touches; none where one is not mapped. -/
def pagesIn (s : State) (part : Nat) : Nat → Nat → Nat → Option (List Nat)
  | 0, _, _ => none
  | k + 1, va, hi =>
    if hi ≤ va then some []
    else match xlate s part (va % 2 ^ 57) 3 with
      | .error _ => none
      | .ok (_, leaf) =>
        let sz := 2 ^ pageBits (Bits.nat leaf 7 6)
        let base := va / sz * sz
        (pagesIn s part k (base + sz) hi).map (fun l => base :: l)

/-- Bases of the pages of [va, va + n). -/
def pagesOf (s : State) (part va n : Nat) : Option (List Nat) :=
  if 2 ^ 57 < va + n then none else pagesIn s part (n / 65536 + 3) va (va + n)

/-- Pin count of a page. -/
def pinCount (s : State) (part page : Nat) : Nat := aGet 0 s.pins (pinKey part page)

/-- Raises the pin counts of pages. -/
def pinPages (s : State) (part : Nat) (ps : List Nat) : State :=
  { s with pins := ps.foldl (fun m p => aSet m (pinKey part p) (aGet 0 m (pinKey part p) + 1)) s.pins }

/-- Lowers the pin counts of pages. -/
def unpinPages (s : State) (part : Nat) (ps : List Nat) : State :=
  { s with pins := ps.foldl (fun m p =>
      let n := aGet 0 m (pinKey part p) - 1
      if n = 0 then aDel m (pinKey part p) else aSet m (pinKey part p) n) s.pins }

/-! ## Placement (R96, R103) -/

/-- The image header and section table that a record names, as committed; a table that cannot be read has no entries, and
the load fails (R90, R392). -/
def imageOf (s : State) (part : Nat) (rc : List Byte) : Option (Img × List SecEnt) :=
  match virtBytes s part none (rcGimg rc) 64 with
  | none => none
  | some b =>
    let i := imgOf b
    some (i, match virtBytes s part none (rcGimg rc + i.secoff) (32 * i.nsec) with
      | some t => (List.range i.nsec).map (fun k => secOf (t.drop (32 * k)))
      | none => [])

/-- Positions of a placement by region number r (R92): reach, column, row. -/
def positions (i : Img) : List (Nat × Nat × Nat) :=
  (List.range i.shr).flatMap (fun a => (List.range i.shh).flatMap (fun row => (List.range i.shw).map (fun col => (a, col, row))))

/-- The section table names every position once and holds zeros where R98 has them. -/
def tableOk (i : Img) (es : List SecEnt) : Bool :=
  let ps := es.map (fun e => (e.reach, e.col, e.row))
  es.all (fun e => e.rsvd == 0) && ps.length == (positions i).length && (positions i).all (fun p => ps.contains p)

/-- Position of each section: that of the table, or the order of R92 where the table names no rectangle. -/
def sectPos (i : Img) (es : List SecEnt) : List (Nat × Nat × Nat) :=
  if tableOk i es then es.map (fun e => (e.reach, e.col, e.row)) else positions i

/-- The region of a position, from an origin. -/
def placeOf (o : Nat) (p : Nat × Nat × Nat) : Nat := 64 * ((o / 64 + p.1) % 4) + 8 * (o / 8 % 8 + p.2.1) + (o % 8 + p.2.2)

/-- A rectangle from an origin lies inside the grid, and inside one quad where QUAD asks for it. -/
def originOk (i : Img) (o : Nat) : Bool :=
  let col := o / 8 % 8
  let row := o % 8
  col + i.shw ≤ 8 && row + i.shh ≤ 8 &&
    (!i.quad || (i.shr == 1 && col / 4 == (col + i.shw - 1) / 4 && row / 4 == (row + i.shh - 1) / 4))

/-- The shape is one that R97 allows. -/
def shapeFits (i : Img) : Bool := 1 ≤ i.shw && i.shw ≤ 8 && 1 ≤ i.shh && i.shh ≤ 8 && 1 ≤ i.shr && i.shr ≤ 4

/-- Origins in the order of R96: lowest reach, then row, then column. -/
def origins : List Nat := (List.range 4).flatMap (fun a => (List.range 8).flatMap (fun row => (List.range 8).map (fun col => 64 * a + 8 * col + row)))

/-- The first origin whose regions all pass a test. -/
def fitWhere (i : Img) (ok : Nat → Bool) : Option Nat :=
  if !shapeFits i then none else origins.find? (fun o => originOk i o && (positions i).all (fun p => ok (placeOf o p)))

/-- The shape could fit the partition's regions, were they free (R90, R96). -/
def couldFit (s : State) (part : Nat) (i : Img) : Bool :=
  (fitWhere i (fun r => (getP s part).regions.getLsbD r && !(getR s r).offline)).isSome

/-- A region that a placement may take: the partition's, free, in service, and below 90 °C (R96, R380, R402). -/
def regionFree (s : State) (part r : Nat) : Bool :=
  let g := getR s r
  (getP s part).regions.getLsbD r && g.launch.isNone && !g.offline && g.temperature < 90

/-- The adders of this device that chains take. -/
def addersOf (gidx : Nat) (chains : List Lanes) : List Nat :=
  chains.flatMap (fun c => (((List.range (min (chainHops c) 6)).map (chainHop c)).filter (fun h => hopGidx h == gidx)).map hopAdder)

/-- The chains that an image names. -/
def imageChains (s : State) (part : Nat) (rc : List Byte) (i : Img) : List Lanes :=
  if i.nch = 0 || 16 < i.nch then [] else chainsIn i ((virtBytes s part none (rcGimg rc + i.choff) (64 * i.nch)).getD [])

/-- The graph of a launch runs. -/
def launchMoves (x : Launch) : Bool := x.phase == .running || x.phase == .rerun

/-- A launch's reduction chains cross a port. -/
def crosses (x : Launch) (port : Nat) : Bool :=
  x.chains.any (fun c => ((List.range (min (chainHops c) 6)).map (chainHop c)).any (fun h => hopEth h && hopPort h == port && hopGidx h == launchGidx x))

/-- A graph meets a port that is down: CHAINDOWN, and it rolls back; from now the port's 100 ms run (R439). -/
def chainDown (s : State) (l port : Nat) : State :=
  match getL s l with
  | none => s
  | some x =>
    if x.phase == .dredging then s
    else
      let x := { x with chainSince := aSet x.chainSince port s.now }
      let s := launchRec (setL s l x) l 8 1 { cause := 0x50, arg := 0, tval := BitVec.ofNat 64 port, hdr := 0 }
      if launchMoves x then
        let seq := match x.snap with | some c => c.seq | none => 0
        let s := launchRec s l 8 0 { cause := 0x09, arg := 0x50, tval := BitVec.ofNat 64 seq, hdr := 0 }
        setL s l { x with phase := .rolling, fault := some 0x50, hits := [] }
      else s

/-- A graph that has been placed meets the ports that are down under its chains. -/
def chainsDown (s : State) (l : Nat) : State :=
  (List.range 16).foldl (fun s k => match getL s l with
    | some x => if crosses x k && !(aGet EthPort.reset s.ports k).up && (aFind x.chainSince k).isNone then chainDown s l k else s
    | none => s) s

/-- A live launch holds regions (R444). -/
def isPlaced (x : Launch) : Bool := !(x.phase == .waiting || x.phase == .preempted || x.phase == .ended)

/-- GIDX of this device by a record. -/
def rcGidx (rc : List Byte) : Nat := match groupOf rc with | some g => g.2 | none => 0

/-- Every adder that an image's chains need is free. -/
def addersFree (s : State) (part : Nat) (rc : List Byte) (i : Img) : Bool :=
  let want := addersOf (rcGidx rc) (imageChains s part rc i)
  (s.launches.filter (fun e => isPlaced e.2)).all (fun e => (addersOf (launchGidx e.2) e.2.chains).all (fun a => !want.contains a))

/-- The placement of a launch: the first that fits, or the one it has to return to (R96, R103, R403). -/
def findPlace (s : State) (x : Launch) : Option (Nat × Img × List SecEnt) :=
  match imageOf s x.part x.record with
  | none => none
  | some (i, es) =>
    if !addersFree s x.part x.record i then none
    else match x.again with
      | some o => if originOk i o && (positions i).all (fun p => regionFree s x.part (placeOf o p)) then some (o, i, es) else none
      | none => (fitWhere i (regionFree s x.part)).map (fun o => (o, i, es))

/-! ## Checks on arrival (R90, R440) -/

/-- The chains of an image use a port adder. -/
def usesInred (s : State) (part : Nat) (rc : List Byte) : Bool :=
  match imageOf s part rc with
  | none => false
  | some (i, _) => (imageChains s part rc i).any (fun c => ((List.range (min (chainHops c) 6)).map (chainHop c)).any hopEth)

/-- The addresses of a record that must lie on the partition's pages. -/
def rcAddrs (rc : List Byte) : List Nat :=
  [rcGimg rc, saveAddr rc] ++ ([rcNmap rc, rcArgs rc, rcSigaddr rc].filter (· != 0)) ++ (rcWaits rc).map (·.1)

/-- STATUS of a record that fails the checks: BADMSG before DENIED, DENIED before NORES. -/
def recordStatus (s : State) (part : Nat) (rc : List Byte) : Option Nat :=
  let im := imageOf s part rc
  let save := pagesOf s part (saveAddr rc) (saveSize rc)
  if !ctlOk rc || !levelsOk (rcLevels rc) (im.map (fun x => x.1.nsec)) then some 1
  else if rcPart rc ≠ part || (rcAddrs rc).any (fun a => (walkAny s part a).isNone) then some 3
  else match save, im with
    | some ps, some (i, _) =>
      if saveSize rc < saveMin i.nsec || ps.any (fun p => 65535 ≤ pinCount s part p) || !couldFit s part i then some 5 else none
    | _, _ => some 5

/-! ## Queues (R93) -/

/-- A new live launch. -/
def newLaunch (s : State) (part : Nat) (rc : List Byte) (ltag : W64) (conn : Option (Nat × W64 × W64)) : Launch :=
  let im := imageOf s part rc
  { ltag := ltag, part := part, prio := rcPrio rc, qsel := rcQsel rc, order := s.order + 1, started := 0, record := rc, conn := conn,
    phase := .waiting, place := [], firstPlace := [], origin := 0, dims := (0, 0, 0), phys := [],
    gdig := BitVec.ofNat 64 ((im.map (fun x => x.1.gdig)).getD 0), nsec := (im.map (fun x => x.1.nsec)).getD 0,
    wide := (im.map (fun x => imgWide x.1)).getD false, cut := none, cutSeq := 0, wantEbb := false, wantSnap := false, window := 0, win := [],
    fills := [], commits := [], snap := none, rollbacks := 0, aborts := 0, fault := none, hits := [], fatalRec := 0, recurred := false,
    overflow := false, lowered := false, migPosted := none, thermal := false, repost := none, declined := [], forHead := none, again := none, quietSince := none, abandon := false,
    chains := [], chainSince := [], peers := [], partials := [], engines := [], ending := false, taken := [], raceFlag := false, raceNow := [] }

/-- Queues a launch; its save area is pinned (R114). -/
def queueLaunch (s : State) (x : Launch) : State :=
  let l := s.nextLaunch
  let s := pinPages s x.part ((pagesOf s x.part (saveAddr x.record) (saveSize x.record)).getD [])
  setL { s with nextLaunch := l + 1, order := s.order + 1 } l x

/-- Launches that wait in a queue. -/
def inQueue (s : State) (part q : Nat) : List (Nat × Launch) :=
  s.launches.filter (fun e => e.2.part == part && 4 * e.2.prio + e.2.qsel == q && (e.2.phase == .waiting || e.2.phase == .preempted))

/-- The head of a queue; a queue held for a dredge has none (R427). -/
def queueHead (s : State) (part q : Nat) : Option (Nat × Launch) :=
  if (getP s part).dumps.any (fun d => d.hold && d.queue == q) then none
  else (inQueue s part q).foldl (fun acc e => match acc with
    | some y => if e.2.order < y.2.order then some e else some y
    | none => some e) none

/-- Every wait of a record is met in memory as committed (R94). -/
def waitsMet (s : State) (x : Launch) : Bool :=
  (rcWaits x.record).all (fun w => match walkAny s x.part w.1 with
    | some pa => w.2 ≤ memNat s.hbm pa 8
    | none => false)

/-- Numbers 0 to n − 1 in round-robin order after the last one served. -/
def afterLast (n last : Nat) : List Nat := (List.range n).map (fun k => (last + 1 + k) % n)

/-- The dispatchable heads of one priority, in the order the headwater considers them. -/
def headsOf (s : State) (prio : Nat) : List (Nat × Launch) :=
  (afterLast 32 s.lastPart).flatMap (fun p =>
    (afterLast 4 (vGet 3 (getP s p).lastQ prio)).filterMap (fun q => (queueHead s p (4 * prio + q)).filter (fun e => waitsMet s e.2)))

/-- The dispatchable heads, highest priority first. -/
def headsAll (s : State) : List (Nat × Launch) := [3, 2, 1, 0].flatMap (headsOf s)

/-- The head that starts: the first that finds a placement. -/
def pickLaunch (s : State) : Option (Nat × Launch × Nat × Img × List SecEnt) :=
  (headsAll s).findSome? (fun e => (findPlace s e.2).map (fun f => (e.1, e.2, f.1, f.2.1, f.2.2)))

/-! ## Regions of a placement -/

/-- A region before a load: what a load does not give and a launch does not own stays. -/
def regionBase (g : Region) : Region :=
  { Region.reset with
    bufs := g.bufs, ring := g.ring, ringNext := g.ringNext, ringWraps := g.ringWraps, ringFrozen := g.ringFrozen,
    temperature := g.temperature, tripped := g.tripped, hot := g.hot, govStart := g.govStart, govCycles := g.govCycles, cache := g.cache, cfgErrTimes := g.cfgErrTimes, bufErrTimes := g.bufErrTimes,
    nmap := [], offline := g.offline, helm := { Helm.reset with cycle := g.helm.cycle, lid := g.helm.lid } }

/-- Nothing of a region is on its way or stands at a node any more. -/
def quietRegion (s : State) (r : Nat) : State :=
  { s with links := s.links.filter (fun l => l.src.r != r && l.dst.r != r), dlinks := s.dlinks.filter (fun l => l.src.r != r && l.dst.r != r),
           arms := s.arms.filter (fun a => agentR a.who != r) }

/-- A region whose launch has ended is free, and its contents stand until the next load (R341, R352, R355, R363). -/
def endRegion (s : State) (r : Nat) : State :=
  let s := quietRegion s r
  setR s r { getR s r with launch := none, settled := true, stopReq := [], grace := 0, still := 0, hung := false, frozen := false, cfgErr := none,
                           journal := [], nmap := [] }

/-- Frees a region (R94, R112, R376). -/
def freeRegion (s : State) (r : Nat) : State :=
  let s := quietRegion s r
  setR s r (regionBase (getR s r))

/-- Frees the regions of a launch. -/
def freeRegions (s : State) (l : Nat) : State := (regionsOf s l).foldl freeRegion s

/-- A launch takes its regions: the sections' places, the logical ids of the first placement, the ring thawed (R96, R116,
R426). -/
def takePlace (s : State) (l : Nat) (x : Launch) (o : Nat) (i : Img) (es : List SecEnt) : State :=
  let ps := sectPos i es
  let place := ps.map (placeOf o)
  let first := if x.firstPlace = [] then place else x.firstPlace
  let s := (place.zip (List.range place.length)).foldl (fun s p =>
    let pos := ps.getD p.2 (0, 0, 0)
    let g := { regionBase (getR s p.1) with launch := some l, sect := p.2, ringFrozen := false, interval := s.now }
    let num := (pos.1 * i.shh + pos.2.2) * i.shw + pos.2.1
    setR s p.1 { g with helm := { g.helm with lid := first.getD p.2 p.1, lids := lidRegs x.record num } }) s
  let q := getP s x.part
  let s := { s with launches := aMap (fun _ y => { y with declined := y.declined.filter (· != l) }) s.launches }
  let s := setP { s with lastPart := x.part, order := s.order + 1 } x.part { q with lastQ := vSet q.lastQ x.prio x.qsel }
  setL s l { x with place := place, firstPlace := first, origin := o, dims := (i.shw, i.shh, i.shr), again := none, started := s.order,
                    chains := imageChains s x.part x.record i }

/-! ## The load (R103, R104, R178, R207, R392) -/

/-- A record of a place of a region whose NODE is given. -/
def placeRec (s : State) (r e c slot : Nat) (node : W32) (src cls : Nat) (t : Trap) : State :=
  let ph := physOf s r
  let lw := match launchOf s r with | some (_, l) => (l.ltag, l.window) | none => (0, 0)
  putRec s (partOf s r) lw.1 lw.2 (getH s r).lid
    [(224, 32, node.toNat), (172, 2, ph.1), (165, 7, ph.2), (156, 9, e), (152, 4, c), (147, 5, slot)] src 0 cls t

/-- LOADREJ without an element. -/
def loadRej (arg sect off : Nat) : Trap :=
  { cause := 0x30, arg := arg, tval := BitVec.ofNat 64 (packFields [(48, 16, sect), (0, 32, off)]), hdr := 0 }

/-- The record of a section that fails. -/
def failRec (s : State) (r cls : Nat) (f : LoadFail) : State :=
  faultRec s r f.elem f.ctx f.slot 7 0 cls { cause := f.code, arg := f.arg, tval := f.tval, hdr := 0 }

/-- Puts a node map entry's key on another physical place. -/
def nmMove (old new : List (Nat × Nat)) (x : BitVec 128) : BitVec 128 :=
  match old.findIdx? (fun p => p.1 == Bits.nat x 45 44 && p.2 == Bits.nat x 43 37) with
  | some k => let q := new.getD k (0, 0); Bits.put (Bits.put x 44 2 q.1) 37 7 q.2
  | none => x

/-- Puts an entry into a table sorted by key. -/
def nmInsert (x : BitVec 128) : List (BitVec 128) → List (BitVec 128)
  | [] => [x]
  | y :: l => if nmKey x < nmKey y then x :: y :: l else y :: nmInsert x l

/-- The node map table of a launch, with the keys of its old physical places put on the new ones: the table and its
bytes, or where it breaks R207. -/
def nmTable (s : State) (x : Launch) (old new : List (Nat × Nat)) : Except (Nat × Nat) (State × List (BitVec 128)) :=
  let va := rcNmap x.record
  if va = 0 then .ok (s, [])
  else match virtBytes s x.part none va 64 with
    | none => .error (0, 0)
    | some h =>
      let n := at_ h 4 4
      if !virtOk s x.part va (64 + 16 * n) then .error (0, 0)
      else
        let b := (virtBytes s x.part none va (64 + 16 * n)).getD []
        let es := nmEntries b n
        match nmBad b es with
        | some f => .error f
        | none =>
          if old = new then .ok (s, es)
          else
            let es := (es.map (nmMove old new)).foldl (fun l x => nmInsert x l) []
            let fs := (0, 8, at_ h 0 8) :: (es.zip (List.range n)).map (fun e => (64 + 16 * e.2, 16, e.1.toNat))
            .ok (virtBlock s x.part va (64 + 16 * n) (fieldsMem fs), es)

/-- The bytes of a launch's sections, each with its region and whether the region's cache holds it; none where a section
cannot be read. -/
def sectBytes (s : State) (x : Launch) (es : List SecEnt) : List (Nat × Nat × Bool × Option (List Byte)) :=
  (es.zip (List.range es.length)).map (fun e =>
    let r := x.place.getD e.2 0
    match (getR s r).cache.find? (fun c => c.1 == x.gdig && c.2.1 == e.2) with
    | some c => (r, e.2, true, some c.2.2)
    | none => (r, e.2, false, virtBytes s x.part none (rcGimg x.record + e.1.off) e.1.len))

/-- A section activated in the cache: it comes first, and of two others the one activated first goes (R104). -/
def cachePut (l : List (W64 × Nat × List Byte)) (d : W64) (k : Nat) (b : List Byte) : List (W64 × Nat × List Byte) :=
  (d, k, b) :: (l.filter (fun c => !(c.1 == d && c.2.1 == k))).take 1

/-- Every region as its section's records give it, with the launch's chains. -/
def buildAll (s : State) (secs : List (Nat × Nat × List Byte)) : State :=
  let s := secs.foldl (fun s q => setR s q.1 (buildRegion (primesOf s q.2.2) (getR s q.1) (records q.2.2).1)) s
  secs.foldl (fun s q => markGraph s q.1) s

/-- The checks of every section, by region in ascending logical id. -/
def sectFails (t : State) (x : Launch) (i : Img) (es : List SecEnt) (secs : List (Nat × Nat × Bool × Option (List Byte))) : List (Nat × LoadFail) :=
  let c := fun (q : Nat × Nat × Bool × Option (List Byte)) =>
    ({ st := t, r := q.1, shw := i.shw, shh := i.shh, shr := i.shr, wide := x.wide, hops := x.chains.map chainHops, sect := q.2.1 } : LoadCtx)
  let one := fun (q : Nat × Nat × Bool × Option (List Byte)) =>
    match q.2.2.2 with
    | none => some (q.1, pastEnd (c q) 0)
    | some b =>
      let e := es.getD q.2.1 (secOf [])
      (sectCheck (c q) (if q.2.2.1 then { e with sig := sigOf b } else e) b).map (fun f => (q.1, f))
  let fs := secs.filterMap one
  (List.range 256).flatMap (fun lid => fs.filter (fun f => (getH t f.1).lid == lid))

/-- The chains and the peer table keep R103. -/
def chainsOk (t : State) (x : Launch) (i : Img) : Bool :=
  let grp := groupOf x.record
  let r := x.place.headD 0
  let c : LoadCtx := { st := t, r := x.origin, shw := i.shw, shh := i.shh, shr := i.shr, wide := x.wide, hops := x.chains.map chainHops, sect := 0 }
  let own := addersOf (rcGidx x.record) x.chains
  i.nch ≤ 16 && x.chains.length == i.nch && x.chains.all (chainOk { c with r := if x.place.contains x.origin then x.origin else r } grp x.conn.isSome) &&
    own.eraseDups.length == own.length && (i.npeer == 0 || (match grp with | some g => g.1 == i.npeer | none => false))

/-- Loads the regions of a launch: the state with every region configured, or the state with the records of the failure.
`old` are the physical places that the node map table names. -/
def loadGraph (s : State) (l : Nat) (old : List (Nat × Nat)) : Except State State :=
  match getL s l with
  | none => .error s
  | some x =>
    let r0 := x.place.headD 0
    match imageOf s x.part x.record with
    | none => .error (placeRec s r0 0x1FF 0 0 0xFFFFFFFF 7 2 (loadRej 2 0 0))
    | some (i, es) =>
      let new := x.place.map (physOf s)
      if !i.whole || !tableOk i es || es.length ≠ x.place.length then .error (placeRec s r0 0x1FF 0 0 0xFFFFFFFF 7 2 (loadRej 2 0 0))
      else match nmTable s x (if old = [] then new else old) new with
        | .error (off, preg) =>
          let t := loadRej 13 0 off
          .error (putRec s x.part x.ltag x.window (getH s r0).lid
            [(224, 32, 0xFFFFFFFF), (172, 2, (physOf s r0).1), (165, 7, preg), (156, 9, 0x1FF)] 7 0 2 t)
        | .ok (s, nm) =>
          let secs := sectBytes s x es
          let t := buildAll s (secs.filterMap (fun q => q.2.2.2.map (fun b => (q.1, q.2.1, b))))
          if !chainsOk t x i then .error (placeRec s r0 0x1FF 0 0 0xFFFFFFFF 7 2 (loadRej 15 0 0))
          else match sectFails t x i es secs with
            | f :: fs => .error ((f :: fs).foldl (fun s f => failRec s f.1 2 f.2) s)
            | [] =>
              let t := secs.foldl (fun t q => setR t q.1 { getR t q.1 with nmap := nmRegion (physOf t q.1) nm }) t
              let races := racesGo t (memNodes t x.place)
              match races, i.race with
              | q :: _, 0 => .error (placeRec s q.1.r q.1.e q.1.c 0 q.2.1.node 7 2
                  { cause := 0x30, arg := 14, tval := q.2.2.node.setWidth 64, hdr := 0 })
              | _, _ =>
                let t := races.foldl (fun t q => placeRec t q.1.r q.1.e q.1.c 0 q.2.1.node 8 0
                  { cause := 0x0E, arg := 0, tval := q.2.2.node.setWidth 64, hdr := 0 }) t
                let t := secs.foldl (fun t q =>
                  let g := getR t q.1
                  let e := es.getD q.2.1 (secOf [])
                  setR t q.1 { g with cache := cachePut g.cache x.gdig q.2.1 (q.2.2.2.getD []),
                                      cfgFrom := (rcGimg x.record + e.off, e.len, e.sig),
                                      helm := { g.helm with halted := !g.helm.running } }) t
                let peers := if i.npeer = 0 then [] else peersIn i ((virtBytes t x.part none (rcGimg x.record + i.peeroff) (16 * i.npeer)).getD [])
                .ok (setL t l { x with phys := new, peers := peers, raceFlag := !races.isEmpty, raceNow := [] })

/-! ## Ends (R20, R64, R94) -/

/-- TYPE of LAUNCH (R18). -/
def tyLAUNCH : Byte := 0x02

/-- Writes a launch's completion. -/
def launchCompl (s : State) (x : Launch) (status value : Nat) : State :=
  match x.conn with
  | some (k, q, t) => complMsg s k { tag := t, value := BitVec.ofNat 64 value, typ := tyLAUNCH, status := BitVec.ofNat 8 status,
                                     part := BitVec.ofNat 5 x.part, seq := q }
  | none => s

/-- No pre-emption of a launch is in progress any more. -/
def preemptOver (s : State) (l part : Nat) : State :=
  let p := getP s part
  if p.preempting = some l then setP s part { p with preempting := none } else s

/-- A launch is over: its counter pages are written (R205), its regions are free, its save area is unpinned, its completion is written, and then those of the
REQUESTs still open on it. -/
def launchOver (s : State) (l status value : Nat) : State :=
  match getL s l with
  | none => s
  | some x =>
    let rs := (s.reqs.filter (fun q => q.launch == l)).map (fun q => (q, sinkTop s q.sink))
    let s := (regionsOf s l).foldl (fun s r => intervalEnd s r 2) s
    let s := (regionsOf s l).foldl endRegion s
    let s := unpinPages s x.part ((pagesOf s x.part (saveAddr x.record) (saveSize x.record)).getD [])
    let s := launchCompl (preemptOver s l x.part) x status value
    let s := setL s l { x with phase := .ended, cut := none, snap := none, win := [], fills := [], commits := [], hits := [], partials := [],
                               engines := [], chains := [], wantEbb := false, wantSnap := false, ending := false }
    rs.foldl (fun s q => reqDone s q.1 6 q.2) s

/-! ## LAUNCH_DISPATCH and HELM_START (R93, R96, R104) -/

/-- LAUNCH_DISPATCH: the head that finds a placement takes its regions, and its load begins. -/
def execLaunchDispatch (s : State) : Host.Outcome State Fault Refusal :=
  match pickLaunch s with
  | some (l, x, o, i, es) =>
    if x.phase == .waiting then
      let s := takePlace s l x o i es
      .next (shareAll (match getL s l with | some x => setL s l { x with phase := .loading } | none => s))
    else .next s
  | none => .next s

/-- The images of a graph's regions as they stand. -/
def imagesNow (s : State) (rs : List Nat) : Assoc Region := rs.foldl (fun m r => aSet m r (getR s r)) []

/-- The helm cores of a placement start at HENTRY with s0 = ARGS. -/
def startHelm (s : State) (x : Launch) (r : Nat) : State :=
  let h := getH s r
  let n := { h.node with regs := setS h.node.regs 0 (BitVec.ofNat 64 (rcArgs x.record)) }
  if h.running then setH s r { h with pc := BitVec.ofNat 20 (rcHentry x.record), node := n } else s

/-- HELM_START: the sections have streamed in and passed their checks; every helm core starts, and the state that the load
leaves stands in for a cut until the first one completes; a chain across a port that is down takes CHAINDOWN (R439). A load that
fails ends the launch. -/
def execHelmStart (l : Nat) (s : State) : Host.Outcome State Fault Refusal :=
  match getL s l with
  | none => .next s
  | some x =>
    if x.phase != .loading then .next s
    else match loadGraph s l [] with
      | .error t => .next (launchOver t l 6 0)
      | .ok t =>
        let t := x.place.foldl (fun t r => startHelm t x r) t
        let c : Snap := { kind := 0, seq := 0, window := 0, slot := 1, rerun := false, image := imagesNow t x.place, arms := [] }
        let t := match getL t l with
          | some y => setL t l { y with phase := .running, snap := some c }
          | none => t
        .next (chainsDown (virtBlock t x.part (saveAddr x.record) 4096 []) l)

/-! ## LAUNCH (R331) -/

/-- A read through the graph's view, line by line; what a line meets stops the instruction. -/
def viewRun (s : State) (part : Nat) (l : Option Nat) : Nat → Nat → Nat → Except Effect (List Byte)
  | 0, _, _ => .ok []
  | k + 1, va, n =>
    if n = 0 then .ok []
    else
      let m := min n (64 - va % 64)
      match xlate s part (va % 2 ^ 57) 0 with
      | .error e => .error (.wait .unit (engineStop s s.agent e (va % 2 ^ 57)))
      | .ok (pa, _) =>
        if !populated pa then .error (.absent pa)
        else if poisoned s (pa / 64) && !windowLine s l (pa / 64) then .error (.trap (mkTrap 0x66 0 va))
        else match viewRun s part l k (va + m) (n - m) with
          | .error e => .error e
          | .ok bs => .ok (viewBytes s l pa m ++ bs)

/-- `n` bytes of an instruction's operand. -/
def viewRead (s : State) (r va n : Nat) : Except Effect (List Byte) :=
  viewRun s (partOf s r) (viewOf s r false) (n / 64 + 2) va n

/-- LAUNCH: queues a record, and answers with its LTAG or with the status of R20. The count rises with every LAUNCH, and
an LTAG that the launch's cores have presented before is answered as it was then. -/
def execLaunch (t : BitVec 6) (d a : BitVec 5) (s : State) : Host.Outcome State Fault Refusal :=
  issue (.launch t d a) s (onHelm (fun s r h =>
    let va := (srcVal h.node a.toNat).toNat % 2 ^ 57
    let part := partOf s r
    match alignCheck va 64, viewRead s r va 256 with
    | some y, _ => .trap y
    | none, .error y => y
    | none, .ok rc =>
      let s := engineGo s s.agent
      let n := h.launches + 1
      let ltag : W64 := BitVec.ofNat 64 (packFields [(63, 1, 1), (32, 8, h.lid), (0, 32, n.toNat)])
      let s := setH s r { getH s r with launches := n }
      let old := match launchOf s r with | some (_, x) => (x.taken.find? (fun e => e.1 == ltag)).map (·.2) | none => none
      match old with
      | some v => .done (putD s d.toNat v)
      | none =>
        let st := recordStatus s part rc
        let v : W64 := match st with | some k => BitVec.ofNat 64 k | none => ltag
        let s := if st.isNone then queueLaunch s (newLaunch s part rc ltag none) else s
        let s := match launchOf s r with
          | some (l, x) => setL s l { x with taken := x.taken ++ [(ltag, v)] }
          | none => s
        .done (putD s d.toNat v)))

/-! ## CFGLD (R329) -/

/-- A region quiescent for CFGLD. -/
def cfgQuiet (s : State) (r : Nat) : Bool :=
  let g := getR s r
  let node := fun (n : Node) => n.flight.isNone && n.held.isNone &&
    (List.range 4).all (fun k => (nodePort n k).queue.isEmpty && (nodePort n k).coal.isNone && (nodePair n k).queue.isEmpty && (nodePair n k).behind.isEmpty)
  !g.mxmode && g.elems.all (fun e => e.2.ctxs.all (fun c => node c.2)) && (match launchOf s r with | some (_, x) => x.cut.isNone | none => true)

/-- The KINDs that CFGLD takes. -/
def cfgKind (k : Nat) : Bool := (1 ≤ k && k ≤ 7) || k == 11 || k == 12

/-- A record of another KIND, in the order the records lie. -/
def cfgOther (c : LoadCtx) : List Rec → List Rec → Option (Nat × LoadFail)
  | _, [] => none
  | before, q :: l =>
    if !cfgKind q.kind then (rejRec c 2 q 0).map (fun f => (3, f))
    else match recCheck c before q with
      | some f => some (2, f)
      | none => cfgOther c (before ++ [q]) l

/-- A region with every slot empty and every wheel slot 15. -/
def cfgClear (g : Region) : Region :=
  { g with elems := aMap (fun _ el => { el with ctxs := aMap (fun _ n => { n with slots := [] }) el.ctxs }) g.elems,
           wheel := 0xFFFFFFFFFFFFFFFF, nextWheel := none }

/-- Journals the lines of A that a load writes for SEED tags, or the first of them that finds the journal full (R136). -/
def cfgJournal (g : Region) (h : Region) : Except Nat Region :=
  let lines := h.elems.flatMap (fun e => e.2.ctxs.flatMap (fun c => (c.2.classes.filter (fun x => x.2.cls == 3)).flatMap (fun x =>
    (List.range 10).map (fun k => (chkAddr x.2 x.1 0) / 64 + k))))
  lines.foldl (fun g k => g.bind (fun g => match journalLine g 1 k with
    | some g => .ok g
    | none => .error (64 * k))) (.ok g)

/-- Loads a section into a running region: the state and the status, or the address that found the journal full. -/
def cfgLoad (s : State) (r : Nat) (e : SecEnt) (va : Nat) (b : List Byte) : Except Nat (State × Nat) :=
  let g := getR s r
  let x := launchOf s r
  let rs := records b
  let blank := { g with elems := [] }
  let t := setR s r (buildRegion (primesOf s b) blank rs.1)
  let dims := match x with | some (_, x) => x.dims | none => (1, 1, 1)
  let c : LoadCtx := { st := t, r := r, shw := dims.1, shh := dims.2.1, shr := dims.2.2, wide := mmWide s r,
                       hops := (match x with | some (_, x) => x.chains | none => []).map chainHops, sect := g.sect }
  let bad : Option (Nat × LoadFail) :=
    if sigOf b ≠ e.sig then some (1, { pastEnd c 0 with arg := 1 })
    else match cfgOther c [] rs.1 with
      | some f => some f
      | none => rs.2.map (fun o => (2, pastEnd c o))
  match bad, cfgJournal blank (getR t r) with
  | some (st, f), _ => .ok (failRec (setR s r (cfgClear g)) r 1 f, st)
  | none, .error a => .error a
  | none, .ok j =>
    let t := setR t r { getR t r with journal := j.journal, cfgFrom := (va, e.len, e.sig), nextWheel := none, weights := [], sinceWheel := 0 }
    .ok (journalEarly ((graphOf t r).foldl markGraph t) r, 0)

/-- CFGLD: the region's configuration from one section; the configuration interval ends. -/
def execCfgld (t : BitVec 6) (d a b : BitVec 5) (s : State) : Host.Outcome State Fault Refusal :=
  issue (.cfgld t d a b) s (onHelm (fun s r h =>
    let va := (srcVal h.node a.toNat).toNat % 2 ^ 57
    let img := (srcVal h.node b.toNat).toNat % 2 ^ 57
    match alignCheck va 32 with
    | some y => .trap y
    | none =>
      if !cfgQuiet s r then .wait .quiescent s
      else match viewRead s r va 32 with
        | .error y => y
        | .ok tb =>
          let e := secOf tb
          match viewRead s r (img + e.off) e.len with
          | .error y => y
          | .ok bs =>
            let s := engineGo s s.agent
            let u := match cfgLoad s r e (img + e.off) bs with
              | .ok (_, 0) => cfgLoad (intervalEnd s r 0) r e (img + e.off) bs
              | x => x
            match u with
            | .ok u => .done (putD u.1 d.toNat (BitVec.ofNat 64 u.2))
            | .error a => .hold (memFault s s.agent (mkTrap 0x64 1 a))))

end Sys2Proof.Machine
end

