-- ==== Sys2Proof/Machine/CutOps.lean ====
section
/-!
DEFINITION. Cuts: posting, the saves of elements, helm cores and matrix nodes, completion, the windows applied, abandoned
saves, pre-emption, migration and restoration, and the end of a launch (R94, R108 to R117, R133, R263, R297, R323, R358 to
R361, R378, R379).
-/

namespace Sys2Proof.Machine

/-! ## Posting a cut (R108, R109, R358) -/

/-- NODE of a context's output: that of the context's first entry in the node map. -/
def ctxNode (s : State) (r e c : Nat) : W32 :=
  (((getR s r).nmap.find? (fun k => k.1 / 512 == e && k.1 / 32 % 16 == c)).map (fun k => k.2.extractLsb' 96 32)).getD 0xFFFFFFFF

/-- The marker a port injects (R42). -/
def cutMarker (kind seq : Nat) (node : W32) (t : Nat) : Token :=
  { hdr := mkHdr 2 7 0 0 0x0007 t, pay := Lanes.ofList [BitVec.ofNat 32 kind, BitVec.ofNat 32 seq, node] }

/-- A stream engine serves a port: SRD has bound it, or its binding has ended and its agent has fired nothing there since
(R109, R363; log 24). -/
def hasEngine (p : Port) : Bool := p.spb.isSome || p.ended

/-- The time of the next data lane that a port would emit: a bound source's by the entry it serves next, or the T of the
token that its stopped engine abandons; else the time above the last lane fired (R42, R358, R378). -/
def portNext (s : State) (a : At) (p : Port) : Nat :=
  match p.spb, p.pending with
  | some x, v :: _ =>
    if (launchOf s a.r).any (fun y => engineStopped y.2 (portAgent s a)) then sourceT x v.lo
    else (p.pending.findSome? (fun v => (sourceLanes x v).1.head?.map (·.2.1))).getD v.lo
  | _, _ => p.top

/-- Changes every context and helm core of a region. -/
def mapNodes (f : Nat → Nat → Node → Node) (g : Region) : Region :=
  { g with elems := aMap (fun e el => { el with ctxs := aMap (f e) el.ctxs }) g.elems, helm := { g.helm with node := f 256 0 g.helm.node } }

/-- Changes every port of a context. -/
def mapPorts (f : Nat → Port → Port) (n : Node) : Node := [0, 1, 2, 3].foldl (fun n k => setPort n k (f k (nodePort n k))) n
/-- Changes every pair of a context. -/
def mapPairs (f : Pair → Pair) (n : Node) : Node := [0, 1, 2, 3].foldl (fun n k => setPair n k (f (nodePair n k))) n

/-- Nothing of a region has saved. -/
def unsaved (g : Region) : Region :=
  { g with elems := aMap (fun _ el => { el with saved := none }) g.elems, helm := { g.helm with saved := none }, mmSaved := none }

/-- Posts a cut, with its number, to every stream engine of a graph. -/
def postCut (s : State) (l kind : Nat) (closing first : Bool) : State :=
  match getL s l with
  | none => s
  | some x =>
    if x.cut.isSome then s
    else
      let seq := x.cutSeq + 1
      let s := setL s l { x with cut := some { kind := kind, seq := seq, closing := closing, first := first, image := [], arms := [] },
                                 cutSeq := seq, wantSnap := false }
      (regionsOf s l).foldl (fun s r =>
        let post := fun (e c : Nat) (n : Node) => mapPorts (fun k p =>
          if hasEngine p then { p with post := some (cutMarker kind seq (ctxNode s r e c) (portNext s ⟨r, e, c, k⟩ p)) } else p) n
        setR s r (mapNodes post (unsaved (getR s r)))) s

/-- Every helm core of a launch has halted. -/
def allHalted (s : State) (x : Launch) : Bool := x.place.all (fun r => (getH s r).halted)

/-- Data tokens that the sources of a region have counted: each bound port those of its engine, a helm core and a source element
those that they have fired on all their ports together (R109). -/
def sourceCounts (s : State) (r : Nat) : List Nat :=
  let g := getR s r
  let bound := fun (n : Node) => ((List.range 4).filter (fun k => (nodePort n k).spb.isSome)).map (fun k => (nodePort n k).count)
  let free := fun (n : Node) => (List.range 4).foldl (fun t k =>
    let p := nodePort n k
    t + p.own + (if p.spb.isNone then p.count else 0)) 0
  let src := fun (el : Elem) => el.ctxs.all (fun c => (List.range 4).all (fun ch => let p := nodePair c.2 ch; p.ctxset == 0 || p.back || !p.fed))
  bound g.helm.node ++ [free g.helm.node] ++ g.elems.flatMap (fun e =>
    e.2.ctxs.flatMap (fun c => bound c.2) ++ (if src e.2 then [e.2.ctxs.foldl (fun t c => t + free c.2) 0] else []))

/-- A SNAP is due: a count has reached SNAPN, or an early one has been asked for. -/
def snapDue (s : State) (x : Launch) : Bool :=
  x.wantSnap || x.place.any (fun r => (sourceCounts s r).any (fun k => rcSnapn x.record ≤ k))

/-- SNAP_CUT_POST: the closing SNAP once every helm core has halted, else a SNAP that is due, where no cut is in flight. -/
def execSnapCutPost (l : Nat) (s : State) : Host.Outcome State Fault Refusal :=
  match getL s l with
  | none => .next s
  | some x =>
    if !launchMoves x || x.cut.isSome || x.ending then .next s
    else if allHalted s x then .next (postCut s l 1 true false)
    else if snapDue s x then .next (postCut s l 1 false false)
    else .next s

/-- A port's queue with a token for each of its destinations behind it. -/
def queueAll (n : Node) (k : Nat) (p : Port) (t : Token) : Port :=
  { p with queue := p.queue ++ [{ tok := t, copies := (portDests n k).map (fun d => (d, t)), pos := 0, new := false }] }

/-- A graph's cut lets the sources abandon the tokens that stopped engines hold: the EBB of a quiescent graph (R378). -/
def abandons (x : Launch) : Bool := x.abandon && (match x.cut with | some c => c.kind == 2 | none => false)

/-- A port's engine has a token to complete before it injects a cut's marker: its reads have begun, and the cut does not let it
abandon the token (R358, R378). -/
def midToken (s : State) (x : Launch) (a : At) : Bool :=
  (nodePort (getN s a.r a.e a.c) a.n).post.isSome && readBegun s a && !abandons x

/-- SOURCE_MARKER_INJECT: a port's engine puts its marker behind the tokens it has emitted, and emits nothing until its node
has saved; a token whose reads have begun comes first (R358; log 24). -/
def execSourceMarkerInject (at_ : At) (s : State) : Host.Outcome State Fault Refusal :=
  let n := getN s at_.r at_.e at_.c
  let p := nodePort n at_.n
  match launchOf s at_.r, p.post with
  | some (_, x), some t =>
    if !launchMoves x || !hasEngine p || midToken s x at_ then .next s
    else
      let t := { t with hdr := hSetT t.hdr (portNext s at_ p) }
      .next (setN s at_.r at_.e at_.c (setPort n at_.n { queueAll n at_.n { p with post := none, cutHold := true } t with cutHold := true }))
  | _, _ => .next s

/-! ## Saves (R110, R111, R263) -/

/-- The marker has arrived on every fed channel of an element or helm core that its BACK record does not name. -/
def marksIn (s : State) (r e : Nat) (ns : List Node) : Bool :=
  (List.range 4).all (fun ch =>
    match (ns.map (fun n => nodePair n ch)).find? (fun p => p.ctxset != 0 && !p.back) with
    | none => true
    | some p => allMarked s r e ch p.marked)

/-- A context as the image of a cut holds it: no token behind a marker, and what an engine has emitted on the link. -/
def nodeImage (n : Node) : Node :=
  mapPorts (fun _ p => { p with post := none, cutHold := false, queue := if hasEngine p then [] else p.queue })
    (mapPairs (fun p => { p with behind := [], marker := none, marked := [], catching := false }) { n with held := none, flight := none })

/-- The cut's image of a region, which begins as the region without its elements. -/
def imageBase (s : State) (c : Cut) (r : Nat) : Region := (aFind c.image r).getD { getR s r with elems := [] }

/-- Writes a region's image of the cut in flight. -/
def putImage (s : State) (l r : Nat) (f : Region → Region) : State :=
  match getL s l with
  | some x => (match x.cut with
    | some c => setL s l { x with cut := some { c with image := aSet c.image r (f (imageBase s c r)) } }
    | none => s)
  | none => s

/-- The marker that an element passes on: that of its lowest channel on which one has arrived (R110, R360). -/
def markerIn (ns : List Node) : Option Token :=
  (List.range 4).findSome? (fun ch => ns.findSome? (fun n => (nodePair n ch).marker))

/-- The markers that a save sends ahead of what its ports hold: the one that has arrived, or, from a source, its own. A port
whose engine has not injected its own yet does so now; it takes no second one (R109, R110). -/
def sendMarkers (s : State) (r e c kind seq : Nat) (passed : Option Token) : State :=
  let n := getN s r e c
  let node := ctxNode s r e c
  let mk := fun (k : Nat) (p : Port) => cutMarker kind seq node (portNext s ⟨r, e, c, k⟩ p)
  let n' := mapPorts (fun k p =>
    if hasEngine p && !p.cutHold then { queueAll n k p (mk k p) with post := none } else { p with post := none, cutHold := false }) n
  let free := (List.range 4).filter (fun k => !hasEngine (nodePort n k) && !(nodePort n k).cutHold)
  let ls := free.flatMap (fun k => (portDests n k).map (fun d =>
    ({ src := ⟨r, e, c, k⟩, dst := destAt s r d, tok := passed.getD (mk k (nodePort n k)) } : Link)))
  { setN s r e c n' with links := s.links ++ ls }

/-- After a save the tokens behind the markers join the queues; a back-edge channel on which a marker has not arrived
begins to catch (R110, R111). -/
def openPairs (s : State) (r e c : Nat) : State :=
  [0, 1, 2, 3].foldl (fun s ch =>
    let p := nodePair (getN s r e c) ch
    if p.ctxset = 0 then s
    else
      let late := !allMarked s r e ch p.marked
      let s := withPair s r e c ch (fun p => { p with behind := [], marker := none, catching := late, marked := if late then p.marked else [] })
      p.behind.foldl (fun s q => enterPair s r e c ch q) s) s

/-- The deferred reads and armed waits of an element are withdrawn (R263). -/
def withdrawElem (s : State) (r e : Nat) : State :=
  { s with arms := s.arms.filter (fun a => match a.who with | .elem q e' _ k => !(q == r && e' == e && k < 32) | .helm _ => true) }

/-- A region takes part in a cut: its graph moves, and it is not frozen (R398, R402). -/
def regionCuts (s : State) (r : Nat) : Bool := graphMoves s r && !(getR s r).hung && !(getR s r).frozen

/-- The cut in flight of a region's graph: launch and cut. -/
def cutOf (s : State) (r : Nat) : Option (Nat × Cut) :=
  match launchOf s r with
  | some (l, x) => x.cut.map (fun c => (l, c))
  | none => none

/-- A graph's closing SNAP can go no further by its markers: none is on its way or still to be injected, and whoever has not
saved waits for one. That is so where agents feed one another on channels that no BACK record names (R110, R353, R355). -/
def cutStuck (s : State) (x : Launch) : Bool :=
  let still := fun (n : Node) => (List.range 4).all (fun k => let p := nodePort n k; p.post.isNone && !p.queue.any (fun o => isCutMarker o.tok))
  (match x.cut with | some c => c.closing | none => false) &&
    s.links.all (fun l => !(isCutMarker l.tok && x.place.contains l.dst.r)) && !x.partials.any (fun p => isCutMarker p.2.2.2.2) &&
    x.place.all (fun r =>
      let g := getR s r
      !g.mmq.any isCutMarker && still g.helm.node && (g.helm.saved.isSome || !marksIn s r 256 [g.helm.node]) &&
        g.elems.all (fun e =>
          let ns := e.2.ctxs.map (·.2)
          ns.all still && (ns.isEmpty || e.2.saved.isSome || !marksIn s r e.1 ns)))

/-- What an agent waits for has come: its markers, or, in a closing SNAP that could else go no further, nothing (log 91). -/
def marksDue (s : State) (r e : Nat) (ns : List Node) : Bool :=
  marksIn s r e ns || (match launchOf s r with | some (_, x) => cutStuck s x | none => false)

/-- The cut lets what a stopped engine of an agent holds stand: the EBB of a graph behind a translation fault (R378). -/
def heldSaves (x : Launch) (a : Agent) : Bool := engineStopped x a && (match x.cut with | some c => c.kind == 2 | none => false)

/-- A region's units have finished what stands at them, for an agent that saves or, with none, for all of them (R303, R447). -/
def unitsDone (s : State) (q : Nat) (mine : Agent → Bool) : Bool :=
  let held := fun (a : Agent) => (match launchOf s (agentR a) with | some (_, x) => heldSaves x a | none => false)
  (getR s q).unitQ.all (fun x => !(mine x.2 && unitStands s x.2 && !held x.2)) &&
    (match (getR s q).kvPass with | some a => !(mine a && unitStands s a && !held a) | none => true)

/-- An element may save: its markers have come, every access it has issued has performed, but for deferred reads and armed
WAITNEs, and it owes no completion token but those of bound ports (R110, R263). -/
def elemReadyToSave (s : State) (r e : Nat) : Bool :=
  let el := getE s r e
  let ns := el.ctxs.map (·.2)
  let me := fun (a : Agent) => (match a with | .elem q e' _ k => q == r && e' == e && decide (k < 32) | .helm _ => false)
  marksDue s r e ns && ns.all (fun n => n.flight.isNone && n.owed == ((List.range 4).filter (fun k => (nodePort n k).debt.isSome)).length) &&
    s.arms.all (fun a => !me a.who || ((a.kind == .waitNe || a.kind == .read) && a.released.isNone)) &&
    (graphOf s r).all (fun q => unitsDone s q me)

/-- A held request of a helm core waits for a place at a node, behind accesses that may wait for writes beyond the cut (R121,
R138). -/
def awaitsPlace (s : State) (r : Nat) (o : Outstanding) : Bool :=
  let k := fieldO o.word
  if k = 0xA0 || k = 0xA2 then
    (getR s r).bankHeld.all (fun b => b.1 != .helm r) && o.words.any (fun w => !placeFree s ((fieldY o.word).toNat / 2) r w.2)
  else if k = 0xAD || k = 0xA6 then o.words.any (fun w => match xlate s (partOf s r) w.2 0 with
    | .ok (pa, _) => !placeFree s 3 r pa
    | .error _ => false)
  else false

/-- A held request of a helm core stores to memory whose share holds more than it may, and so waits for the cut itself (R409). -/
def awaitsCommit (s : State) (x : Launch) (o : Outstanding) : Bool :=
  reqClass o.word == 0 && fieldO o.word != 0xAD && fieldO o.word != 0xA6 && (List.range 8).any (fun k => decide (shareLines s < winLines x k))

/-- What a helm core's engine and banks hold lets it save: nothing, or requests behind one that a translation fault, an engine's
full node or the cut itself keeps back. Those are recorded with the deferred accesses (R263, R378, R409). -/
def reqsMaySave (s : State) (r : Nat) : Bool :=
  let reqs := fun (buf : Bool) => (getH s r).outstanding.find? (fun o => o.queued && (reqClass o.word == 1) == buf)
  (match reqs true with | none => true | some o => awaitsPlace s r o) &&
    (match reqs false with
      | none => true
      | some o => awaitsPlace s r o || (match launchOf s r with
        | some (_, x) => heldSaves x (.helm r) || (!engineStopped x (.helm r) && awaitsCommit s x o)
        | none => false))

/-- A helm core may save: its markers have come; no access that it has issued has still to perform but those that may wait for
what lies beyond the cut; no gather for a port waits to be fired, none of its ports' engines is within a token, and its cutter
and KV unit have finished what stands at them (R110, R263, R303, R307, R358). -/
def helmReadyToSave (s : State) (r : Nat) : Bool :=
  marksDue s r 256 [(getH s r).node] && reqsMaySave s r &&
    s.arms.all (fun a => !(a.who == .helm r && a.kind == .read && a.released.isSome)) &&
    (match launchOf s r with | some (_, x) => (List.range 4).all (fun k => !midToken s x ⟨r, 256, 0, k⟩) | none => true) &&
    unitsDone s r (fun _ => true) && (getR s r).kvUndo.isNone

/-- ELEMENT_SAVE: an element saves all its contexts, and its markers leave (R110, R111, R263). -/
def execElementSave (r e : Nat) (s : State) : Host.Outcome State Fault Refusal :=
  match cutOf s r with
  | none => .next s
  | some (l, c) =>
    let el := getE s r e
    if 256 ≤ e || !regionCuts s r || el.ctxs.isEmpty || el.saved.isSome || !elemReadyToSave s r e then .next s
    else
      let s := withdrawElem s r e
      let s := setE s r e { el with ctxs := aMap (fun _ n => { n with held := none }) el.ctxs }
      let img := { el with ctxs := aMap (fun _ n => nodeImage n) el.ctxs, saved := none }
      let s := putImage s l r (fun g => { g with elems := aSet g.elems e img })
      let passed := markerIn (el.ctxs.map (·.2))
      let s := (aKeys el.ctxs).foldl (fun s k => openPairs (sendMarkers s r e k c.kind c.seq passed) r e k) s
      .next (serveReqs (setE s r e { getE s r e with saved := some c.seq }))

/-- A region's image at its helm save: all but its elements, and the matrix node where that has saved by itself. -/
def helmImage (g img : Region) (seq : Nat) : Region :=
  let h := { g.helm with node := nodeImage g.helm.node, saved := none, delivered := [] }
  let m := if g.mmSaved = some seq then img else g
  { g with elems := img.elems, helm := h, acc := m.acc, sticky := m.sticky, mmaCount := m.mmaCount, mmq := m.mmq, mmAt := 0, mmDrain := m.mmDrain, mmOut := m.mmOut,
           mmSaved := none, stopReq := [], bankHeld := [], bankBad := [], bankNow := [], unitQ := [], kvUndo := none, kvPass := none, journal := [] }

/-- HELM_SAVE: a helm core saves at an instruction boundary (R110, R263, R284, R323, R359). Its deferred loads and atomics
are recorded; after an EBB save they stand at their nodes no more, and no more do those of its copies. -/
def execHelmSave (r : Nat) (s : State) : Host.Outcome State Fault Refusal :=
  match cutOf s r with
  | none => .next s
  | some (l, c) =>
    let h := getH s r
    if !regionCuts s r || h.saved.isSome || !helmReadyToSave s r then .next s
    else
      let mine := s.arms.filter (fun a => a.who == .helm r)
      let keep := mine.filter (fun a => a.kind == .read || a.kind == .atomic)
      let s := putImage s l r (fun img => helmImage (getR s r) img c.seq)
      let s := match getL s l with
        | some x => setL s l { x with cut := x.cut.map (fun c => { c with arms := c.arms ++ keep }) }
        | none => s
      let gone := fun (a : Agent) => (match a with | .helm q => q == r | .elem q e _ k => q == r && e == 256 && decide (64 ≤ k))
      let s := if c.kind = 2 then { s with arms := s.arms.filter (fun a => !gone a.who) } else s
      let s := openPairs (sendMarkers s r 256 0 c.kind c.seq none) r 256 0
      .next (serveReqs (setH s r { getH s r with saved := some c.seq }))

/-- Some destination of the graph names a region's matrix command input. -/
def matrixFed (s : State) (r : Nat) : Bool :=
  !(outputsTo s r (fun q d => d.getLsbD 44 && destRegion s q d == r && Bits.nat d 55 47 == 0x101)).isEmpty

/-- MATRIX_MARKER_SAVE: a marker at the head of the command queue, every earlier drain performed: the accumulators and the
commands behind it are saved, and the marker leaves on the response output (R297). A marker of another producer of the same
cut is discarded. -/
def execMatrixMarkerSave (r : Nat) (s : State) : Host.Outcome State Fault Refusal :=
  let g := getR s r
  match cutOf s r, g.mmq with
  | some (l, c), t :: q =>
    if !isCutMarker t || g.mmDrain.isSome || !regionCuts s r then .next s
    else if g.mmSaved = some c.seq then .next (setR s r { g with mmq := q })
    else
      let s := putImage s l r (fun img => { img with acc := g.acc, sticky := g.sticky, mmaCount := g.mmaCount, mmq := q, mmDrain := none, mmOut := g.mmOut })
      let ls : List Link := if g.mmResp.getLsbD 44 then [{ src := ⟨r, 257, 0, 0⟩, dst := destAt s r g.mmResp, tok := t }] else []
      .next { setR s r { getR s r with mmq := q, mmSaved := some c.seq } with links := s.links ++ ls }
  | _, _ => .next s

/-! ## Completion (R112, R114, R133, R361) -/

/-- No marker of a graph is on its way, queued, or held at an adder, no bound source has still to inject one, and no
back-edge channel waits for one. -/
def markersHome (s : State) (x : Launch) : Bool :=
  let node := fun (n : Node) => (List.range 4).all (fun k =>
    let p := nodePort n k
    p.post.isNone && !p.queue.any (fun o => isCutMarker o.tok) && !(nodePair n k).catching)
  s.links.all (fun l => !(isCutMarker l.tok && x.place.contains l.dst.r)) && !x.partials.any (fun p => isCutMarker p.2.2.2.2) &&
    x.place.all (fun r => let g := getR s r
      !g.mmq.any isCutMarker && node g.helm.node && g.elems.all (fun e => e.2.ctxs.all (fun c => node c.2)))

/-- Every element, helm core and fed matrix node of a graph has saved. -/
def allSaved (s : State) (x : Launch) (seq : Nat) : Bool :=
  x.place.all (fun r => let g := getR s r
    g.helm.saved == some seq && g.elems.all (fun e => e.2.ctxs.isEmpty || e.2.saved == some seq) && (!matrixFed s r || g.mmSaved == some seq))

/-- The window closes: its lines wait, stack by stack, to be applied. -/
def commitWindow (s : State) (l : Nat) : State :=
  match getL s l with
  | none => s
  | some x =>
    let stack := fun (k : Nat) => (k, x.win.filter (fun c => c.1 / 2 ^ 37 == k), x.fills.filter (fun w => w / 2 ^ 37 == k), s.cutOrder)
    let cs := ((List.range 8).map stack).filter (fun c => !c.2.1.isEmpty || !c.2.2.1.isEmpty)
    setL { s with cutOrder := s.cutOrder + 1 } l { x with commits := x.commits ++ cs, window := x.window + 1, win := [], fills := [] }

/-- A region after a completed cut: journal and counts begin again. -/
def afterCut (g : Region) : Region :=
  let g := mapNodes (fun _ _ n => mapPorts (fun _ p => { p with count := 0, own := 0 }) n) (unsaved g)
  { g with journal := [], bkCount := Vector.replicate 4 0, hangs := 0 }

/-- A launch goes to the head of its queue. -/
def requeueFront (s : State) (l : Nat) : State :=
  match getL s l with
  | none => s
  | some x =>
    let s := { s with launches := aMap (fun _ y => if y.part == x.part && y.prio == x.prio && y.qsel == x.qsel then { y with order := y.order + 1 } else y) s.launches }
    setL { s with order := s.order + 1 } l { x with order := 0 }

/-- Clears PREC in the regions of a graph. -/
def clearPrec (s : State) (x : Launch) : State := match x.place with | r :: _ => obsPrec s r false | [] => s

/-- Every helm core that has not halted stands parked at MIGR (R117). -/
def allParked (s : State) (x : Launch) : Bool := x.place.all (fun r => let h := getH s r; h.parked || h.halted || !h.running)

/-- What is due once no cut is in flight: an EBB that was asked for, else the closing SNAP (R108, R117). -/
def postNext (s : State) (l : Nat) : State :=
  match getL s l with
  | none => s
  | some x =>
    if !launchMoves x || x.cut.isSome || x.ending then s
    else if x.wantEbb && (!rcPersist x.record || (x.migPosted.isSome && allParked s x)) then postCut s l 2 false false
    else if allHalted s x then postCut s l 1 true false
    else s

/-- The last complete cut of a launch names a slot, which the next one does not overwrite (R114). -/
def nextSlot (x : Launch) : Nat := match x.snap with | some c => if c.kind = 0 then 0 else 1 - c.slot | none => 0

/-- A SNAP has completed: the first one of a re-run ends the re-run (R371, R372). -/
def snapDone (s : State) (l : Nat) (closing : Bool) : State :=
  match getL s l with
  | none => s
  | some x =>
    let s := x.place.foldl (fun s r => setR s r (afterCut (getR s r))) s
    let x := { x with rollbacks := 0, aborts := 0, overflow := false, lowered := false, wantSnap := false, ending := closing, abandon := false }
    if x.phase == .rerun then
      let s := clearPrec (setL s l { x with phase := .running, fault := none, recurred := false }) x
      let s := if x.recurred then s else launchRec s l 8 0 { cause := 0x08, arg := x.fault.getD 0, tval := 0, hdr := 0 }
      postNext s l
    else postNext (setL s l x) l

/-- An EBB has completed: counter pages, the regions freed, the launch at the head of its queue (R112, R116, R206). -/
def ebbDone (s : State) (l : Nat) : State :=
  match getL s l with
  | none => s
  | some x =>
    let s := x.place.foldl (fun s r => intervalEnd (setR s r (afterCut (getR s r))) r 1) s
    let s := freeRegions s l
    let s := setL s l { x with phase := .preempted, rollbacks := 0, aborts := 0, overflow := false, wantSnap := false, wantEbb := false,
                               migPosted := none, engines := [], partials := [], chains := [], thermal := false, quietSince := none, abandon := false, forHead := none }
    preemptOver (requeueFront s l) l x.part

/-- CUT_COMPLETE: the images are whole, the header names their slot, and the window commits. A fault that has recurred in a
re-run is recorded first (R371). -/
def execCutComplete (l : Nat) (s : State) : Host.Outcome State Fault Refusal :=
  match getL s l with
  | none => .next s
  | some x => match x.cut with
    | none => .next s
    | some c =>
      if !launchMoves x || (x.phase == .rerun && !x.hits.isEmpty) || !allSaved s x c.seq || !markersHome s x then .next s
      else
        let img := if c.kind = 2 then aMap (fun r g => { g with bufs := (getR s r).bufs }) c.image else c.image
        let snap : Snap := { kind := c.kind, seq := c.seq, window := x.window, slot := nextSlot x, rerun := c.kind == 2 && x.phase == .rerun, image := img, arms := c.arms }
        let s := writeCut s x snap
        let s := retryArms (commitWindow (setL s l { x with cut := none, snap := some snap }) l)
        .next (if c.kind = 2 then ebbDone s l else snapDone s l c.closing)

/-- A window's part on one stack is applied in one step: bytes, presence, CLEN, whole lines' poison, the waits that it meets, and
the CONS words it moves (R133, R138, R139, R143, R180, R410). -/
def applyPart (s : State) (win : Mem) (fills : List Nat) : State :=
  let lines := (win.map (fun c => c.1 / 64)).eraseDups
  let s0 := s
  let m := ovApply s.hbm win
  let secs := ((win.filter (fun c => inComp s c.1)).map (fun c => c.1 / 4096)).eraseDups
  let whole := lines.filter (fun k => (List.range 64).all (fun i => (ovRead win (64 * k + i)).isSome))
  let s := { s with hbm := m, full := fills.foldl setAdd s.full, poison := s.poison.filter (fun k => !whole.contains k),
                    clen := secs.foldl (fun cl a => aSet cl a (sectorCode m (4096 * a))) s.clen }
  let words : List Nat := (win.map (fun (c : Host.Cell) => c.1 / 4 * 4) ++ fills).eraseDups
  let s := words.foldl (fun s w => notify (nudge s w 4) 3 0 w 4) s
  serveWaits (consWatch s0 s 0 (2 ^ 64))

/-- WINDOW_APPLY: a base die applies a committed window; windows are applied at one die in the order their cuts complete. -/
def execWindowApply (stack : BitVec 3) (l : Nat) (s : State) : Host.Outcome State Fault Refusal :=
  match getL s l with
  | none => .next s
  | some x => match x.commits.find? (fun c => c.1 == stack.toNat) with
    | none => .next s
    | some c =>
      if s.launches.any (fun y => y.2.commits.any (fun d => d.1 == stack.toNat && d.2.2.2 < c.2.2.2)) then .next s
      else .next (applyPart (setL s l { x with commits := x.commits.erase c }) c.2.1 c.2.2.1)

/-! ## The end (R94) -/

/-- LAUNCH_END: every base die has applied the final window: the signal fence is raised, its log entry written, the counter
pages written, and the launch completes with VALUE = SIGVAL. -/
def execLaunchEnd (l : Nat) (s : State) : Host.Outcome State Fault Refusal :=
  match getL s l with
  | none => .next s
  | some x =>
    if !x.ending || !x.commits.isEmpty || !(x.phase == .running) then .next s
    else
      let va := rcSigaddr x.record
      let s := match xlate s x.part (va % 2 ^ 57) 3 with
        | .ok (pa, leaf) => if va = 0 then s else fenceRaise s x.part va pa leaf (rcSigval x.record) x.ltag
        | .error _ => s
      .next (launchOver s l 0 (rcSigval x.record))

/-! ## A save that meets an error (R379) -/

/-- No marker of a graph stands anywhere any more, and nothing is held for one. -/
def dropMarkers (s : State) (x : Launch) : State :=
  let node := fun (_ _ : Nat) (n : Node) =>
    mapPorts (fun _ p => { p with post := none, cutHold := false, queue := p.queue.filter (fun o => !isCutMarker o.tok) })
      (mapPairs (fun p => { p with marker := none, marked := [], catching := false }) n)
  let s := { s with links := s.links.filter (fun l => !(isCutMarker l.tok && x.place.contains l.dst.r)) }
  x.place.foldl (fun s r =>
    let ns := nodesOf (getR s r)
    let s := ns.foldl (fun s n => [0, 1, 2, 3].foldl (fun s ch =>
      let b := (nodePair (getN s r n.1 n.2.1) ch).behind
      if b.isEmpty then s
      else b.foldl (fun s q => enterPair s r n.1 n.2.1 ch q) (withPair s r n.1 n.2.1 ch (fun p => { p with behind := [] }))) s) s
    let g := mapNodes node (unsaved (getR s r))
    setR s r { g with mmq := g.mmq.filter (fun t => !isCutMarker t) }) s

/-- A migration request is withdrawn (R117). -/
def unpostMigration (s : State) (l : Nat) : State :=
  match getL s l with
  | none => s
  | some x =>
    let s := x.place.foldl (fun s r => setH s r { getH s r with migPosted := false, parked := false }) s
    setL s l { x with migPosted := none }

/-- Puts deferred accesses back at their nodes, where words that are full already answer them. -/
def rearm (s : State) (l : List Arm) : State :=
  l.foldl (fun s a =>
    let s := { s with arms := s.arms ++ [a] }
    ((a.need.map (·.2)) ++ [a.addr / 4 * 4]).foldl (fun s w => notify s a.space (agentR a.who) w 4) s) s

/-- The EBB of a launch is given up: the waiting launch for which it was asked picks it no more (R113, R117, R379). -/
def declineCut (x : Launch) : Launch :=
  { x with wantEbb := false, declined := x.declined ++ x.forHead.toList, forHead := none, again := none, thermal := false, abandon := false }

/-- SAVE_ABORT: an error while a cut writes its slot: a SNAP is dropped, an EBB given up; a second abort in a row ends the
graph. -/
def execSaveAbort (l : Nat) (pa : BitVec 40) (s : State) : Host.Outcome State Fault Refusal :=
  match getL s l with
  | none => .next s
  | some x => match x.cut with
    | none => .next s
    | some c =>
      let again := 1 ≤ x.aborts
      let s := launchRec s l 8 (if again then 2 else 1) { cause := 0x0B, arg := if again then 1 else 0, tval := pa.setWidth 64, hdr := 0 }
      if again then .next (graphFatal s (x.place.headD 0) 0x0B)
      else
        let s := serveReqs (dropMarkers s x)
        let s := if c.kind = 2 then rearm s c.arms else s
        let s := x.place.foldl (fun s r => setR s r (mapNodes (fun _ _ n => mapPorts (fun _ p => { p with count := 0, own := 0 }) n) (getR s r))) s
        let y := { (getL s l).getD x with cut := none, aborts := x.aborts + 1, wantSnap := false, abandon := false,
                                          partials := x.partials.filter (fun p => !isCutMarker p.2.2.2.2) }
        if c.kind = 2 then
          .next (preemptOver (unpostMigration (setL s l (declineCut y)) l) l x.part)
        else .next (postNext (setL s l y) l)

/-! ## Pre-emption and migration (R113, R117, R378) -/

/-- The first dispatchable head of a partition that finds no placement. -/
def stuckHead (s : State) (part : Nat) : Option (Nat × Launch) :=
  (headsAll s).find? (fun e => e.2.part == part && (findPlace s e.2).isNone)

/-- A placed launch that a cut can take away: it runs or is rolling back, and is not ending. -/
def cuttable (x : Launch) : Bool :=
  (launchMoves x || x.phase == .rolling) && !x.ending && !x.wantEbb && !(match x.cut with | some c => c.closing | none => false)

/-- The victim of R113 for a waiting launch: of lower priority, the lowest first, and of those the one started last; none whose
cut has been given up for that launch (R117, R379). -/
def victimOf (s : State) (part head prio : Nat) : Option (Nat × Launch) :=
  (s.launches.filter (fun e => e.2.part == part && e.2.prio < prio && cuttable e.2 && !e.2.declined.contains head)).foldl (fun acc e => match acc with
    | none => some e
    | some y => if e.2.prio < y.2.prio || (e.2.prio == y.2.prio && y.2.started < e.2.started) then some e else some y) none

/-- An EBB of a launch is asked for, for a waiting launch. -/
def wantCut (s : State) (l part head : Nat) : State :=
  match getL s l with
  | some x => postNext (setP (setL s l { x with wantEbb := true, forHead := some head }) part { getP s part with preempting := some l }) l
  | none => s

/-- PREEMPT: a dispatchable head that finds no placement takes the regions of a launch of lower priority. -/
def execPreempt (part : BitVec 5) (s : State) : Host.Outcome State Fault Refusal :=
  let p := part.toNat
  if (getP s p).preempting.isSome then .next s
  else match stuckHead s p with
    | none => .next s
    | some (k, x) => match victimOf s p k x.prio with
      | some v => .next (wantCut s v.1 p k)
      | none => .next s

/-- QUIESCENT_PREEMPT: a graph that has stood quiescent behind a translation fault for 100 µs gives way to a dispatchable
head of any priority. -/
def execQuiescentPreempt (l : Nat) (s : State) : Host.Outcome State Fault Refusal :=
  match getL s l with
  | none => .next s
  | some x => match x.quietSince with
    | none => .next s
    | some t =>
      if s.now < t + 100000 || !launchMoves x || x.cut.isSome || x.engines.isEmpty || !cuttable x || (getP s x.part).preempting.isSome then .next s
      else match stuckHead s x.part with
        | some (k, _) => if x.declined.contains k then .next s else .next (wantCut (setL s l { x with abandon := true }) l x.part k)
        | none => .next s

/-- MIGRATION_REQUEST: a persistent graph that is to be cut is asked to park (R117). -/
def execMigrationRequest (l : Nat) (s : State) : Host.Outcome State Fault Refusal :=
  match getL s l with
  | none => .next s
  | some x =>
    if !rcPersist x.record || !x.wantEbb || x.migPosted.isSome || !launchMoves x then .next s
    else
      let s := x.place.foldl (fun s r => setH s r { getH s r with migPosted := true }) s
      .next (setL s l { x with migPosted := some s.now })

/-- MIGRATION_CUT: every helm core has parked, and the EBB is injected. -/
def execMigrationCut (l : Nat) (s : State) : Host.Outcome State Fault Refusal :=
  match getL s l with
  | none => .next s
  | some x => if x.migPosted.isSome && x.wantEbb && launchMoves x && x.cut.isNone && allParked s x then .next (postCut s l 2 false false) else .next s

/-- MIGRATION_TIMEOUT: some helm core has not parked 1 ms after the request, which is withdrawn. -/
def execMigrationTimeout (l : Nat) (s : State) : Host.Outcome State Fault Refusal :=
  match getL s l with
  | none => .next s
  | some x => match x.migPosted with
    | none => .next s
    | some t =>
      let cutting := match x.cut with | some c => c.kind == 2 | none => false
      if s.now < t + 1000000 || allParked s x || cutting then .next s
      else
        let s := preemptOver (unpostMigration s l) l x.part
        .next (match getL s l with
          | some y => setL s l { declineCut y with repost := if x.thermal then some (s.now + 10000000) else y.repost }
          | none => s)

/-! ## An image over a configuration (R62, R116, R370) -/

/-- A pair's configuration with an image's contents; the state that the load left, the whole of it. -/
def mergePair (cur img : Pair) (load : Bool) : Pair :=
  let cur := if load then img else cur
  { img with ctxset := cur.ctxset, fmtmask := cur.fmtmask, tstep := cur.tstep, gl := cur.gl, sink := cur.sink, conv := cur.conv, back := cur.back,
             fed := cur.fed, rtf := cur.rtf, queue := img.queue.map (fun q => { q with caught := false }) }

/-- A port's configuration with an image's contents. -/
def mergePort (cur img : Port) (load : Bool) : Port :=
  let cur := if load then img else cur
  { img with role := cur.role, tstep := cur.tstep, compact := cur.compact, dests := cur.dests, count := 0, own := 0 }

/-- A context's configuration with an image's contents. -/
def mergeNode (cur img : Node) (load : Bool) : Node :=
  let base := if load then img else cur
  let n := { base with regs := img.regs, rr := img.rr, flight := none, held := none, late := none, classes := img.classes, owed := img.owed }
  [0, 1, 2, 3].foldl (fun n k => setPort (setPair n k (mergePair (nodePair cur k) (nodePair img k) load)) k (mergePort (nodePort cur k) (nodePort img k) load)) n

/-- An element's configuration and counters with an image's contents. -/
def mergeElem (cur img : Elem) (load : Bool) : Elem :=
  { cur with ctxs := if load then aMap (fun c n => mergeNode (aGet Node.reset cur.ctxs c) n true) img.ctxs
                     else aMap (fun c n => mergeNode n (aGet Node.reset img.ctxs c) false) cur.ctxs,
             trig := if load then img.trig else cur.trig, saved := none, fired := false }

/-- A helm core's text, place and counters with an image's contents. -/
def mergeHelm (cur img : Helm) (roll load : Bool) : Helm :=
  { img with node := mergeNode cur.node img.node load, text := cur.text, textEnd := cur.textEnd, trig := cur.trig, lid := cur.lid, lids := cur.lids,
             counters := cur.counters, cycle := cur.cycle, saved := none, delivered := [], wait := .none, waitSince := 0, sendAbort := none,
             running := cur.running, parked := !roll && img.parked, migPosted := roll && cur.migPosted }

/-- A region's configuration, counters and ring with an image's contents; the precise order and the wheel begin again (log 102). A rollback leaves the bank gates and the clock
as they are; one to the state that the load left brings the configuration back with it (R370). -/
def mergeRegion (cur img : Region) (roll load : Bool) : Region :=
  let elem := fun e el => mergeElem el (aGet Elem.reset img.elems e) load
  let els := if load then img.elems.foldl (fun m k => aSet m k.1 (aGet Elem.reset m k.1)) cur.elems else cur.elems
  let conf := if load then img else cur
  { cur with
    elems := aMap elem els, helm := mergeHelm cur.helm img.helm roll load,
    wheel := img.wheel, nextWheel := none, clock := if roll then cur.clock else img.clock, mxmode := img.mxmode, mx := img.mx,
    rwoff := conf.rwoff, kvlim := conf.kvlim, scratch := conf.scratch, cfgFrom := conf.cfgFrom,
    acc := img.acc, sticky := img.sticky, mmaCount := img.mmaCount, mmq := img.mmq, mmAt := 0, mmDrain := none, mmSaved := none, mmOut := img.mmOut,
    ha := img.ha, hb := img.hb, haValid := img.haValid, hbValid := img.hbValid, cont := img.cont, bounds := img.bounds,
    bgate := if roll then cur.bgate else img.bgate, bankHeld := [], bankBad := [], bankNow := [], unitQ := [], kvUndo := none, kvPass := none, lastElem := 255, ctxCounter := 0, obsctl := img.obsctl, obsbk := img.obsbk,
    bkCount := Vector.replicate 4 0, grace := 0, stopReq := [], moved := false, helmNow := false, faultNow := false, firedNow := false, ordNow := 0,
    mmNow := (0, 0), mmBlocked := false, still := 0, hung := false, journal := [],
    bufs := if roll then cur.bufs else img.bufs }

/-- Tokens away at a conversion node when they were saved: what that node holds of the channel that converts, and what it
has sent back and is not yet there, is dropped, and the tokens are sent again (R81). -/
def resendAway (s : State) (r : Nat) : State :=
  let inputs := (nodesOf (getR s r)).flatMap (fun x => (List.range 4).map (fun ch => (x.1, x.2.1, ch)))
  inputs.foldl (fun s i =>
    let p := nodePair (getN s r i.1 i.2.1) i.2.2
    match p.conv with
    | none => s
    | some (ce, cc) =>
      let back := fun (d : W64) => destAt s r d == ⟨r, i.1, 0, i.2.2⟩
      let clean := fun (_ : Nat) (n : Node) =>
        mapPorts (fun _ q => { q with queue := (q.queue.map (fun o => { o with copies := o.copies.filter (fun c => !back c.1) })).filter (fun o => !o.copies.isEmpty) })
          (setPair n cc { nodePair n cc with queue := [] })
      let s := setE s r ce { getE s r ce with ctxs := aMap clean (getE s r ce).ctxs }
      let away := (p.queue.filter (·.away)).map (fun q => ({ src := ⟨r, i.1, i.2.1, i.2.2⟩, dst := ⟨r, ce, 0, cc⟩, tok := q.tok } : Link))
      { s with links := s.links ++ away }) s

/-- What a source still has pending of a demand it need not be sent again, and a port whose binding has ended is sent nothing
(R62, R362). -/
def notAsked (s : State) (a : At) (v : Ival) : List Ival :=
  let p := nodePort (getN s a.r a.e a.c) a.n
  if p.ended then [] else if isSource s a.r a.e a.c a.n then ivReduce p.pending [v] else [v]

/-- Each input of a region forwards its pending set again (R62). -/
def forwardAgain (s : State) (r : Nat) : State :=
  let ls := (nodesOf (getR s r)).flatMap (fun x => (List.range 4).flatMap (fun ch =>
    let p := nodePair x.2.2 ch
    if p.pending.isEmpty then []
    else (feeders s r x.1 ch).flatMap (fun f => (p.pending.flatMap (notAsked s f.1)).map (fun v =>
      ({ src := ⟨r, x.1, x.2.1, ch⟩, dst := f.1, slot := f.2,
         dem := { lo := v.lo, hi := v.hi, step := v.step, ctx := v.ctx, inp := ch, ext := false } } : DLink)))))
  { s with dlinks := s.dlinks ++ ls }

/-- The REQUESTs on a launch's sinks count again what has arrived (R64). -/
def recountReqs (s : State) (l : Nat) : State :=
  { s with reqs := s.reqs.map (fun q =>
      if q.launch = l then { q with left := ivReduce (nodePair (getN s q.sink.r q.sink.e q.sink.c) q.sink.n).served [q.iv] } else q) }

/-- The REQUESTs still open on a launch ask their sinks again (R64). -/
def askAgain (s : State) (l : Nat) : State :=
  (s.reqs.filter (fun q => q.launch == l && !q.left.isEmpty)).foldl (fun s q => enterInput s q.sink.r q.sink.e q.sink.c q.sink.n q.iv false) s

/-- What every restored graph does before it goes on. -/
def resume (s : State) (l : Nat) (place : List Nat) (arms : List Arm) : State :=
  let s := place.foldl resendAway s
  let s := place.foldl forwardAgain s
  let s := place.foldl postAsked s
  askAgain (recountReqs (rearm s arms) l) l

/-! ## LAUNCH_RESTORE (R116, R434) -/

/-- The demand that each output of a graph has been asked for, as its consumers' sets have it: an image holds no more. -/
def rebuildDemand (s : State) (r : Nat) : State :=
  (nodesOf (getR s r)).foldl (fun s x => (List.range 4).foldl (fun s ch =>
    let p := nodePair x.2.2 ch
    let vs := p.served ++ p.pending
    if vs.isEmpty then s
    else (feeders s r x.1 ch).foldl (fun s f =>
      let n := getN s f.1.r f.1.e f.1.c
      let q := nodePort n f.1.n
      let set := (List.range (max q.dset.length (f.2 + 1))).map (fun i => let d := q.dset.getD i []; if i = f.2 then vs.foldl ivAdd d else d)
      setN s f.1.r f.1.e f.1.c (setPort n f.1.n { q with dset := set })) s) s) s

/-- Space of a memory instruction's word: 3 for the global ones. -/
def wordSpace (w : W32) : Nat := if fieldO w == 0xAD || fieldO w == 0xA6 then 3 else (fieldY w).toNat / 2

/-- A withdrawn access is an atomic. -/
def isAtomic (w : W32) : Bool := fieldO w == 0xA9 || fieldO w == 0xAA || fieldO w == 0xAB

/-- The words of a withdrawn access, by number and address: those of a gather by the registers that the image holds
(R263; log 28). -/
def withdrawnWords (n : Node) (o : Outstanding) : List (Nat × Nat) :=
  let w := o.word
  let lanes := fun (c : Nat) => ((List.range 16).filter (maskBit (srcMask n c))).map (fun k => (k, ((srcLanes n c).get k).toNat))
  if fieldO w = 0xA6 then (lanes (fieldA w).toNat).map (fun i => (i.1, spbAddr (srcLanes n (fieldB w).toNat) i.2))
  else if fieldO w = 0xA2 then laneAddrs n o.addr.toNat (fieldB w).toNat
  else numbered o.addr.toNat (if isAtomic w then atomWidth w else widthOf o.dst)

/-- The withdrawn accesses that an image's helm block records are issued again: loads and atomics of the typed buffers stand at
their nodes, and the core's engine holds the others, stores with the bytes that the image's registers have (R263; log 28). -/
def reissue (s : State) (r : Nat) : State × List Arm :=
  let h := getH s r
  let arm := fun (o : Outstanding) => ({ who := .helm r, kind := if isAtomic o.word then .atomic else .read, space := wordSpace o.word, sys := false,
                                         addr := o.addr.toNat, operand := 0, word := o.word, dval := o.dval, bval := o.bval,
                                         need := withdrawnWords h.node o, more := [], got := [], released := none } : Arm)
  let load := fun (o : Outstanding) => reqClass o.word == 1 && (fieldO o.word).toNat ≤ 0xAB && (fieldO o.word != 0xA1) && (fieldO o.word != 0xA3)
  let outs := h.outstanding.map (fun o => if load o then o
    else { o with queued := true, words := withdrawnWords h.node o, data := regBytes h.node (fieldD o.word).toNat })
  (setH s r { h with outstanding := outs }, (h.outstanding.filter load).map arm)

/-- A launch whose images lie in memory only: its regions as those bytes have them, and the last cut they stand for. -/
def restoreBytes (s : State) (l : Nat) : State :=
  match getL s l with
  | none => s
  | some x =>
    let va := saveAddr x.record
    let h := (virtBytes s x.part none va 64).getD []
    let slot := at_ h 1 1 / 2 % 2
    let secs := x.place.zip (List.range x.place.length)
    let s := secs.foldl (fun s p => setR s p.1 (readImage s x.part (va + imageOff x.nsec slot p.2) (rcPersist x.record) (getR s p.1))) s
    let s := if saveMin x.nsec + 65536 * x.nsec ≤ saveSize x.record then
        secs.foldl (fun s p => setR s p.1 (readCounters (areaRead s x.part (va + saveMin x.nsec + 65536 * p.2)) 0 (getR s p.1))) s
      else s
    let s := x.place.foldl rebuildDemand s
    let (s, arms) := x.place.foldl (fun (acc : State × List Arm) r => let y := reissue acc.1 r; (y.1, acc.2 ++ y.2)) (s, [])
    let c : Snap := { kind := 2, seq := at_ h 8 8, window := at_ h 24 8, slot := slot, rerun := at_ h 1 1 / 4 % 2 == 1, image := imagesNow s x.place, arms := arms }
    setL s l { x with snap := some c, cutSeq := at_ h 8 8, window := at_ h 24 8 + 1 }

/-- The new region of an old one, by section. -/
def moved (old new : List Nat) (r : Nat) : Nat := match old.findIdx? (· == r) with | some k => new.getD k r | none => r

/-- An armed access of a helm core on its new region. -/
def moveArm (old new : List Nat) (a : Arm) : Arm := match a.who with | .helm r => { a with who := .helm (moved old new r) } | .elem .. => a

/-- The last cut of a launch on its new regions. -/
def moveSnap (old new : List Nat) (c : Snap) : Snap :=
  { c with image := c.image.foldl (fun m g => aSet m (moved old new g.1) g.2) [], arms := c.arms.map (moveArm old new) }

/-- A restored graph goes on: in precise mode where its re-run is pending (R374); one whose chain crosses a port that is down takes
CHAINDOWN (R439). -/
def goOn (s : State) (l : Nat) : State :=
  match getL s l with
  | none => s
  | some x =>
    let c := x.snap
    let s := resume s l x.place (match c with | some c => c.arms | none => [])
    let rerun := match c with | some c => c.rerun | none => false
    match getL s l with
    | none => s
    | some x =>
      let s := setL s l { x with phase := if rerun then .rerun else .running, cut := none, engines := [], partials := [], hits := [], declined := [], forHead := none, chainSince := [] }
      match x.place with
      | r :: _ => chainsDown (shareAll (if rerun then obsPrec s r true else s)) l
      | [] => s

/-- The first poisoned line under a virtual run. -/
def runPoison (s : State) (part va n : Nat) : Option Nat :=
  (runPages va (n / 65536 + 2) 0 n).findSome? (fun x => match xlate s part ((va + x.1) % 2 ^ 57) 3 with
    | .error _ => none
    | .ok (pa, _) => ((List.range ((x.2 + 63) / 64)).find? (fun k => poisoned s (pa / 64 + k))).map (fun k => pa / 64 * 64 + 64 * k))

/-- The first poisoned line of the images of a slot of a save area (R379). -/
def slotPoison (s : State) (x : Launch) (slot : Nat) : Option Nat :=
  (List.range x.nsec).findSome? (fun k => runPoison s x.part (saveAddr x.record + imageOff x.nsec slot k) imageLen)

/-- The slot that the header of a save area names (R114, R445). -/
def restoreSlot (s : State) (x : Launch) : Nat := at_ ((virtBytes s x.part none (saveAddr x.record) 2).getD []) 1 1 / 2 % 2

/-- Nothing queued counts as caught any more (R116). -/
def uncaught (g : Region) : Region :=
  mapNodes (fun _ _ n => mapPairs (fun p => { p with queue := p.queue.map (fun q => { q with caught := false }) }) n) g

/-- A region from its section's image in the slot that the header names, over its configuration: where the bytes are those
that the cut wrote they stand for the region kept beside them, and any others are read (R116, R370; log 40). -/
def fromSlot (s : State) (x : Launch) (c : Snap) (r k : Nat) (cur : Region) (roll : Bool) : Region :=
  let img := aGet Region.reset c.image r
  let base := mergeRegion cur img roll (c.kind == 0)
  let va := saveAddr x.record + imageOff x.nsec (restoreSlot s x) k
  if c.kind = 0 || imageHolds s x.part va c.kind c.seq c.window img then base
  else
    let g := uncaught (if roll then readState s x.part va (rcPersist x.record) base else readImage s x.part va (rcPersist x.record) base)
    if roll then { g with clock := base.clock, bgate := base.bgate } else g

/-- LAUNCH_RESTORE: a pre-empted launch that heads its queue and finds a placement restores from its complete slot; a slot that
cannot be read ends it (R379). -/
def execLaunchRestore (l : Nat) (s : State) : Host.Outcome State Fault Refusal :=
  match pickLaunch s with
  | none => .next s
  | some (k, x, o, i, es) =>
    if k ≠ l || !(x.phase == .preempted) then .next s
    else
      let s := takePlace s l x o i es
      match slotPoison s x (restoreSlot s x), loadGraph s l x.phys with
      | some pa, _ => .next (graphFatal (launchRec s l 8 2 { cause := 0x0B, arg := 2, tval := BitVec.ofNat 64 pa, hdr := 0 }) (placeOf o (0, 0, 0)) 0x0B)
      | none, .error t => .next (launchOver t l 6 0)
      | none, .ok t => match getL t l with
        | none => .next t
        | some y =>
          match x.snap with
          | none => .next (goOn (restoreBytes t l) l)
          | some c =>
            let c := moveSnap x.place y.place c
            let t := (y.place.zip (List.range y.place.length)).foldl (fun t q => setR t q.1 (fromSlot t x c q.1 q.2 (getR t q.1) false)) t
            let t := { setL t l { y with snap := some c } with
              reqs := t.reqs.map (fun q => if q.launch = l then { q with sink := { q.sink with r := moved x.place y.place q.sink.r } } else q) }
            .next (goOn t l)

end Sys2Proof.Machine
end

