-- ==== Sys2Proof/Machine/FaultOps.lean ====
section
/-!
DEFINITION. Rollback and the precise re-run (R137, R370 to R375, R408, R414), fatal ends and the dredge (R376, R421 to R426),
the reset of a partition (R381), hangs and send rings (R397 to R400), configuration-store errors and retirement (R402, R403),
and the stage governor and heat (R107, R380).
-/

namespace Sys2Proof.Machine

/-- One hour, 10 ms and 100 µs in nanoseconds. -/
def hourNs : Nat := 3600000000000
def tenMs : Nat := 10000000
def ringNs : Nat := 100000

/-! ## Rollback (R137, R370, R408, R414) -/

/-- The journal applied newest first: the old bytes and presence of each line, but for lines of gated banks; then every
scratch range zeroed with presence empty. -/
def unjournal (g : Region) : Region :=
  let back := fun (g : Region) (j : Journal) =>
    if g.bgate.getLsbD (bankOf j.space (64 * j.line)) then g
    else
      let b := getBuf g j.space
      let full := (List.range 16).foldl (fun f k => let w := 64 * j.line + 4 * k; if j.present.getLsbD k then setAdd f w else setDel f w) b.full
      { g with bufs := vSet g.bufs j.space { mem := memWriteN b.mem (64 * j.line) j.old, full := full, poison := setDel b.poison j.line } }
  let zero := fun (g : Region) (x : Nat × Nat × Nat) =>
    let b := getBuf g x.1
    let out := fun (a : Nat) => a < x.2.1 || x.2.1 + x.2.2 ≤ a
    { g with bufs := vSet g.bufs x.1 { mem := b.mem.filter (fun c => out c.1), full := b.full.filter out, poison := b.poison.filter (fun l => out (64 * l)) } }
  let g := g.scratch.foldl zero (g.journal.reverse.foldl back g)
  { g with journal := [] }

/-- The checkpoints of a region whose time lies above the restored high-water mark of their tag are discarded: an entry of
time 0 names none (R62; log 94). -/
def dropCheckpoints (g : Region) : Region :=
  let entry := fun (g : Region) (a w : Nat) =>
    let b := getBuf g 1
    if memNat b.mem (a + 584) 8 ≤ w then g else { g with bufs := vSet g.bufs 1 { b with mem := memPutNat b.mem (a + 584) 8 0 } }
  g.elems.foldl (fun g e => e.2.ctxs.foldl (fun g c => (c.2.classes.filter (fun x => x.2.cls == 3)).foldl (fun g x =>
    (List.range 15).foldl (fun g k => entry g (chkAddr x.2 x.1 (k + 1)) x.2.w) g) g) g) g

/-- The state of a graph at its last complete cut. -/
def rollTo (s : State) (l : Nat) (x : Launch) (c : Snap) : State :=
  (x.place.zip (List.range x.place.length)).foldl (fun s q =>
    let s := quietRegion s q.1
    setR s q.1 (dropCheckpoints (fromSlot s x c q.1 q.2 (unjournal (getR s q.1)) true))) (setL s l { x with win := [], fills := [] })

/-- Regions of a launch in ascending logical id. -/
def byLid (s : State) (x : Launch) : List Nat := (List.range 256).flatMap (fun k => x.place.filter (fun r => (getH s r).lid == k))

/-- The firings and accesses that took the faults of a rollback, in ascending LID, then ELEM (R373). -/
def hitsInOrder (s : State) (x : Launch) : List (Agent × Trap) :=
  (byLid s x).flatMap (fun r => (List.range 258).flatMap (fun e => x.hits.filter (fun h => (agentAt h.1).1 == r && (agentAt h.1).2.1 == e)))

/-- The ROLLBACK notice of one of them: the fault's code, and the number of the cut restored (R369, R373). -/
def rollNote (c : Snap) (s : State) (h : Agent × Trap) : State :=
  let (r, e, k, slot) := agentAt h.1
  faultRec s r e k slot 8 0 0 { cause := 0x09, arg := h.2.cause, tval := BitVec.ofNat 64 c.seq, hdr := h.2.hdr }

/-- The first journal entry, newest first, that a rollback of some regions meets with an uncorrectable error: region and offset. An
entry of a gated bank is not met (R413, R414). -/
def journalError (s : State) (rs : List Nat) : Option (Nat × Nat) :=
  rs.findSome? (fun r =>
    let g := getR s r
    (g.journal.reverse.find? (fun j => j.bad && !g.bgate.getLsbD (bankOf j.space (64 * j.line)))).map (fun j => (r, 64 * j.line)))

/-- BUFUE of a journal entry, fatal and counted towards retirement (R404, R413). -/
def journalFatal (s : State) (r off : Nat) : State :=
  graphFatal (placeRec (bufErr s r 0x69) r 0x1FF 0 0 0 8 2 { cause := 0x69, arg := 3, tval := BitVec.ofNat 64 off, hdr := 0 }) r 0x69

/-- ROLLBACK: once the cycle of the first fault is over the graph returns to its last complete cut and re-runs, in precise
mode unless it is the first overflow of the window; an EBB that was abandoned or asked for comes before any firing. The ninth
rollback of a window ends the graph, and so does an unreadable slot or journal entry. A graph that runs is rolled back for a replay, as it stands (R213; log 95). -/
def execRollback (l : Nat) (s : State) : Host.Outcome State Fault Refusal :=
  match getL s l with
  | none => .next s
  | some x => match x.snap with
    | none => .next s
    | some c =>
      let r0 := x.place.headD 0
      let code := x.fault.getD 0
      let replay := launchMoves x && !x.ending
      if !(x.phase == .rolling || replay) || x.place.any (fun r => (getR s r).faultNow) then .next s
      else if !replay && 8 ≤ x.rollbacks then .next (graphFatal (launchRec s l 8 2 { cause := 0x0A, arg := code, tval := 0, hdr := 0 }) r0 0x0A)
      else match (if c.kind = 0 then none else slotPoison s x (restoreSlot s x)), journalError s (byLid s x) with
        | some pa, _ => .next (graphFatal (launchRec s l 8 2 { cause := 0x0B, arg := 2, tval := BitVec.ofNat 64 pa, hdr := 0 }) r0 0x0B)
        | none, some j => .next (journalFatal s j.1 j.2)
        | none, none =>
          let ebb := (match x.cut with | some k => k.kind == 2 | none => false) || (x.wantEbb && !rcPersist x.record)
          let first := (code == 0x63 || code == 0x64) && !x.overflow
          let y := { x with phase := if replay then x.phase else if first then .running else .rerun,
                            overflow := x.overflow || (first && !replay),
                            lowered := x.lowered || (first && !replay), abandon := false, rollbacks := if replay then x.rollbacks else x.rollbacks + 1, cut := none,
                            hits := [], partials := [], engines := [], recurred := false, wantSnap := false, quietSince := none,
                            wantEbb := x.wantEbb && !ebb, fault := if first && !replay then none else x.fault }
          let s := rollTo ((hitsInOrder s x).foldl (rollNote c) s) l y c
          let s := if first || replay then s else obsPrec s r0 true
          let s := resume s l x.place c.arms
          .next (if ebb then postCut s l 2 false true else s)

/-! ## The fault that recurs (R371, R373) -/

/-- The element of a record or of hs.tval: 0x1FF for the matrix node. -/
def recElem (e : Nat) : Nat := if e = 257 then 0x1FF else e

/-- RERUN_FAULT_STOP: the firing that takes the fault again has stopped its region: its record, and the trap of the region's
helm core. Regions follow in ascending logical id. -/
def execRerunFaultStop (l r : Nat) (s : State) : Host.Outcome State Fault Refusal :=
  match getL s l with
  | none => .next s
  | some x => match x.hits.find? (fun h => agentR h.1 == r) with
    | none => .next s
    | some h =>
      if x.phase != .rerun || x.hits.any (fun k => (getH s (agentR k.1)).lid < (getH s r).lid) then .next s
      else
        let a := agentAt h.1
        let t := h.2
        let s := setL s l { x with hits := x.hits.erase h, recurred := true }
        let s := faultRec s r a.2.1 a.2.2.1 a.2.2.2 (srcOf a.2.1 t.cause) 0 1 t
        .next (deliver s r { rank := 3, cls := 1, code := t.cause, arg := t.arg,
                             tval := stopTval (nodeNum s r a.2.1 a.2.2.1 a.2.2.2) (recElem a.2.1) a.2.2.1 a.2.2.2 0 })

/-! ## The image (R423, R424) -/

/-- A byte memory moved up. -/
def shiftMem (m : Mem) (o : Nat) : Mem := m.map (fun c => (c.1 + o, c.2))

/-- The map of a region was written for this event: it hangs, or its send ring has just been found (R398, R400). -/
def mapCopied (x : Launch) (g : Region) : Bool :=
  let code := Bits.nat x.fatalRec 63 56
  let arg := Bits.nat x.fatalRec 53 41
  g.hangMap != 0 && (g.hung || code == 0x4C || (code == 0x07 && arg == 0x4B))

/-- A region's block. -/
def dumpBlock (s : State) (x : Launch) (r : Nat) : Mem :=
  let g := getR s r
  let ph := physOf s r
  let copied := mapCopied x g
  let head := fieldsMem [(0, 1, g.helm.lid), (1, 1, ph.1), (2, 1, ph.2), (3, 1, if copied then 1 else 0), (8, 8, (wakeReg g).toNat),
    (16, 8, g.obsctl.toNat), (24, 8, (stillReg g).toNat)]
  let ring := fieldsMem (g.ring.map (fun e => (16 * e.1, 16, e.2.toNat)))
  if rcDump x.record = 1 then head ++ shiftMem ring 0x1000
  else
    let img := (imageMem g 2 0 0).filter (fun c => c.1 < 0xAFFFC0)
    let map := if copied then memWriteN [] 0 ((virtBytes s x.part none g.hangMap 32768).getD []) else fieldsMem (mapFields s r 0 [])
    head ++ shiftMem img 0x1000 ++ shiftMem ring 0xB01000 ++ shiftMem map 0xB11000

/-- The counter of a fence of a record as committed, 0 where the record names none. -/
def fenceNow (s : State) (part va : Nat) : Nat :=
  if va = 0 then 0 else match walkAny s part va with | some pa => memNat s.hbm pa 8 | none => 0

/-- The graph record. -/
def graphRecord (s : State) (x : Launch) : Fields :=
  [(0, 64, x.fatalRec.toNat), (0x40, 256, Bits.ofBytes x.record)] ++
    (List.range 4).map (fun n => (0x140 + 8 * n, 8, fenceNow s x.part (at_ x.record (56 + 16 * n) 8))) ++
    [(0x160, 8, fenceNow s x.part (rcSigaddr x.record)), (0x168, 8, (getP s x.part).fenceW), (0x170, 8, x.window),
     (0x178, 8, match x.snap with | some c => c.seq | none => 0)]

/-- The plain body of an image. -/
def dumpPlain (s : State) (x : Launch) (d : Dump) : List Byte :=
  let dump := rcDump x.record
  let rs := (byLid s x).take (dumpRegs dump d.len)
  let m := fieldsMem (graphRecord s x) ++ (rs.zip (List.range rs.length)).flatMap (fun q => shiftMem (dumpBlock s x q.1) (0x1000 + q.2 * blockLen dump))
  memReadN m 0 (d.len - 0x400)

/-- The bytes of an image: the cleartext part, and the body encrypted under the partition's dump key. -/
def dumpImage (s : State) (x : Launch) (d : Dump) : List Byte :=
  let p := getP s x.part
  let head := Bits.bytesOf 64 (dumpWord x d 2)
  let sealed := Config.encrypt x.part p.keygen p.dumpNext head (dumpPlain s x d)
  let body := (sealed.1 ++ List.replicate (d.len - 0x400) 0).take (d.len - 0x400)
  let start := head ++ Bits.bytesOf 12 (p.dumpNext % 2 ^ 64) ++ Bits.bytesOf 4 p.keygen ++ Bits.bytesOf 16 sealed.2.toNat ++ List.replicate 32 0
  let digest := Bits.bytesOf 64 (Config.sha512 (start ++ List.replicate 64 0 ++ body)).toNat
  start ++ digest ++ List.replicate 320 0 ++ (((Config.sign digest).getD [] ++ List.replicate 512 0).take 512) ++ body

/-- Writes bytes at a physical address as the device itself does. -/
def devicePut (s : State) (pa : Nat) (bs : List Byte) : State :=
  deviceRun s pa bs.length 0 ((bs.zip (List.range bs.length)).map (fun b => (pa + b.2, b.1)))

/-- Writes the image of a graph, its entry and its record; an image that an error has spoilt stays as it is. -/
def dumpWrite (s : State) (l : Nat) (x : Launch) (d : Dump) : State :=
  if d.state ≠ 1 then s
  else
    let p := getP s x.part
    let base := (areaOf p 5).2.1
    let s := devicePut s (base + d.off) (dumpImage s x d)
    let s := hbmPutNat s (base + 8) 8 (p.dumpNext + 1)
    let s := dumpPut s x.part d.num (dumpWord x d 2)
    let s := setP s x.part { p with dumpNext := p.dumpNext + 1, dumps := p.dumps.map (fun e => if e = d then { d with state := 2 } else e) }
    let n := dumpRegs (rcDump x.record) d.len
    if n < x.place.length then launchRec s l 8 0 { cause := 0x81, arg := n, tval := BitVec.ofNat 64 d.len, hdr := 0 }
    else launchRec s l 8 0 { cause := 0x80, arg := d.num, tval := BitVec.ofNat 64 d.len, hdr := 0 }

/-! ## Fatal ends (R376, R421, R425, R426) -/

/-- The open windows and journals of a graph's regions are discarded. -/
def discardWindow (s : State) (l : Nat) : State :=
  let s := (regionsOf s l).foldl (fun s r => setR s r (unjournal (getR s r))) s
  match getL s l with
  | some x => setL s l { x with win := [], fills := [] }
  | none => s

/-- The image of a launch, whole or bad, is that of no end in progress any more. -/
def dumpEnd (s : State) (l part : Nat) : State :=
  let p := getP s part
  setP s part { p with dumps := p.dumps.map (fun d => if d.launch = l then { d with going := false } else d) }

/-- A fatal end is over: the discard, the regions freed, and FAILED. -/
def fatalOver (s : State) (l part : Nat) : State :=
  let s := preemptOver (discardWindow (dumpEnd s l part) l) l part
  launchOver { s with dredges := s.dredges.erase l } l 6 0

/-- FATAL_END: the graph has stopped, and what it committed before has been applied. Without an image the launch is over at
once. -/
def execFatalEnd (l : Nat) (s : State) : Host.Outcome State Fault Refusal :=
  match getL s l with
  | none => .next s
  | some x =>
    if x.phase != .dredging || !x.commits.isEmpty || (dumpOf s l x).isSome then .next s else .next (fatalOver s l x.part)

/-- DREDGE_COMPLETE: the image is whole; images are written one at a time, in the order of the fatal records. -/
def execDredgeComplete (l : Nat) (s : State) : Host.Outcome State Fault Refusal :=
  match getL s l with
  | none => .next s
  | some x => match dumpOf s l x with
    | none => .next s
    | some d =>
      if x.phase != .dredging || !x.commits.isEmpty || s.dredges.head? != some l then .next s
      else .next (fatalOver (dumpWrite s l x d) l x.part)

/-! ## The reset of a partition (R381) -/

/-- The completion of a launch that has ended has not been written: its connection withholds it, or its partition keeps it
(R20, R438). -/
def unwritten (s : State) (x : Launch) : Bool :=
  match x.conn with
  | none => false
  | some (k, q, t) =>
    let mine := fun (c : Comp) => c.typ == tyLAUNCH && c.seq == q && c.tag == t
    (getC s k).withheld.any mine || ((getC s k).closed && (getP s x.part).kept.any mine)

/-- A live launch: its completion has not been written (R444). -/
def isLive (s : State) (x : Launch) : Bool := x.phase != .ended || unwritten s x

/-- The completion that a launch had not got written, and what its connection remembers of it, are gone; its save area is pinned
again. -/
def takeBack (s : State) (x : Launch) : State :=
  match x.conn with
  | none => s
  | some (k, q, t) =>
    let other := fun (c : Comp) => !(c.typ == tyLAUNCH && c.seq == q && c.tag == t)
    let c := getC s k
    let s := setC s k { c with withheld := c.withheld.filter other, done := c.done.filter other }
    let p := getP s x.part
    let s := setP s x.part { p with kept := p.kept.filter other }
    pinPages s x.part ((pagesOf s x.part (saveAddr x.record) (saveSize x.record)).getD [])

/-- A graph of a partition that is reset ends: dredge, counter pages, discard, regions freed. -/
def resetGraph (s : State) (l : Nat) (fatal : BitVec 512) : State :=
  match getL s l with
  | none => s
  | some x =>
    let x := { x with fatalRec := fatal }
    let s := setL s l x
    let s := if rcDump x.record = 0 then s
      else match dumpAlloc s l x with
        | .error k => dumpFull s l k
        | .ok s => (match dumpOf s l x with | some d => dumpWrite s l x d | none => s)
    let s := (regionsOf s l).foldl (fun s r => intervalEnd s r 3) s
    freeRegions (discardWindow (dumpEnd s l x.part) l) l

/-- A launch queued again, to start from its first instruction. -/
def requeued (x : Launch) (order : Nat) : Launch :=
  { x with order := order, started := 0, phase := .waiting, place := [], firstPlace := [], origin := 0, dims := (0, 0, 0), phys := [], cut := none,
           cutSeq := 0, wantEbb := false, wantSnap := false, window := 0, win := [], fills := [], commits := [], snap := none, rollbacks := 0, aborts := 0,
           fault := none, hits := [], recurred := false, overflow := false, migPosted := none, thermal := false, repost := none, declined := [], forHead := none, abandon := false, raceFlag := false,
           raceNow := [], lowered := false, again := none, quietSince := none, chains := [], chainSince := [], peers := [], partials := [], engines := [], ending := false }

/-- A reset of a partition that waits shows in its state (R436). -/
def resetWaits (s : State) (part : Nat) : State := setP s part { getP s part with resetting := true }

/-- The regions of a set, in ascending number. -/
def regionList (x : BitVec 256) : List Nat := (List.range 256).filter (fun r => x.getLsbD r)

/-- A reset of a partition may go ahead: no dredge is in progress, and the windows that its graphs committed have been
applied. -/
def resetReady (s : State) (part : Nat) : Bool := s.dredges.isEmpty && s.launches.all (fun e => e.2.part != part || e.2.commits.isEmpty)

/-- Resets a partition: the rings of its regions freeze; its graphs end, running launches come ahead of waiting ones, and every one
whose completion has not been written starts again. `arg` is that of PARTRESET, `fatal` the record that its images hold. -/
def partReset (s : State) (part arg : Nat) (fatal : BitVec 512) : State :=
  let mine := s.launches.filter (fun e => e.2.part == part && isLive s e.2)
  let placed := (mine.filter (fun e => isPlaced e.2)).map (·.1)
  let doneL := (mine.filter (fun e => e.2.phase == .ended)).map (·.2)
  let begun := (mine.filter (fun e => isPlaced e.2 || e.2.phase == .ended)).map (·.1)
  let rest := (mine.filter (fun e => !(isPlaced e.2 || e.2.phase == .ended))).map (·.1)
  let reqs := (s.reqs.filter (fun q => q.part.toNat == part)).map (fun q => (q, sinkTop s q.sink))
  let s := (regionList (getP s part).regions).foldl (fun s r => setR s r { getR s r with ringFrozen := true }) s
  let s := placed.foldl (fun s l => resetGraph s l fatal) s
  let s := reqs.foldl (fun s q => reqDone s q.1 6 q.2) s
  let waits := s.hostWaits.filter (fun w => w.part.toNat == part)
  let s := { s with hostWaits := s.hostWaits.filter (fun w => w.part.toNat != part) }
  let s := waits.foldl (fun s w => complMsg s w.conn { tag := w.tag, value := 0, typ := tyFENCE, status := 6, part := w.part, seq := w.seq }) s
  let p := getP s part
  let s := partRec (setP s part { p with preempting := none, resetting := false }) part 0 0 8 0 0 { cause := 0x0F, arg := arg, tval := BitVec.ofNat 64 p.fenceW, hdr := 0 }
  let all := begun ++ rest
  let s := doneL.foldl takeBack s
  let s := (all.zip (List.range all.length)).foldl (fun s q => match getL s q.1 with
    | some x => setL s q.1 (requeued x (s.order + 1 + q.2))
    | none => s) s
  { s with order := s.order + all.length }

/-! ## Hangs and send rings (R397 to R400) -/

/-- A delivered trap that falls due cannot be taken (R319, R368). -/
def cannotTrap (h : Helm) : Bool := h.trapvec == 0 || h.halted || !h.running

/-- STILLWATER_HANG: the region freezes, its map and record are written, and its helm core traps; a second hang before the
next SNAP, or a core that cannot take the trap, escalates at once. -/
def execStillwaterHang (r : Nat) (s : State) : Host.Outcome State Fault Refusal :=
  let g := getR s r
  if g.launch.isNone || stillHeld s r g || g.still < g.helm.stillLimit.toNat then .next s
  else
    let again := g.hangs + 1
    let m := mapWrite (setR s r { g with hung := true, hungAt := s.now }) r 0 []
    let t : Trap := { cause := 0x4A, arg := 0, tval := BitVec.ofNat 64 m.2, hdr := 0 }
    let s := placeRec m.1 r 0x1FF 0 0 0 8 1 t
    let esc := 2 ≤ again || cannotTrap g.helm
    let s := setR s r { getR s r with hangs := if esc then 2 else again, hangMap := m.2 }
    .next (if esc then s else deliver s r { rank := 0, cls := 1, code := 0x4A, arg := 0, tval := t.tval })

/-- A core stands in a cycle of its wait-for chain. -/
def inRing (s : State) (r : Nat) : Bool := (sendChain s r).2 == some r

/-- A hang or a send ring that is not cleared in time: ARG and the address of its map. -/
def escDue (s : State) (r : Nat) : Option (Nat × Nat) :=
  let g := getR s r
  if g.hung && (2 ≤ g.hangs || g.hungAt + tenMs ≤ s.now) then some (0, g.hangMap)
  else match g.helm.sendAbort with
    | some (t, m) => if t + tenMs ≤ s.now && inRing s r then some (1, m) else none
    | none => none

/-- HANGESC: the record, and the partition is reset. -/
def execHangesc (r : Nat) (s : State) : Host.Outcome State Fault Refusal :=
  let part := partOf s r
  if (getR s r).launch.isNone then .next s
  else match escDue s r with
    | some (k, m) =>
      if !resetReady s part then .next (resetWaits s part)
      else
        let s := placeRec s r 0x1FF 0 0 0 8 2 { cause := 0x4C, arg := k, tval := BitVec.ofNat 64 m, hdr := 0 }
        .next (partReset s part 1 (getP s part).lastRec)
    | none =>
      let h := getH s r
      .next (match h.sendAbort with
        | some (t, _) => if t + tenMs ≤ s.now then setH s r { h with sendAbort := none } else s
        | none => s)

/-- A cycle of cores with the one of lowest logical id first. -/
def ringFrom (s : State) (c : List Nat) : List Nat :=
  let low := c.foldl (fun m r => if (getH s r).lid < (getH s m).lid then r else m) (c.headD 0)
  c.dropWhile (· != low) ++ c.takeWhile (· != low)

/-- SENDRING: a core that has waited 100 µs at SENDM: a cycle of its wait-for chain is reported once, with a map for each
region of it, and the core of lowest logical id has its SENDM aborted and traps. The 10 ms of the escalation run from the
first of its aborts, till the core has sent (R400). -/
def execSendring (r : Nat) (s : State) : Host.Outcome State Fault Refusal :=
  match sendChain s r with
  | (_, none) => .next s
  | (seen, some q) =>
    let c := ringFrom s (seen.dropWhile (· != q))
    let low := c.headD r
    let h := getH s low
    if s.now < (getH s r).waitSince + ringNs || seen.any (sendStays s) || h.delivered.any (fun d => d.rank == 1) || !graphMoves s r then .next s
    else
      let ids := c.map (fun k => (getH s k).lid)
      let go := c.foldl (fun (x : State × List Nat) k =>
        let m := mapWrite x.1 k 1 ids
        (setR m.1 k { getR m.1 k with hangMap := m.2 }, x.2 ++ [m.2])) (s, [])
      let map := go.2.headD 0
      let t : Trap := { cause := 0x4B, arg := c.length, tval := BitVec.ofNat 64 map, hdr := 0 }
      let s := faultRec go.1 low 256 0 0 8 0 1 t
      let old := (getH s low).sendAbort.filter (fun x => s.now < x.1 + 2 * tenMs)
      let s := setH s low { getH s low with sendAbort := some (old.getD (s.now, map)) }
      .next (deliver s low { rank := 1, cls := 1, code := 0x4B, arg := c.length, tval := t.tval })

/-! ## The configuration store and retirement (R402, R403) -/

/-- CFG_STORE_ERROR: corrected, with a notice, or the region freezes until it has reloaded. -/
def execCfgStoreError (r : Nat) (corrected : Bool) (off : BitVec 64) (s : State) : Host.Outcome State Fault Refusal :=
  let g := getR s r
  if g.launch.isNone then .next s
  else if corrected then .next (placeRec s r 0x1FF 0 0 0 7 0 { cause := 0x4E, arg := 0, tval := off, hdr := 0 })
  else if g.frozen then .next s
  else .next (setR s r { g with frozen := true, cfgErr := some off })

/-- The section that a region received last: from its cache, or from the image. -/
def reloadBytes (s : State) (r : Nat) : List Byte :=
  let g := getR s r
  match g.cache.find? (fun c => c.2.1 == g.sect && c.2.2.length == g.cfgFrom.2.1 && sigOf c.2.2 == g.cfgFrom.2.2) with
  | some c => c.2.2
  | none => (virtBytes s (partOf s r) none g.cfgFrom.1 g.cfgFrom.2.1).getD []

/-- CFG_RELOAD_COMPLETE: a section whose signature agrees puts the store right, the wheel with it; one that differs ends the
graph. -/
def execCfgReloadComplete (r : Nat) (s : State) : Host.Outcome State Fault Refusal :=
  let g := getR s r
  match g.cfgErr with
  | none => .next s
  | some off =>
    let b := reloadBytes s r
    let ok := sigOf b = g.cfgFrom.2.2 && b.length = g.cfgFrom.2.1
    let t : Trap := { cause := 0x4D, arg := if ok then 0 else 1, tval := off, hdr := 0 }
    if ok then
      let new := buildRegion (fun _ _ _ => []) { g with elems := [] } (records b).1
      let g := { g with frozen := false, cfgErr := none, cfgErrTimes := g.cfgErrTimes ++ [s.now], wheel := new.wheel, nextWheel := none, still := 0 }
      .next (placeRec (setR s r g) r 0x1FF 0 0 0 7 1 t)
    else
      let s := placeRec (setR s r { g with cfgErr := none, cfgErrTimes := g.cfgErrTimes ++ [s.now] }) r 0x1FF 0 0 0 7 2 t
      .next (graphFatal s r 0x4D)

/-- Two errors of a region lie within one hour. -/
def retireDue (g : Region) : Bool :=
  let ts := g.cfgErrTimes ++ g.bufErrTimes
  (List.range ts.length).any (fun i => (List.range i).any (fun j =>
    let a := ts.getD i 0
    let b := ts.getD j 0
    max a b - min a b ≤ hourNs))

/-- A region whose contents are discarded: buffers zero and empty, no configuration, an erased ring (R23). -/
def clearedRegion (g : Region) : Region :=
  { Region.reset with temperature := g.temperature, tripped := g.tripped, hot := g.hot, govStart := g.govStart, govCycles := g.govCycles, offline := g.offline }

/-- Spares of a region's reach that are used. -/
def sparesUsed (s : State) (r : Nat) : Nat := (s.spares.filter (fun e => e.1 / 64 == r / 64)).length

/-- Maps a logical region onto the next spare of its reach (R27). -/
def useSpare (s : State) (r : Nat) : State :=
  setR { s with spares := (r, sparesUsed s r) :: s.spares } r (clearedRegion (getR s r))

/-- An EBB of a placed launch is asked for, outside a pre-emption. -/
def askCut (s : State) (l : Nat) (x : Launch) : State := postNext (setL s l { x with wantEbb := true }) l

/-- A launch of a partition that can never be placed any more completes with NORES (R90). -/
def dropUnfit (s : State) (part : Nat) : State :=
  (s.launches.filter (fun e => e.2.part == part && (e.2.phase == .waiting || e.2.phase == .preempted))).foldl (fun s e =>
    match imageOf s part e.2.record with
    | some (i, _) => if couldFit s part i then s else launchOver s e.1 5 0
    | none => s) s

/-- RETIRE: a region marked for retirement is first cut free, its graph to return to the same placement; then it goes onto a
spare, or offline. -/
def execRetire (r : Nat) (s : State) : Host.Outcome State Fault Refusal :=
  let g := getR s r
  let part := partOf s r
  if !retireDue g || g.offline then .next s
  else match launchOf s r with
    | some (l, x) =>
      if x.wantEbb then .next (setL s l { x with again := some x.origin })
      else if cuttable x then .next (askCut s l { x with again := some x.origin })
      else .next s
    | none =>
      let k := sparesUsed s r
      if k < 4 then
        .next (useSpare (placeRec s r 0x1FF 0 0 0 9 0 { cause := 0x4F, arg := 0, tval := BitVec.ofNat 64 (64 + k + 256 * (r / 64)), hdr := 0 }) r)
      else
        let s := placeRec s r 0x1FF 0 0 0 9 0 { cause := 0x4F, arg := 1, tval := 0, hdr := 0 }
        let s := setR s r { getR s r with offline := true, cfgErrTimes := [], bufErrTimes := [] }
        let s := { s with launches := aMap (fun _ x => if x.part = part && x.phase == .preempted then { x with again := none } else x) s.launches }
        .next (dropUnfit s part)

/-! ## The governor and heat (R10, R107, R380) -/

/-- A placement of a launch whose regions all read below 90 °C, its own regions among them. -/
def coolPlace (s : State) (l : Nat) (x : Launch) : Bool :=
  match imageOf s x.part x.record with
  | none => false
  | some (i, _) => (fitWhere i (fun r =>
      let g := getR s r
      (getP s x.part).regions.getLsbD r && (g.launch.isNone || g.launch == some l) && !g.offline && g.temperature < 90)).isSome

/-- The clock one step up or down. -/
def clockStep (s : State) (r : Nat) (up : Bool) : State :=
  let g := getR s r
  let k := g.clock.toNat
  let new := if up then min 6 (k + 1) else k - 1
  if g.gfix || isPrec g || new = k then s
  else setR s r { g with clock := BitVec.ofNat 3 new, counters := bump g.counters (if up then 0 else 1) }

/-- Asks a persistent graph to move for heat. -/
def heatMove (s : State) (l : Nat) (x : Launch) : State := askCut s l { x with thermal := true, repost := none }

/-- THERMTRIP: of the graph that holds the region, of the partition that owns it, or of the device. -/
def tripRec (s : State) (r t : Nat) : State :=
  if (launchOf s r).isSome || s.parts.any (fun p => p.2.present && p.2.regions.getLsbD r) then
    placeRec s r 0x1FF 0 0 0 9 2 { cause := 0x0D, arg := t, tval := 0, hdr := 0 }
  else devRec s 0x0D 2 9 (BitVec.ofNat 64 t)

/-- What a governor has measured in its interval: the clock steps up, steps down, or holds (R107). -/
def govStep (g : Region) : Option Bool :=
  let (own, bout, fed, wopd) := g.govCycles
  if fed ≠ 0 && fed ≤ 4 * wopd && g.temperature < 90 then some true
  else if own ≠ 0 && own ≤ 2 * bout && (fed = 0 || 10 * wopd < fed) then some false
  else none

/-- GOVERNOR_DECISION: every 50 µs the sensor is read; heat moves a persistent graph that fits elsewhere and slows any other;
the clock follows the two fractions of the interval, whose counts of BOUT and WOPD cycles the event names. At 105 °C the region's clock is stopped and the graph ends. -/
def execGovernorDecision (r bout wopd : Nat) (temp : BitVec 8) (s : State) : Host.Outcome State Fault Refusal :=
  let t := temp.toNat
  let g := getR s r
  let hot := if 95 ≤ t then true else if t < 90 then false else g.hot
  let first := 95 ≤ t && !g.hot
  if s.now < g.govStart + 50000 || bout ≠ g.govCycles.2.1 || wopd ≠ g.govCycles.2.2.2 then .next s
  else
  let step := govStep { g with temperature := t }
  let s := setR s r { g with temperature := t, hot := hot, tripped := 105 ≤ t || (g.tripped && 90 ≤ t), govStart := s.now, govCycles := (0, 0, 0, 0) }
  if 105 ≤ t then
    .next (match launchOf s r with
      | none => if g.tripped then s else tripRec s r t
      | some (_, x) => if x.phase == .dredging && g.tripped then s else graphFatal (tripRec s r t) r 0x0D)
  else
    let moves := match launchOf s r with
      | some (l, x) => rcPersist x.record && coolPlace s l x
      | none => false
    let s := match launchOf s r with
      | some (l, x) =>
        if 95 ≤ t && rcPersist x.record then
          let s := if first then placeRec s r 0x1FF 0 0 0 8 0 { cause := 0x0C, arg := t, tval := 0, hdr := 0 } else s
          match getL s l with
          | none => s
          | some x =>
            if x.thermal || x.repost.isSome then s
            else if moves && cuttable x then heatMove s l x
            else setL s l { x with repost := some (s.now + tenMs) }
        else s
      | none => s
    let posted := match launchOf s r with | some (_, x) => x.thermal | none => false
    if hot && !posted then .next (clockStep s r false)
    else match step with
      | some up => .next (clockStep s r up)
      | none => .next s

/-- THERMAL_REPOST: 10 ms after a request that was not posted, or was withdrawn, it is posted again if a region of the graph
still reads 95 °C or above and a placement fits. -/
def execThermalRepost (l : Nat) (s : State) : Host.Outcome State Fault Refusal :=
  match getL s l with
  | none => .next s
  | some x => match x.repost with
    | none => .next s
    | some t =>
      if s.now < t then .next s
      else if !x.place.any (fun r => 95 ≤ (getR s r).temperature) then .next (setL s l { x with repost := none })
      else if coolPlace s l x && cuttable x then .next (heatMove s l x)
      else .next (setL s l { x with repost := some (s.now + tenMs) })

end Sys2Proof.Machine
end

