-- ==== Sys2Proof/Machine/HostMsg.lean ====
section
/-!
DEFINITION. Messages: their header, the endpoint they reach, the order and repetition of a connection's messages, the checks
that all share, and the negotiation of a connection (R15 to R21, R28, R438, R440).
-/

namespace Sys2Proof.Machine

/-! ## The header (R17) -/

/-- VER. -/
def mVer (m : Msg) : Nat := Bits.nat m.hdr 255 248
/-- TYPE. -/
def mType (m : Msg) : Nat := Bits.nat m.hdr 247 240
/-- PART. -/
def mPart (m : Msg) : Nat := Bits.nat m.hdr 239 235
/-- LEN. -/
def mLen (m : Msg) : Nat := Bits.nat m.hdr 223 192
/-- SEQ. -/
def mSeq (m : Msg) : W64 := m.hdr.extractLsb' 128 64
/-- TAG. -/
def mTag (m : Msg) : W64 := m.hdr.extractLsb' 64 64

/-- A header that breaks R17 or R18. -/
def hdrBad (m : Msg) : Bool :=
  mVer m != 1 || Bits.nat m.hdr 234 224 != 0 || Bits.nat m.hdr 63 0 != 0 || mLen m != m.payload.length || 65536 < mLen m

/-- The payload as a number: bit n is bit n mod 8 of byte n / 8. -/
def payNat (m : Msg) : Nat := Bits.ofBytes m.payload

/-- Bits [hi:lo] of a number. -/
def bitsAt (n hi lo : Nat) : Nat := n / 2 ^ lo % 2 ^ (hi - lo + 1)

/-- Bits [hi:lo] of the payload. -/
def pay (m : Msg) (hi lo : Nat) : Nat := bitsAt (payNat m) hi lo

/-! ## Which row a message is (R16, R18, R21, R27 to R34, R427) -/

/-- The rows of the opcode table that are messages. -/
inductive Row where
  | noEndpoint | notHello | unknown | helloSetup | helloCredit | launch | request | fenceRead | fenceRaise | fenceWait
  | mapPages | mapUnmap | mapThreshold | pin | unpin | dumpCleartext | dumpBody | dumpSediment | dumpRing | dumpRelease
  | resync | attest | updatePiece | updateCommit | updateAbort | partCreate | partResize | partDelete | partReset | partSpare
  deriving DecidableEq, Repr

/-- The operation within a type; a reserved one counts as the first. -/
def typeRow (m : Msg) : Row :=
  match mType m with
  | 1 => if pay m 0 0 = 1 then .helloCredit else .helloSetup
  | 2 => .launch
  | 3 => .request
  | 4 => if pay m 127 120 = 1 then .fenceRaise else if pay m 127 120 = 2 then .fenceWait else .fenceRead
  | 5 => if pay m 368 367 = 1 then .mapUnmap else if pay m 368 367 = 2 then .mapThreshold else .mapPages
  | 6 => if pay m 127 120 = 1 then .unpin else .pin
  | 7 => if pay m 82 80 = 1 then .dumpBody else if pay m 82 80 = 2 then .dumpSediment else if pay m 82 80 = 3 then .dumpRing
      else if pay m 82 80 = 4 then .dumpRelease else .dumpCleartext
  | 8 => .resync
  | 9 => .attest
  | 10 => if pay m 159 152 = 1 then .updateCommit else if pay m 159 152 = 2 then .updateAbort else .updatePiece
  | 11 => if pay m 7 0 = 1 then .partResize else if pay m 7 0 = 2 then .partDelete else if pay m 7 0 = 3 then .partReset
      else if pay m 7 0 = 4 then .partSpare else .partCreate
  | _ => .unknown

/-- The row of a message that has arrived. -/
def msgRow (s : State) (m : Msg) : Row :=
  if (endpointOf s m.dest).isNone then .noEndpoint
  else if !(getC s m.conn).hello && mType m != 1 then .notHello
  else typeRow m

/-- A message arrives: the device is up, and so are the port and the connection. -/
def arrives (s : State) (m : Msg) : Bool :=
  s.booted && (aGet EthPort.reset s.ports m.port.toNat).up && !(getC s m.conn).closed

/-! ## Discarding, closing, refusing -/

/-- A port's error counter. -/
def portError (s : State) (k : Nat) : State :=
  let p := aGet EthPort.reset s.ports k
  { s with ports := aSet s.ports k { p with errors := p.errors + 1 } }

/-- The device closes a connection. -/
def closeConn (s : State) (k : Nat) : State := setC s k { getC s k with closed := true }

/-- FEATREF, in the ring of the endpoint's partition (R420). -/
def featRef (s : State) (ep : Option Nat) (arg typ : Nat) : State :=
  match ep with
  | some p => partRec s p 0 0 8 0 0 { cause := 0x86, arg := arg, tval := BitVec.ofNat 64 typ, hdr := 0 }
  | none => devRec s 0x86 0 8 (BitVec.ofNat 64 typ)

/-- Completes a message. -/
def answer (s : State) (m : Msg) (ep : Option Nat) (status value : Nat) : State :=
  complMsg s m.conn { tag := mTag m, value := BitVec.ofNat 64 value, typ := BitVec.ofNat 8 (mType m), status := BitVec.ofNat 8 status,
                      part := BitVec.ofNat 5 (ep.getD (mPart m)), seq := mSeq m }

/-- Neither firmware image has passed (R24). -/
def fallback (s : State) : Bool := !(vGet Slot.reset s.fw (if s.running then 1 else 0)).valid

/-! ## The order of a connection's messages (R19, R20) -/

/-- The delivery mode of a connection, which its first message shows (R21). -/
def onRod (c : Conn) (m : Msg) : Bool := if c.hello then c.rod else m.rod

/-- A connection's ring has no free entry for the completion of a further message (R20). -/
def ringFull (c : Conn) : Bool := c.hello && (c.free == 0 || !c.withheld.isEmpty)

/-- A message comes behind one that its ROD connection holds; the credit for which a full ring waits does not (R19, R20). -/
def behindHeld (c : Conn) (row : Row) (m : Msg) : Bool :=
  onRod c m && c.held.any (· != mSeq m) && !(row == .helloCredit && ringFull c)

/-- The ring keeps a message from being carried out: not a HELLO, whose credit frees entries or whose ring is new (R20, R28). -/
def ringHolds (c : Conn) (row : Row) : Bool := ringFull c && row != .helloCredit && row != .helloSetup

/-- A message that has to wait is held; on a ROD connection no later one is carried out before it (R19). -/
def holdMsg (s : State) (m : Msg) : State :=
  let c := getC s m.conn
  if onRod c m && c.held.isNone then setC s m.conn { c with held := some (mSeq m) } else s

/-- A connection with a message carried out. A credit counts in no order: it may pass what the full ring holds. -/
def connTaken (c : Conn) (row : Row) (m : Msg) : Conn :=
  { c with rod := onRod c m, dest := m.dest, seqs := c.seqs ++ [mSeq m],
           held := if c.held == some (mSeq m) then none else c.held,
           last := if row == .helloCredit then c.last else some (mSeq m) }

/-- Carries out a message of a row: held while the ring has no free entry, repeated where its SEQ has been executed. What the
row does answers none where the message has to wait. -/
def serveMsg (row : Row) (m : Msg) (s : State) (f : Option Nat → State → Option State) : Host.Outcome State Fault Refusal :=
  let c := getC s m.conn
  if !arrives s m || msgRow s m != row then .next s
  else match endpointOf s m.dest with
    | none => .next s
    | some ep =>
      if behindHeld c row m then .next s
      else if ringHolds c row then .next (holdMsg s m)
      else if c.seqs.contains (mSeq m) then
        let s := if c.held == some (mSeq m) then setC s m.conn { c with held := none } else s
        .next (match c.done.find? (fun d => d.seq == mSeq m) with | some d => complWrite s m.conn d | none => s)
      else if onRod c m && c.last.any (fun q => (mSeq m).toNat < q.toNat) then .next s
      else .next ((f ep (setC s m.conn (connTaken c row m))).getD (holdMsg s m))

/-- Where a type may arrive. -/
inductive Place where
  | partition | management | both
  deriving DecidableEq, Repr

/-- The checks before a message's own: the fallback, the header, the endpoint, the partition, the feature. -/
def gated (m : Msg) (ep : Option Nat) (s : State) (place : Place) (feat : Option Nat) (g : State → Option State) : Option State :=
  let t := mType m
  let wrong := match place, ep with | .partition, none => true | .management, some _ => true | _, _ => false
  let lacks := match feat with | some b => !(getC s m.conn).features.getLsbD b | none => false
  if fallback s && !(ep.isNone && (t == 1 || t == 9 || t == 10)) then some (answer s m ep 6 0)
  else if hdrBad m then some (answer s m ep 1 0)
  else if wrong then some (answer s m ep 3 0)
  else if (match ep with | some p => mPart m != p | none => false) then some (answer s m ep 3 0)
  else if lacks then some (answer (featRef s ep 1 t) m ep 2 0)
  else g s

/-! ## PACKET_DISCARD, PACKET_TRIM, MESSAGE_NO_ENDPOINT, FIRST_MESSAGE_NOT_HELLO, UNKNOWN_MESSAGE_TYPE -/

/-- PACKET_DISCARD: a packet for RUDI or UUD is counted and discarded (R15). -/
def execPacketDiscard (port : BitVec 4) (s : State) : Host.Outcome State Fault Refusal := .next (portError s port.toNat)

/-- PACKET_TRIM: the receiver asks for the payload again, and no partial message is delivered (R15). -/
def execPacketTrim (_port : BitVec 4) (s : State) : Host.Outcome State Fault Refusal := .next s

/-- MESSAGE_NO_ENDPOINT: discarded and counted; no connection, no completion (R16). -/
def execMessageNoEndpoint (m : Msg) (s : State) : Host.Outcome State Fault Refusal :=
  if arrives s m && msgRow s m == .noEndpoint then .next (portError s m.port.toNat) else .next s

/-- FIRST_MESSAGE_NOT_HELLO: discarded and counted, FEATREF, and the connection is closed (R21). -/
def execFirstMessageNotHello (m : Msg) (s : State) : Host.Outcome State Fault Refusal :=
  if arrives s m && msgRow s m == .notHello then
    .next (closeConn (featRef (portError s m.port.toNat) ((endpointOf s m.dest).getD none) 2 (mType m)) m.conn)
  else .next s

/-- UNKNOWN_MESSAGE_TYPE: BADMSG (R18). -/
def execUnknownMessageType (m : Msg) (s : State) : Host.Outcome State Fault Refusal :=
  serveMsg .unknown m s (fun ep s =>
    some (answer s m ep (if fallback s then 6 else 1) 0))

/-! ## HELLO (R20, R21, R28, R438, R440) -/

/-- A power of two. -/
def isPow2 (n : Nat) : Bool := n != 0 && 2 ^ n.log2 == n

/-- LEN and the ring and data area of a setup form are as R28 has them. An address of a data area with a length of 0 is taken, and
the connection then has no data area (log 79). -/
def ringOk (m : Msg) : Bool :=
  let n := pay m 319 288
  mLen m == 64 && m.payload.length == 64 && pay m 383 320 % 32 == 0 && isPow2 n && 64 ≤ n && n ≤ 65536 &&
    pay m 255 192 % 4096 == 0 && pay m 191 160 % 4096 == 0 && (pay m 255 192 != 0 || pay m 191 160 == 0)

/-- The accepted set of a request. -/
def accepted (m : Msg) : W64 := BitVec.ofNat 64 (pay m 511 384 &&& featSet)

/-- The feature bit of a connection's delivery mode is accepted (R21). -/
def modeOk (m : Msg) : Bool := (accepted m).getLsbD (if m.rod then 1 else 2)

/-- A connection with the ring and data area that a setup form names. -/
def withRing (c : Conn) (m : Msg) : Conn :=
  { c with ring := BitVec.ofNat 64 (pay m 383 320), count := pay m 319 288, free := pay m 319 288, written := 0,
           data := BitVec.ofNat 64 (pay m 255 192), dlen := pay m 191 160, dnext := 0 }

/-- A setup form that breaks a rule other than those of its ring. -/
def setupBad (m : Msg) : Bool := hdrBad m || pay m 159 1 != 0 || pay m 287 256 != 0

/-- Status of a setup form; the first one asks for its connection's delivery mode (R21). -/
def setupStatus (m : Msg) (ep : Option Nat) (first : Bool) : Nat :=
  if setupBad m then 1
  else if (match ep with | some p => mPart m != p | none => false) then 3
  else if !(accepted m).getLsbD 0 || (first && !modeOk m) then 2
  else 0

/-- A HELLO without BASE. -/
def noBase (s : State) (m : Msg) (ep : Option Nat) (st : Nat) : State := if st = 2 && !(accepted m).getLsbD 0 then featRef s ep 0 1 else s

/-- The completions kept for a partition go into the ring of its next connection. -/
def writeKept (s : State) (k : Nat) (ep : Option Nat) : State :=
  match ep with
  | none => s
  | some p =>
    let q := getP s p
    q.kept.foldl (fun s c => complWrite s k c) (setP s p { q with kept := [] })

/-- A partition has a live launch. -/
def anyLive (s : State) (part : Nat) : Bool := s.launches.any (fun e => e.2.part == part && isLive s e.2)

/-- HELLO_SETUP. A later one's completion is the first record of the ring it names; what the old ring withheld follows it there
(log 96). -/
def execHelloSetup (m : Msg) (s : State) : Host.Outcome State Fault Refusal :=
  serveMsg .helloSetup m s (fun ep s =>
    let k := m.conn
    let c := getC s k
    let st := setupStatus m ep (!c.hello)
    if !c.hello then
      if !ringOk m then some (closeConn (portError s m.port.toNat) k)
      else
        let s := setC s k (withRing c m)
        if st = 0 then
          some (writeKept (answer (setC s k { getC s k with hello := true, features := accepted m }) m ep 0 (accepted m).toNat) k ep)
        else some (closeConn (answer (noBase s m ep st) m ep st 0) k)
    else if !ringOk m || setupBad m then some (answer s m ep 1 0)
    else if st ≠ 0 then some (answer (noBase s m ep st) m ep st 0)
    else if accepted m != c.features && (match ep with | some p => anyLive s p | none => false) then some (answer s m ep 4 0)
    else some (ringDrain k c.withheld (answer (setC s k { withRing c m with features := accepted m, withheld := [] }) m ep 0 (accepted m).toNat)))

/-- HELLO_CREDIT: the host returns entries, and what was withheld is written; it has no completion. -/
def execHelloCredit (m : Msg) (s : State) : Host.Outcome State Fault Refusal :=
  serveMsg .helloCredit m s (fun ep s =>
    let k := m.conn
    let c := getC s k
    if !c.hello then some (closeConn (portError s m.port.toNat) k)
    else if hdrBad m || mLen m != 64 || pay m 511 288 != 0 || pay m 255 1 != 0 then some (answer s m ep 1 0)
    else if (match ep with | some p => mPart m != p | none => false) then some (answer s m ep 3 0)
    else
      let c := { c with free := c.free + min (pay m 287 256) (c.count - c.free) }
      some (ringDrain k c.withheld (setC s k c)))

/-! ## CONNECTION_FAILURE (R438) -/

/-- CONNECTION_FAILURE: the connection is gone, and the completions withheld on it are kept for the partition of its endpoint. -/
def execConnectionFailure (conn : Nat) (s : State) : Host.Outcome State Fault Refusal :=
  if (aFind s.conns conn).isNone then .next s
  else
    let c := getC s conn
    .next (c.withheld.foldl (fun s x => compKeep s conn x) (setC s conn { c with closed := true, withheld := [] }))

end Sys2Proof.Machine
end

