-- ==== Sys2Proof/Machine/HostOps.lean ====
section
/-!
DEFINITION. The messages of a partition: LAUNCH, REQUEST, FENCE, MAP and PIN (R30 to R32, R63, R64, R88, R90, R128, R434,
R440, R444).
-/

namespace Sys2Proof.Machine

/-! ## LAUNCH (R90, R434, R440) -/

/-- The save area that a record names holds a complete EBB slot of the record's graph image. -/
def ebbImage (s : State) (part : Nat) (rc : List Byte) (gdig : W64) : Option (List Byte) :=
  match virtBytes s part none (saveAddr rc) 4096 with
  | none => none
  | some h => if at_ h 0 1 = 1 && (at_ h 1 1).testBit 0 && at_ h 16 1 = 2 && at_ h 32 8 = gdig.toNat then some h else none

/-- A launch that restores from the bytes of its save area: the logical ids and the physical places of the header. -/
def asRestored (x : Launch) (h : List Byte) : Launch :=
  let e := fun (k : Nat) => at_ h (64 + 8 * k) 8
  { x with phase := .preempted, firstPlace := (List.range x.nsec).map (fun k => e k / 2 ^ 8 % 2 ^ 8),
           phys := (List.range x.nsec).map (fun k => (e k / 2 ^ 16 % 4, e k / 2 ^ 18 % 2 ^ 7)) }

/-- The first poisoned line that the headwater reads for a launch: the image's header and section table, and the header of the save
area where it looks for an image to restore (R410). -/
def rcPoison (s : State) (part : Nat) (rc : List Byte) (mig : Bool) : Option Nat :=
  let secs := match imageOf s part rc with | some (i, _) => runPoison s part (rcGimg rc + i.secoff) (32 * i.nsec) | none => none
  (runPoison s part (rcGimg rc) 64).or (secs.or (if mig then runPoison s part (saveAddr rc) 4096 else none))

/-- LAUNCH_MESSAGE: the record is checked, and the launch is queued; its completion is written as it ends. One for which a
poisoned line would be read is FAILED with the line's address. -/
def execLaunchMessage (m : Msg) (s : State) : Host.Outcome State Fault Refusal :=
  serveMsg .launch m s (fun ep s => gated m ep s .partition none (fun s =>
    let part := ep.getD 0
    let rc := m.payload
    let c := getC s m.conn
    if rc.length ≠ 256 || !ctlOk rc || !levelsOk (rcLevels rc) none then some (answer s m ep 1 0)
    else match rcPoison s part rc (c.features.getLsbD 10) with
    | some pa => some (answer s m ep 6 pa)
    | none =>
      let st := recordStatus s part rc
      if st = some 1 then some (answer s m ep 1 0)
      else if usesInred s part rc && !c.features.getLsbD 9 then some (answer (featRef s ep 1 2) m ep 2 0)
      else match st with
        | some k => some (answer s m ep k 0)
        | none =>
          let x := newLaunch s part rc (mTag m) (some (m.conn, mSeq m, mTag m))
          let x := if c.features.getLsbD 10 then (match ebbImage s part rc x.gdig with | some h => asRestored x h | none => x) else x
          some (queueLaunch s x)))

/-! ## REQUEST (R63, R64) -/

/-- The sink of a node number in a graph: the first sink of a context that the node map gives the number to. -/
def sinkOf (s : State) (x : Launch) (num : Nat) : Option At :=
  x.place.findSome? (fun r => (getR s r).nmap.findSome? (fun k =>
    if Bits.nat k.2 127 96 ≠ num then none
    else
      let e := k.1 / 512
      let c := k.1 / 32 % 16
      let n := getN s r e c
      ((List.range 4).find? (fun ch => (nodePair n ch).sink && (nodePair n ch).ctxset != 0)).map (fun ch => (⟨r, e, c, ch⟩ : At))))

/-- REQUEST: demand at a sink of a graph that runs; an empty one completes at once, and another waits for a graph that does not
run yet, and for an input that holds a piece. -/
def execRequest (m : Msg) (s : State) : Host.Outcome State Fault Refusal :=
  serveMsg .request m s (fun ep s => gated m ep s .partition none (fun s =>
    let part := ep.getD 0
    let ltag : W64 := BitVec.ofNat 64 (pay m 255 192)
    let v : Ival := { lo := pay m 159 124, hi := pay m 123 88, step := pay m 87 80, ctx := pay m 79 76 }
    let live := s.launches.filter (fun e => e.2.part == part && isLive s e.2 && e.2.ltag == ltag)
    if m.payload.length ≠ 32 || v.step = 0 || pay m 75 0 ≠ 0 || 1 < live.length then some (answer s m ep 1 0)
    else match live with
      | [] => some (answer s m ep 5 0)
      | (l, x) :: _ =>
        if !launchMoves x then (if ivEmpty v then some (answer s m ep 0 v.lo) else none)
        else match sinkOf s x (pay m 191 160) with
          | none => some (answer s m ep 5 0)
          | some a =>
            let p := nodePair (getN s a.r a.e a.c) a.n
            if ivEmpty v then some (answer s m ep 0 v.lo)
            else if nodeHolds (getN s a.r a.e a.c) then none
            else
              let q : Req := { conn := m.conn, seq := mSeq m, tag := mTag m, part := BitVec.ofNat 5 part, launch := l, sink := a, iv := v,
                               left := ivReduce p.served [v] }
              some (serveReqs (enterInput { s with reqs := s.reqs ++ [q] } a.r a.e a.c a.n v false))))

/-! ## FENCE (R30) -/

/-- What all FENCE messages share: the address is aligned, on a page, and not poisoned. -/
def onFence (row : Row) (m : Msg) (s : State) (op : Nat) (f : Option Nat → State → Nat → Nat → W64 → Option State) : Host.Outcome State Fault Refusal :=
  serveMsg row m s (fun ep s => gated m ep s .partition none (fun s =>
    let va := pay m 255 192
    let part := ep.getD 0
    if m.payload.length ≠ 32 || pay m 127 120 ≠ op || pay m 119 0 ≠ 0 || va % 8 ≠ 0 || (op = 0 && pay m 191 128 ≠ 0) then some (answer s m ep 1 0)
    else if 2 ^ 57 ≤ va then some (answer s m ep 3 0)
    else match xlate s part va 3 with
      | .error _ => some (answer s m ep 3 0)
      | .ok (pa, leaf) => if poisoned s (pa / 64) then some (answer s m ep 6 pa) else f ep s va pa leaf))

/-- FENCE_READ: the counter at its base die. -/
def execFenceRead (m : Msg) (s : State) : Host.Outcome State Fault Refusal :=
  onFence .fenceRead m s 0 (fun ep s va pa leaf => some (answer (touch s (ep.getD 0) va pa leaf) m ep 0 (memNat s.hbm pa 8)))

/-- FENCE_RAISE: the counter becomes max(counter, VAL), with a log entry. -/
def execFenceRaise (m : Msg) (s : State) : Host.Outcome State Fault Refusal :=
  onFence .fenceRaise m s 1 (fun ep s va pa leaf =>
    let s := fenceRaise s (ep.getD 0) va pa leaf (pay m 191 128) (mTag m)
    some (answer s m ep 0 (memNat s.hbm pa 8)))

/-- FENCE_WAIT: compares and arms in one step, in one of the die's places. -/
def execFenceWait (m : Msg) (s : State) : Host.Outcome State Fault Refusal :=
  onFence .fenceWait m s 2 (fun ep s va pa leaf =>
    let s := touch s (ep.getD 0) va pa leaf
    let v := memNat s.hbm pa 8
    if pay m 191 128 ≤ v then some (answer s m ep 0 v)
    else if !placeFree s 3 0 pa then none
    else some { s with hostWaits := s.hostWaits ++ [{ conn := m.conn, seq := mSeq m, tag := mTag m, part := BitVec.ofNat 5 (ep.getD 0), addr := pa,
                                                      value := BitVec.ofNat 64 (pay m 191 128) }] })

/-! ## Tables (R34, R125, R126) -/

/-- Bytes of an area of a partition. -/
def areaLen (k count : Nat) : Nat :=
  match k with
  | 0 => 32 * count
  | 1 => 64 + 64 * count
  | 2 => 65536 * count
  | 3 => 32768 * count
  | 4 => 64 + 16 * count
  | _ => count

/-- A table entry. -/
def tableEntry (pa : Nat) : Nat := packFields [(0, 1, 1), (8, 32, pa / 256)]

/-- A leaf: its type, the attributes R, W, FE, COMP and MIG in bits 0 to 4, the page and the partition. -/
def leafEntry (part typ attrs pa : Nat) : Nat := packFields [(0, 1, 1), (1, 5, attrs), (6, 2, typ), (8, 32, pa / 256), (40, 5, part)]

/-- Takes a zeroed table from a partition's pool of a stack. -/
def takeTable (s : State) (part stack size : Nat) : Option (State × Nat) :=
  let p := getP s part
  let x := p.pools.getD stack (0, 0, 0)
  let a := (x.2.2 + size - 1) / size * size
  if x.1 + x.2.1 < a + size then none
  else some (setP (hbmZero s a size) part { p with pools := p.pools.set stack (x.1, x.2.1, a + size) }, a)

/-- Writes a leaf, with the tables that lead to it; none where the pool is exhausted. What stood in an entry on the way is
replaced. -/
def mapLeaf (part va typ leaf : Nat) : List (Nat × Nat × Nat × Bool × Nat) → Nat → State → Option State
  | [], _, _ => none
  | (hi, lo, lt, _, al) :: ls, base, s =>
    let a := base + 8 * bitsAt va hi lo
    if typ = lt then some (hbmPutNat s a 8 leaf)
    else
      let e := memNat s.hbm a 8
      if e % 2 = 1 && bitsAt e 7 6 = 0 then mapLeaf part va typ leaf ls (bitsAt e 39 8 * 256) s
      else match takeTable s part (va / 2 ^ 54 % 8) (2 ^ al) with
        | none => none
        | some (s, t) => mapLeaf part va typ leaf ls t (hbmPutNat s a 8 (tableEntry t))

/-- Clears the leaf of a type at an address: its entry's address in memory and its contents; none where it is clear; an
error where another kind of entry stands there. -/
def findLeaf (m : Mem) (va typ : Nat) : List (Nat × Nat × Nat × Bool × Nat) → Nat → Except Unit (Option (Nat × Nat))
  | [], _ => .error ()
  | (hi, lo, lt, _, _) :: ls, base =>
    let a := base + 8 * bitsAt va hi lo
    let e := memNat m a 8
    if e % 2 = 0 then .ok none
    else if typ = lt then (if bitsAt e 7 6 = typ then .ok (some (a, e)) else .error ())
    else if bitsAt e 7 6 = 0 then findLeaf m va typ ls (bitsAt e 39 8 * 256)
    else .error ()

/-- The pages that a table maps: physical base and size. -/
def leavesAt (m : Mem) : List (Nat × Nat × Nat × Bool × Nat) → Nat → List (Nat × Nat)
  | [], _ => []
  | (hi, lo, lt, table, _) :: ls, base =>
    (List.range (2 ^ (hi - lo + 1))).flatMap (fun k =>
      let e := memNat m (base + 8 * k) 8
      if e % 2 = 0 then []
      else if bitsAt e 7 6 = 0 then (if table then leavesAt m ls (bitsAt e 39 8 * 256) else [])
      else if bitsAt e 7 6 = lt then [(bitsAt e 39 8 * 256, 2 ^ pageBits lt)] else [])

/-- The pages of a partition. -/
def pagesMapped (s : State) (part : Nat) : List (Nat × Nat) := (getP s part).roots.flatMap (leavesAt s.hbm walkLevels)

/-- A range touches a pinned page of a partition, or a page of one of its areas (R31). -/
def touchesPin (s : State) (part va size : Nat) : Bool :=
  let p := getP s part
  let area := fun (k : Nat) => let a := areaOf p k; decide (va < up64K (a.1 + areaLen k a.2.2)) && decide (a.1 < va + size)
  s.pins.any (fun e => e.1 / 2 ^ 57 == part && va ≤ e.1 % 2 ^ 57 && e.1 % 2 ^ 57 < va + size) || (List.range p.areas.length).any area ||
    (match xlate s part va 3 with
      | .ok (_, leaf) => let sz := 2 ^ pageBits (Bits.nat leaf 7 6); pinCount s part (va / sz * sz) != 0
      | .error _ => false)

/-- A physical range lies inside one of a list of ranges. -/
def insideRanges (l : List (Nat × Nat)) (a n : Nat) : Bool := l.any (fun x => x.1 ≤ a && a + n ≤ x.1 + x.2)

/-- Two ranges overlap. -/
def overlaps (a b : Nat × Nat) : Bool := decide (a.1 < b.1 + b.2) && decide (b.1 < a.1 + a.2)

/-- A page touches a pseudo-channel that is offline (R412). -/
def pageOffline (s : State) (pa size : Nat) : Bool :=
  s.pcs.any (fun x => x.2.2 && x.1 == pa / 2 ^ 37) && (List.range (size / 64)).any (fun k =>
    s.pcs.any (fun x => x.2.2 && x.1 == pa / 2 ^ 37 && x.2.1 == (Config.pcOf (pa / 64 + k)).toNat))

/-- A list of ranges without a range. -/
def cutRange (l : List (Nat × Nat)) (a n : Nat) : List (Nat × Nat) :=
  l.flatMap (fun x => ([(x.1, min (x.1 + x.2) a - x.1), (max x.1 (a + n), x.1 + x.2 - max x.1 (a + n))] : List (Nat × Nat)).filter (fun y => y.2 != 0))

/-- Pages that hold a part of a range: virtual and physical base, and size; one larger than the range is among them. -/
def oldPages (s : State) (part va n : Nat) : List (Nat × Nat × Nat) :=
  (List.range (n / 65536)).filterMap (fun k =>
    let a := va + 65536 * k
    match xlate s part a 3 with
    | .ok (pa, leaf) => let sz := 2 ^ pageBits (Bits.nat leaf 7 6); some (a / sz * sz, pa / sz * sz, sz)
    | .error _ => none)

/-- Cached translations of a range, and of the pages that it changes, are dropped (R128). -/
def dropCached (s : State) (part va n : Nat) (old : List (Nat × Nat × Nat)) : State :=
  { s with tcache := s.tcache.filter (fun k => !(k.2.1 == part && ((va ≤ k.2.2 && k.2.2 < va + n) || old.any (fun p => p.1 == k.2.2)))) }

/-- The first poisoned line of the tables that a change of a leaf of a type reads (R410). -/
def tablePoison (s : State) (va typ : Nat) : List (Nat × Nat × Nat × Bool × Nat) → Nat → Option Nat
  | [], _ => none
  | (hi, lo, lt, _, _) :: ls, base =>
    let a := base + 8 * bitsAt va hi lo
    let e := memNat s.hbm a 8
    if poisoned s (a / 64) then some (a / 64 * 64)
    else if typ ≠ lt && e % 2 = 1 && bitsAt e 7 6 = 0 then tablePoison s va typ ls (bitsAt e 39 8 * 256)
    else none

/-- That of the leaves of a run of pages. -/
def tablesPoison (s : State) (part va n typ : Nat) : Option Nat :=
  (List.range n).findSome? (fun k =>
    let a := va + k * 2 ^ pageBits typ
    tablePoison s a typ walkLevels ((getP s part).roots.getD (a / 2 ^ 54 % 8) 0))

/-! ## MAP (R31, R128) -/

/-- What a newly mapped range starts with: sectors at CLEN 0, which read as zero, and empty words. -/
def freshPages (s : State) (pa n : Nat) (fe comp : Bool) : State :=
  let s := { s with comps := cutRange s.comps pa n }
  let s := if comp then
      { hbmZero s pa n with comps := s.comps ++ [(pa, n)], clen := s.clen.filter (fun e => !(pa ≤ 4096 * e.1 && 4096 * e.1 < pa + n)) }
    else s
  if fe then { s with full := s.full.filter (fun w => !(pa ≤ w && w < pa + n)) } else s

/-- A deferred read or atomic stands at its node under a translation that a change of a range of a partition replaces (R128). -/
def oldUsed (s : State) (part va n : Nat) : Bool :=
  s.arms.any (fun a => a.space == 3 && a.released.isNone && (a.kind == .read || a.kind == .atomic) && partOf s (agentR a.who) == part &&
    a.need.any (fun w => (oldPages s part va n).any (fun p => p.2.1 ≤ w.2 && w.2 < p.2.1 + p.2.2)))

/-- MAP_PAGES: all the leaves, or none. It waits until every access under a translation that it replaces has performed (R128). -/
def execMapPages (m : Msg) (s : State) : Host.Outcome State Fault Refusal :=
  serveMsg .mapPages m s (fun ep s => gated m ep s .partition none (fun s =>
    let part := ep.getD 0
    let p := getP s part
    let va := pay m 511 448
    let pa := pay m 447 408
    let n := pay m 407 376
    let typ := pay m 375 374
    let sz := 2 ^ pageBits typ
    let attrs := packFields [(0, 1, pay m 369 369), (1, 1, pay m 370 370), (2, 1, pay m 371 371), (3, 1, pay m 372 372), (4, 1, pay m 373 373)]
    let stack := va / 2 ^ 54
    if m.payload.length ≠ 64 || pay m 368 367 ≠ 0 || pay m 350 0 ≠ 0 || n = 0 || typ = 0 || va % sz ≠ 0 || pa % sz ≠ 0 then some (answer s m ep 1 0)
    else if 8 ≤ stack || (va + n * sz - 1) / 2 ^ 54 ≠ stack || pa / 2 ^ 37 ≠ stack || (pa + n * sz - 1) / 2 ^ 37 ≠ stack ||
        (List.range n).any (fun k => !insideRanges p.ranges (pa + k * sz) sz || pageOffline s (pa + k * sz) sz || touchesPin s part (va + k * sz) sz) then
      some (answer s m ep 3 0)
    else match tablesPoison s part va n typ with
    | some a => some (answer s m ep 6 a)
    | none =>
      let go := (List.range n).foldl (fun (acc : Option State) k =>
        acc.bind (mapLeaf part (va + k * sz) typ (leafEntry part typ attrs (pa + k * sz)) walkLevels (p.roots.getD stack 0))) (some s)
      match go with
      | none => some (answer s m ep 5 0)
      | some t => if oldUsed s part va (n * sz) then none else some (answer (dropCached (freshPages t pa (n * sz) (pay m 371 371 == 1) (pay m 372 372 == 1)) part va (n * sz) (oldPages s part va (n * sz))) m ep 0 n)))

/-- MAP_UNMAP: V cleared in the leaves of a range; those already clear are skipped. It waits as MAP_PAGES does (R128). -/
def execMapUnmap (m : Msg) (s : State) : Host.Outcome State Fault Refusal :=
  serveMsg .mapUnmap m s (fun ep s => gated m ep s .partition none (fun s =>
    let part := ep.getD 0
    let p := getP s part
    let va := pay m 511 448
    let n := pay m 407 376
    let typ := pay m 375 374
    let sz := 2 ^ pageBits typ
    if m.payload.length ≠ 64 || pay m 350 0 ≠ 0 || n = 0 || typ = 0 || va % sz ≠ 0 then some (answer s m ep 1 0)
    else if 2 ^ 57 < va + n * sz then some (answer s m ep 3 0)
    else match tablesPoison s part va n typ with
    | some a => some (answer s m ep 6 a)
    | none =>
      let go := (List.range n).foldl (fun (acc : Option (List (Nat × Nat))) k => acc.bind (fun l =>
        let a := va + k * sz
        match findLeaf s.hbm a typ walkLevels (p.roots.getD (a / 2 ^ 54 % 8) 0) with
        | .error _ => none
        | .ok none => some l
        | .ok (some x) => if touchesPin s part a sz then none else some (l ++ [x]))) (some [])
      match go with
      | none => some (answer s m ep 3 0)
      | some l => if oldUsed s part va (n * sz) then none else
        let s := l.foldl (fun s x => { hbmPutNat s x.1 8 (x.2 - 1) with comps := cutRange s.comps (bitsAt x.2 39 8 * 256) sz }) s
        some (answer (dropCached s part va (n * sz) []) m ep 0 l.length)))

/-- MAP_THRESHOLD: the partition's access-counter threshold. -/
def execMapThreshold (m : Msg) (s : State) : Host.Outcome State Fault Refusal :=
  serveMsg .mapThreshold m s (fun ep s => gated m ep s .partition none (fun s =>
    let part := ep.getD 0
    if m.payload.length ≠ 64 || pay m 350 0 ≠ 0 || pay m 511 374 ≠ 0 then some (answer s m ep 1 0)
    else some (answer (setP s part { getP s part with thresh := BitVec.ofNat 16 (pay m 366 351) }) m ep 0 0)))

/-! ## Compressed sectors as a host sees them (R140) -/

/-- What a read of a sector of a COMP page gives a host connection: with CMPX accepted the CLEN byte and CLEN × 512 stored bytes,
else the plain data; the form that the base die's compression gives a sector is a free value (log 14). -/
def hostSector (s : State) (conn pa : Nat) : List Byte :=
  let sec := pa / 4096
  let plain := memReadN s.hbm (4096 * sec) 4096
  let n := aGet 0 s.clen sec
  if !(getC s conn).features.getLsbD 4 then plain
  else BitVec.ofNat 8 n :: (if n = 8 then plain else (List.range (512 * n)).map (Config.packed plain))

/-! ## PIN (R32) -/

/-- What PIN and UNPIN share: the pages of the range. -/
def onPin (row : Row) (m : Msg) (s : State) (op : Nat) (f : Option Nat → State → List Nat → State) : Host.Outcome State Fault Refusal :=
  serveMsg row m s (fun ep s => gated m ep s .partition none (fun s =>
    if m.payload.length ≠ 32 || pay m 127 120 ≠ op || pay m 119 0 ≠ 0 || pay m 191 128 = 0 then some (answer s m ep 1 0)
    else match pagesOf s (ep.getD 0) (pay m 255 192) (pay m 191 128) with
      | none => some (answer s m ep 3 0)
      | some ps => some (f ep s ps)))

/-- PIN: every count rises, or none. -/
def execPin (m : Msg) (s : State) : Host.Outcome State Fault Refusal :=
  onPin .pin m s 0 (fun ep s ps =>
    let part := ep.getD 0
    if ps.any (fun p => 65535 ≤ pinCount s part p) then answer s m ep 5 0 else answer (pinPages s part ps) m ep 0 ps.length)

/-- UNPIN: every count falls, or none. -/
def execUnpin (m : Msg) (s : State) : Host.Outcome State Fault Refusal :=
  onPin .unpin m s 1 (fun ep s ps =>
    let part := ep.getD 0
    if ps.any (fun p => pinCount s part p == 0) then answer s m ep 3 0 else answer (unpinPages s part ps) m ep 0 ps.length)

end Sys2Proof.Machine
end

