-- ==== Sys2Proof/Machine/EvidenceOps.lean ====
section
/-!
DEFINITION. Reading evidence and state: DUMPREAD, RESYNC and ATTEST (R25, R29, R426 to R428, R432, R435 to R437, R441).
-/

namespace Sys2Proof.Machine

/-- Writes bytes to host memory. -/
def hostPut (s : State) (a : Nat) (bs : List Byte) : State := { s with host := memWriteN s.host a bs }

/-! ## DUMPREAD (R427, R428) -/

/-- The fields of a DUMPREAD are in their ranges; LEN, OFF and HADDR are zero for a release. -/
def dumpreadOk (m : Msg) : Bool :=
  let what := pay m 82 80
  let len := pay m 191 160
  let sel := pay m 95 88
  m.payload.length == 32 && pay m 79 0 == 0 && what ≤ 4 &&
    (if what = 4 then pay m 255 96 == 0 else pay m 255 192 % 64 == 0 && pay m 159 96 % 64 == 0 && len % 64 == 0 && 64 ≤ len && len ≤ 16777216) &&
    (if what = 2 then sel == 0 else if what = 3 then true else 1 ≤ sel && sel ≤ 63)

/-- What DUMPREADs share: the feature, the fields, the partition whose evidence is read. -/
def onDumpread (row : Row) (m : Msg) (s : State) (place : Place) (f : Option Nat → State → Nat → State) : Host.Outcome State Fault Refusal :=
  serveMsg row m s (fun ep s => gated m ep s .both (some 8) (fun s =>
    let wrong := match place, ep with | .partition, none => true | _, _ => false
    if !dumpreadOk m then some (answer s m ep 1 0)
    else if wrong || (match ep with | some p => pay m 87 83 != p | none => false) then some (answer s m ep 3 0)
    else some (f ep s (pay m 87 83))))

/-- Sends the part of an object that a DUMPREAD asks for. -/
def sendPart (s : State) (m : Msg) (ep : Option Nat) (obj : List Byte) : State :=
  let bs := (obj.drop (pay m 159 96)).take (pay m 191 160)
  answer (hostPut s (pay m 255 192) bs) m ep 0 bs.length

/-- A directory entry in use, by its number. -/
def entryOf (s : State) (part num : Nat) : Option Dump := (getP s part).dumps.find? (fun d => d.num == num && d.state == 2)

/-- The first poisoned line of a physical range. -/
def linePoison (s : State) (pa n : Nat) : Option Nat :=
  ((List.range ((n + 63) / 64)).find? (fun k => poisoned s (pa / 64 + k))).map (fun k => pa / 64 * 64 + 64 * k)

/-- DUMPREAD_CLEARTEXT. -/
def execDumpreadCleartext (m : Msg) (s : State) : Host.Outcome State Fault Refusal :=
  onDumpread .dumpCleartext m s .both (fun ep s part => match entryOf s part (pay m 95 88) with
    | none => answer s m ep 5 0
    | some d =>
      let pa := (areaOf (getP s part) 5).2.1 + d.off
      match linePoison s pa 1024 with
      | some a => answer s m ep 6 a
      | none => sendPart s m ep (memReadN s.hbm pa 1024))

/-- DUMPREAD_BODY: decrypted under the partition's dump key, and only where the tag agrees. -/
def execDumpreadBody (m : Msg) (s : State) : Host.Outcome State Fault Refusal :=
  onDumpread .dumpBody m s .partition (fun ep s part => match entryOf s part (pay m 95 88) with
    | none => answer s m ep 5 0
    | some d =>
      let p := getP s part
      let pa := (areaOf p 5).2.1 + d.off
      match linePoison s pa d.len with
      | some a => answer s m ep 6 a
      | none =>
        let key := memNat s.hbm (pa + 0x4C) 4
        let plain := Config.decrypt part key (memNat s.hbm (pa + 0x40) 8) (memReadN s.hbm pa 64) (memReadN s.hbm (pa + 0x400) (d.len - 0x400))
          (BitVec.ofNat 128 (memNat s.hbm (pa + 0x50) 16))
        match plain with
        | some b => if key = p.keygen then sendPart s m ep ((b ++ List.replicate (d.len - 0x400) 0).take (d.len - 0x400)) else answer s m ep 6 0
        | none => answer s m ep 6 0)

/-- A sediment entry as an endpoint reads it (R432). -/
def sedimentView (ep : Option Nat) (e : BitVec 256) : BitVec 256 :=
  let dev := e.getLsbD 16
  match ep with
  | none => if dev then e else Bits.put e 128 64 0
  | some p => if dev || Bits.nat e 21 17 == p then e else BitVec.ofNat 256 (packFields [(32, 32, Bits.nat e 63 32), (0, 1, if e.getLsbD 0 then 1 else 0)])

/-- DUMPREAD_SEDIMENT: the entry with number SEQ lies at index SEQ mod 8,192 (R429). -/
def execDumpreadSediment (m : Msg) (s : State) : Host.Outcome State Fault Refusal :=
  onDumpread .dumpSediment m s .both (fun ep s _ =>
    sendPart s m ep (blockBytes 0x40000 (s.sediment.map (fun e => (32 * (Bits.nat e 63 32 % 8192), 32, (sedimentView ep e).toNat)))))

/-- The region of a partition whose helm core has a logical id and whose ring is frozen. -/
def frozenRing (s : State) (part lid : Nat) : Option Region :=
  ((List.range 256).find? (fun r => (getP s part).regions.getLsbD r && (getH s r).lid == lid && (getR s r).ringFrozen)).map (getR s)

/-- DUMPREAD_WAKE_RING. -/
def execDumpreadWakeRing (m : Msg) (s : State) : Host.Outcome State Fault Refusal :=
  onDumpread .dumpRing m s .partition (fun ep s part => match frozenRing s part (pay m 95 88) with
    | none => answer s m ep 5 0
    | some g => sendPart s m ep (blockBytes 0x10000 (g.ring.map (fun e => (16 * e.1, 16, e.2.toNat)))))

/-- DUMPREAD_RELEASE: the entry and its space are free again, and its queue is held no more. -/
def execDumpreadRelease (m : Msg) (s : State) : Host.Outcome State Fault Refusal :=
  onDumpread .dumpRelease m s .both (fun ep s part => match entryOf s part (pay m 95 88) with
    | none => answer s m ep 5 0
    | some d =>
      let p := getP s part
      answer (dumpPut (setP s part { p with dumps := p.dumps.erase d }) part d.num 0) m ep 0 0)

/-! ## State words (R436) -/

/-- Firmware: running slot, slots valid, update in progress. -/
def fwWord (s : State) : Nat :=
  let bit := fun (b : Bool) => if b then 1 else 0
  packFields [(0, 1, bit s.running), (1, 1, bit (vGet Slot.reset s.fw 0).valid), (2, 1, bit (vGet Slot.reset s.fw 1).valid),
    (3, 1, bit (s.update.isSome || s.pendingSwitch))]

/-- Digest of a slot's image (R24). -/
def slotDigest (s : State) (k : Nat) : Nat := let x := vGet Slot.reset s.fw k; (Config.sha512 (memReadN x.image 0 x.len)).toNat

/-- Spares used, and the regions that are offline. -/
def spareWord (s : State) : Nat :=
  packFields ((List.range 4).map (fun r => (4 * r, 4, spareMap s r)) ++ [(16, 16, (s.regions.filter (fun e => e.2.offline)).length)])

/-- Pseudo-channels spared, and those that are offline. -/
def pcWord (s : State) : Nat :=
  packFields [(0, 16, (s.pcs.filter (fun x => !x.2.2)).length), (16, 16, (s.pcs.filter (fun x => x.2.2)).length)]

/-- Regions of a partition. -/
def regionCount (p : Partition) : Nat := ((List.range 256).filter (fun r => p.regions.getLsbD r)).length

/-- State of a launch; one that is over and whose completion is not written yet counts as running (log 108). -/
def launchCode (x : Launch) : Nat :=
  match x.phase with
  | .waiting => 0
  | .preempted => 2
  | .rerun => 3
  | .dredging => 4
  | _ => 1

/-- State of a port: 0 down, 1 up, 2 retrying, 3 disabled. -/
def portCode (p : EthPort) : Nat := if p.up then (if p.tries = 0 then 1 else 2) else if p.disabled then 3 else 0

/-! ## RESYNC (R435 to R437) -/

/-- Partitions and launches that an endpoint sees. -/
def seenParts (s : State) (ep : Option Nat) : List (Nat × Partition) :=
  s.parts.filter (fun e => e.2.present && (match ep with | some p => e.1 == p | none => true))

/-- Launches that an endpoint sees. -/
def seenLaunches (s : State) (ep : Option Nat) : List Launch :=
  (s.launches.filter (fun e => isLive s e.2 && (match ep with | some p => e.2.part == p | none => true))).map (·.2)

/-- Record of a partition. -/
def partFields (s : State) (e : Nat × Partition) : Fields :=
  let p := e.2
  let b := 0x100 + 128 * e.1
  let depth := fun (q : Nat) => min 255 (inQueue s e.1 q).length
  let maps := (areaOf p 3).2.2
  [(b, 1, if p.resetting then 2 else 1), (b + 2, 2, regionCount p), (b + 0x18, 8, p.fenceW), (b + 0x20, 8, p.faultProd), (b + 0x28, 8, p.counterSeq),
   (b + 0x30, 8, if maps = 0 then 0 else p.mapNext % maps), (b + 0x38, 1, (p.dumps.filter (fun d => d.state == 2)).length),
   (b + 0x39, 1, ((p.dumps.filter (·.hold)).map (·.queue)).eraseDups.length)] ++ (List.range 16).map (fun q => (b + 8 + q, 1, depth q))

/-- Record of a launch. -/
def launchFields (ep : Option Nat) (k : Nat) (x : Launch) : Fields :=
  let b := 0x1100 + 32 * k
  [(b, 8, x.ltag.toNat),
   (b + 8, 8, packFields [(0, 5, x.part), (8, 2, x.qsel), (10, 2, x.prio), (12, 4, launchCode x), (16, 8, if isPlaced x then x.place.headD 0 else 0)]),
   (b + 16, 8, if ep.isNone then 0 else rcSigaddr x.record), (b + 24, 8, x.window)]

/-- The summary. -/
def summary (s : State) (k : Nat) (ep : Option Nat) : Fields :=
  let ls := seenLaunches s ep
  let ps := seenParts s ep
  [(0, 8, packFields [(0, 8, 1), (32, 32, 0x1100 + 32 * ls.length)]), (8, 8, s.now), (0x10, 8, s.sedSeq), (0x18, 8, fwWord s),
   (0x20, 64, slotDigest s 0), (0x60, 64, slotDigest s 1), (0xA0, 16, featSet), (0xB0, 16, (getC s k).features.toNat),
   (0xC0, 8, packFields ((List.range 16).map (fun n => (4 * n, 4, portCode (aGet EthPort.reset s.ports n))))),
   (0xC8, 8, spareWord s), (0xD0, 8, pcWord s), (0xD8, 4, packFields (ps.map (fun e => (e.1, 1, 1)))), (0xDC, 4, ls.length),
   (0xE0, 8, ps.foldl (fun n e => n + e.2.dropped) 0)] ++
    ps.flatMap (partFields s) ++ (ls.zip (List.range ls.length)).flatMap (fun x => launchFields ep x.2 x.1)

/-- RESYNC: the summary in host memory, or the length that it needs. -/
def execResync (m : Msg) (s : State) : Host.Outcome State Fault Refusal :=
  serveMsg .resync m s (fun ep s => gated m ep s .both none (fun s =>
    let n := 0x1100 + 32 * (seenLaunches s ep).length
    if m.payload.length ≠ 32 || pay m 159 0 ≠ 0 then some (answer s m ep 1 0)
    else if pay m 191 160 < n then some (answer s m ep 5 n)
    else some (answer (hostPut s (pay m 255 192) (blockBytes n (summary s m.conn ep))) m ep 0 n)))

/-! ## ATTEST (R25, R29, R441) -/

/-- The report without its signature. -/
def reportFields (s : State) (nonce : Nat) : Fields :=
  [(0, 32, nonce), (0x20, 8, s.now), (0x28, 8, packFields [(0, 16, 0x7140), (16, 8, Config.stepping.toNat)]),
   (0x30, 16, Config.serial.toNat), (0x40, 64, slotDigest s 0), (0x80, 64, slotDigest s 1), (0xC0, 8, fwWord s), (0xC8, 8, spareWord s),
   (0xD0, 8, pcWord s)] ++
    (s.parts.filter (fun e => e.2.present)).flatMap (fun e =>
      let b := 0x100 + 16 * e.1
      [(b, 1, 1), (b + 2, 2, regionCount e.2), (b + 4, 4, e.2.keygen), (b + 8, 4, (e.2.ranges.foldl (fun n x => n + x.2) 0) / 2 ^ 21)])

/-- ATTEST: a signed report in the next slot of the connection's data area; one that cannot be signed or stored is FAILED, with
ATTESTERR. -/
def execAttest (m : Msg) (s : State) : Host.Outcome State Fault Refusal :=
  serveMsg .attest m s (fun ep s => gated m ep s .both (some 6) (fun s =>
    let c := getC s m.conn
    let body := blockBytes 0x400 (reportFields s (payNat m))
    if m.payload.length ≠ 32 then some (answer s m ep 1 0)
    else if c.dlen < 2048 then some (answer (devRec s 0x87 0 9 0) m ep 6 0)
    else match Config.sign (Bits.bytesOf 64 (Config.sha512 body).toNat) with
      | none => some (answer (devRec s 0x87 0 9 0) m ep 6 0)
      | some sig =>
        let a := c.data.toNat + c.dnext
        let s := setC s m.conn { c with dnext := (c.dnext + 2048) % c.dlen }
        some (answer (hostPut s a (body ++ (sig ++ List.replicate 512 0).take 512)) m ep 0 a)))

end Sys2Proof.Machine
end

