-- ==== Sys2Proof/Machine/DeviceOps.lean ====
section
/-!
DEFINITION. The device as a whole: firmware and power (R24, R26, R33, R431), partitions (R22, R23, R27, R34) and the ports
(R420, R439).
-/

namespace Sys2Proof.Machine

/-! ## Firmware (R24, R26, R33, R441) -/

/-- The slot that does not run. -/
def idleSlot (s : State) : Nat := if s.running then 0 else 1

/-- Writes a firmware slot. -/
def setSlot (s : State) (k : Nat) (x : Slot) : State := { s with fw := vSet s.fw k x }

/-- UPDATE_PIECE: data into the inactive slot. The first piece opens the update: it empties the slot and marks it invalid, so that
a valid image there is lost as the update opens (log 77). -/
def execUpdatePiece (m : Msg) (s : State) : Host.Outcome State Fault Refusal :=
  serveMsg .updatePiece m s (fun ep s => gated m ep s .management (some 7) (fun s =>
    let off := pay m 255 192
    let total := pay m 191 160
    let data := m.payload.drop 32
    let k := idleSlot s
    if m.payload.length < 32 || pay m 159 152 ≠ 0 || pay m 151 0 ≠ 0 || 67108864 < total || total < off + data.length then some (answer s m ep 1 0)
    else if s.pendingSwitch || (match s.update with | some u => u.total != total | none => false) then some (answer s m ep 4 0)
    else
      let u := s.update.getD { total := total, got := [], verifying := false }
      let x := if s.update.isSome then vGet Slot.reset s.fw k else { image := [], len := total, valid := false }
      let u := { u with got := (List.range data.length).foldl (fun g i => setAdd g (off + i)) u.got }
      some (answer (setSlot { s with update := some u } k { x with image := memWriteN x.image off data }) m ep 0 u.got.length)))

/-- UPDATE_COMMIT: a whole image is verified; one that passes takes over at the next switch. The message completes with OK at the
verification, before the takeover; its OFF and TOTAL are not looked at, and with no update open it is BADMSG (log 77). -/
def execUpdateCommit (m : Msg) (s : State) : Host.Outcome State Fault Refusal :=
  serveMsg .updateCommit m s (fun ep s => gated m ep s .management (some 7) (fun s =>
    let k := idleSlot s
    let x := vGet Slot.reset s.fw k
    if m.payload.length ≠ 32 || pay m 151 0 ≠ 0 then some (answer s m ep 1 0)
    else if s.pendingSwitch then some (answer s m ep 4 0)
    else match s.update with
      | none => some (answer s m ep 1 0)
      | some u =>
        if u.got.length ≠ u.total then some (answer s m ep 1 0)
        else if Config.fwVerify (memReadN x.image 0 x.len) then
          some (answer (setSlot { s with update := none, pendingSwitch := true } k { x with valid := true }) m ep 0 0)
        else some (answer (devRec (setSlot { s with update := none } k { x with valid := false }) 0x88 0 9 0) m ep 6 0)))

/-- UPDATE_ABORT: the open update is discarded, and the slot is invalid; OFF and TOTAL are not looked at (log 77). -/
def execUpdateAbort (m : Msg) (s : State) : Host.Outcome State Fault Refusal :=
  serveMsg .updateAbort m s (fun ep s => gated m ep s .management (some 7) (fun s =>
    let k := idleSlot s
    if m.payload.length ≠ 32 || pay m 151 0 ≠ 0 then some (answer s m ep 1 0)
    else if s.pendingSwitch then some (answer s m ep 4 0)
    else some (answer (setSlot { s with update := none } k { vGet Slot.reset s.fw k with valid := false }) m ep 0 0)))

/-- FIRMWARE_SWITCH: the verified image takes over; everything else goes on. -/
def execFirmwareSwitch (s : State) : Host.Outcome State Fault Refusal :=
  if s.pendingSwitch then .next (devRec { s with running := !s.running, pendingSwitch := false } 0x89 0 9 0) else .next s

/-! ## Power (R24, R431) -/

/-- SHA-512 over the entries of a copy, each of 32 bytes. -/
def copyDigest (es : List (BitVec 256)) : BitVec 512 := Config.sha512 (es.flatMap (fun e => Bits.bytesOf 32 e.toNat))

/-- A non-volatile copy has been written, and its digest passes. -/
def copyOk (c : NvCopy) : Bool := !c.entries.isEmpty && c.digest == copyDigest c.entries

/-- The entries of the newest non-volatile copy of the sediment record whose digest passes; none where neither does. -/
def newestCopy (s : State) : List (BitVec 256) :=
  let a := vGet NvCopy.reset s.nvram (if s.nvNext then 0 else 1)
  let b := vGet NvCopy.reset s.nvram (if s.nvNext then 1 else 0)
  if copyOk a then a.entries else if copyOk b then b.entries else []

/-- The record at boot: retained, or the newest copy, with BOOTREC. -/
def bootRecord (s : State) : State :=
  let f := freshen s
  let s := f.2
  if Config.retained f.1 then devRec s 0x8B 0 9 0
  else
    let c := newestCopy s
    devRec { s with sediment := c, sedSeq := match c.getLast? with | some e => (Bits.nat e 63 32 + 1) % 2 ^ 32 | none => 0 } 0x8B 0 9 0

/-- POWER_ON: the Levee verifies image A, then image B, and starts the first that passes. -/
def execPowerOn (s : State) : Host.Outcome State Fault Refusal :=
  if s.booted then .next s
  else
    let a := Config.romImage false
    let b := Config.romImage true
    let slot := fun (x : List Byte) (ok : Bool) => ({ image := memWriteN [] 0 x, len := x.length, valid := ok } : Slot)
    let okA := Config.fwVerify a
    let okB := Config.fwVerify b
    let s := bootRecord { s with booted := true }
    let s := if okA then s else devRec s 0x88 0 9 0
    let s := if okA || okB then s else devRec s 0x88 0 9 0
    .next (setSlot (setSlot { s with running := !okA && okB } 0 (slot a okA)) 1 (slot b okB))

/-- POWERWARN: the notice, and the record goes into the next of the two copies, with its digest. -/
def execPowerwarn (s : State) : Host.Outcome State Fault Refusal :=
  let s := devRec s 0x8A 0 9 0
  let c : NvCopy := { entries := s.sediment, digest := copyDigest s.sediment }
  .next { s with nvram := vSet s.nvram (if s.nvNext then 1 else 0) c, nvNext := !s.nvNext }

/-! ## PARTCTL (R22, R23, R34) -/

/-- A field of the payload at a byte offset. -/
def payAt (m : Msg) (off n : Nat) : Nat := at_ m.payload off n

/-- REGIONS. -/
def pcRegions (m : Msg) : BitVec 256 := BitVec.ofNat 256 (payAt m 0x20 32)

/-- HBM ranges in use. -/
def pcRanges (m : Msg) : List (Nat × Nat) := ((List.range 8).map (fun k => (payAt m (0x40 + 16 * k) 8, payAt m (0x48 + 16 * k) 8))).filter (fun x => x.2 != 0)

/-- Table pools. -/
def pcPools (m : Msg) : List (Nat × Nat) := (List.range 8).map (fun k => (payAt m (0xC0 + 16 * k) 8, payAt m (0xC8 + 16 * k) 8))

/-- Areas: virtual address, physical address, count. -/
def pcAreas (m : Msg) : List (Nat × Nat × Nat) :=
  (List.range 6).map (fun k => (payAt m (0x140 + 32 * k) 8, payAt m (0x148 + 32 * k) 8, payAt m (0x150 + 32 * k) 8))

/-- Endpoints in use. -/
def pcEndpoints (m : Msg) : List (BitVec 128) := ((List.range 4).map (fun k => BitVec.ofNat 128 (payAt m (0x200 + 16 * k) 16))).filter (· != 0)

/-- A range is aligned to 2 MiB and lies in memory that a stack populates. -/
def rangeOk (x : Nat × Nat) : Bool :=
  x.1 % 2 ^ 21 == 0 && x.2 % 2 ^ 21 == 0 && x.1 < 2 ^ 40 && x.1 / 2 ^ 37 == (x.1 + x.2 - 1) / 2 ^ 37 && x.1 % 2 ^ 37 + x.2 ≤ 80 * 10 ^ 9

/-- A table pool of a stack. -/
def poolOk (rs : List (Nat × Nat)) (k : Nat) (x : Nat × Nat) : Bool :=
  x.1 % 2 ^ 21 == 0 && x.2 % 4096 == 0 && 65536 ≤ x.2 && x.1 / 2 ^ 37 == k && insideRanges rs x.1 x.2

/-- An area's addresses and count. -/
def areaOk (k : Nat) (x : Nat × Nat × Nat) : Bool :=
  x.1 % 65536 == 0 && x.2.1 % 65536 == 0 && x.1 / 2 ^ 54 < 8 && x.1 / 2 ^ 54 == x.2.1 / 2 ^ 37 && x.1 % 2 ^ 54 + areaLen k x.2.2 ≤ 2 ^ 54 &&
    (if k = 5 then 4194304 ≤ x.2.2 else isPow2 x.2.2 && (k != 1 || 64 ≤ x.2.2))

/-- The length, the operation and the zeros of a PARTCTL payload are not as R34 has them. The fields that an operation does not use
(regions, ranges, pools, areas and endpoints of a delete, a reset and a spare remap) are not looked at (log 78). -/
def partctlBad (m : Msg) (op : Nat) : Bool :=
  m.payload.length ≠ 576 || pay m 7 0 ≠ op || bitsAt (payAt m 0 8) 63 24 ≠ 0 || bitsAt (payAt m 0 8) 15 13 ≠ 0 ||
    (op ≠ 4 && bitsAt (payAt m 0 8) 23 16 ≠ 0) || payAt m 8 24 ≠ 0

/-- What every PARTCTL shares: its operation, its partition, and zeros. -/
def onPartctl (row : Row) (m : Msg) (s : State) (op : Nat) (f : Option Nat → State → Nat → Option State) : Host.Outcome State Fault Refusal :=
  serveMsg row m s (fun ep s => gated m ep s .management none (fun s =>
    if partctlBad m op then some (answer s m ep 1 0)
    else f ep s (pay m 12 8)))

/-- A region belongs to a partition other than one. -/
def takenBy (s : State) (p r : Nat) : Bool := s.parts.any (fun e => e.1 != p && e.2.present && e.2.regions.getLsbD r)

/-- A range overlaps one of a partition other than one. -/
def rangeTaken (s : State) (p : Nat) (x : Nat × Nat) : Bool := s.parts.any (fun e => e.1 != p && e.2.present && e.2.ranges.any (overlaps x))

/-- Clears a region that moves between partitions (R23). -/
def clearRegion (s : State) (r : Nat) : State := setR s r (clearedRegion (getR s r))

/-- Builds the root of each stack's tables, at the start of the pools. -/
def buildRoots (s : State) (p : Nat) : Option State :=
  (List.range 8).foldl (fun (acc : Option State) k => acc.bind (fun s => (takeTable s p k 512).map (fun x =>
    let q := getP x.1 p
    setP x.1 p { q with roots := q.roots ++ [x.2] }))) (some s)

/-- Maps an area on 64 KiB pages, readable and writable, and clears it. -/
def mapArea (s : State) (p k : Nat) (x : Nat × Nat × Nat) : Option State :=
  let n := up64K (areaLen k x.2.2)
  (List.range (n / 65536)).foldl (fun (acc : Option State) i => acc.bind (fun s =>
    mapLeaf p (x.1 + 65536 * i) 1 (leafEntry p 1 3 (x.2.1 + 65536 * i)) walkLevels ((getP s p).roots.getD (x.1 / 2 ^ 54) 0) s))
    (some (deviceRun s x.2.1 n 0 []))

/-- The partition that a create describes, with its tables; none where a pool is too small. -/
def createPart (s : State) (m : Msg) (p : Nat) : Option State :=
  let old := getP s p
  let new := { Partition.reset with
    present := true, regions := pcRegions m, ranges := pcRanges m, pools := (pcPools m).map (fun x => (x.1, x.2, x.1)), areas := pcAreas m,
    endpoints := pcEndpoints m, keygen := old.keygen + 1 }
  let s := (regionList (pcRegions m)).foldl clearRegion (setP s p new)
  let s := ((pcAreas m).zip (List.range 6)).foldl (fun (acc : Option State) a => acc.bind (fun s => mapArea s p a.2 a.1)) (buildRoots s p)
  s.map (fun s => hbmPutNat s (areaOf (getP s p) 5).2.1 8 (areaOf (getP s p) 5).2.2)

/-- PARTCTL_CREATE. -/
def execPartctlCreate (m : Msg) (s : State) : Host.Outcome State Fault Refusal :=
  onPartctl .partCreate m s 0 (fun ep s p =>
    let rs := pcRanges m
    let zip := (List.range 6).zip (pcAreas m)
    if !rs.all rangeOk || !((List.range 8).zip (pcPools m)).all (fun x => poolOk rs x.1 x.2) || !zip.all (fun a => areaOk a.1 a.2) ||
        (List.range 6).any (fun k => payAt m (0x158 + 32 * k) 8 != 0) then some (answer s m ep 1 0)
    else if (getP s p).present || (regionList (pcRegions m)).any (fun r => takenBy s p r || (getR s r).offline) || rs.any (rangeTaken s p) ||
        !zip.all (fun a => insideRanges rs a.2.2.1 (up64K (areaLen a.1 a.2.2.2))) ||
        (pcEndpoints m).any (fun d => (endpointOf s d).isSome) then some (answer s m ep 3 0)
    else match createPart s m p with
      | none => some (answer s m ep 5 0)
      | some t => some (answer t m ep 0 0))

/-- PARTCTL_RESIZE. -/
def execPartctlResize (m : Msg) (s : State) : Host.Outcome State Fault Refusal :=
  onPartctl .partResize m s 1 (fun ep s p =>
    let q := getP s p
    let rs := pcRanges m
    let new := pcRegions m
    let added := (regionList new).filter (fun r => !q.regions.getLsbD r)
    let gone := (regionList q.regions).filter (fun r => !new.getLsbD r)
    if !rs.all rangeOk || payAt m 0xC0 384 ≠ 0 then some (answer s m ep 1 0)
    else if !q.present || added.any (takenBy s p) || rs.any (rangeTaken s p) then some (answer s m ep 3 0)
    else if added.any (fun r => (getR s r).offline) || gone.any (fun r => (getR s r).launch.isSome) ||
        (pagesMapped s p).any (fun x => !insideRanges rs x.1 x.2) || q.pools.any (fun x => !insideRanges rs x.1 x.2.1) then some (answer s m ep 4 0)
    else some (answer ((added ++ gone).foldl clearRegion (setP s p { q with regions := new, ranges := rs })) m ep 0 0))

/-- PARTCTL_DELETE: its open fence waits end with FAILED. -/
def execPartctlDelete (m : Msg) (s : State) : Host.Outcome State Fault Refusal :=
  onPartctl .partDelete m s 2 (fun ep s p =>
    let q := getP s p
    if !q.present then some (answer s m ep 3 0)
    else if anyLive s p then some (answer s m ep 4 0)
    else
      let waits := s.hostWaits.filter (fun w => w.part.toNat == p)
      let s := { s with hostWaits := s.hostWaits.filter (fun w => w.part.toNat != p) }
      let s := waits.foldl (fun s w => complMsg s w.conn { tag := w.tag, value := 0, typ := tyFENCE, status := 6, part := w.part, seq := w.seq }) s
      let s := { s with pins := s.pins.filter (fun e => e.1 / 2 ^ 57 != p), tcache := s.tcache.filter (fun k => k.2.1 != p),
                        comps := q.ranges.foldl (fun l x => cutRange l x.1 x.2) s.comps }
      let s := (regionList q.regions).foldl clearRegion s
      some (answer (setP s p { Partition.reset with keygen := q.keygen }) m ep 0 0))

/-- A management message would be carried out now: it is new and in order, there is room for its completion, and its header
holds (R17, R19, R20). -/
def comesNow (row : Row) (m : Msg) (s : State) : Bool :=
  let c := getC s m.conn
  arrives s m && msgRow s m == row && endpointOf s m.dest == some none && !fallback s && !hdrBad m && !ringHolds c row &&
    !behindHeld c row m && !c.seqs.contains (mSeq m) && !(onRod c m && c.last.any (fun q => (mSeq m).toNat < q.toNat))

/-- PARTCTL_RESET: by R381; it waits for dredges, and the partition shows that it does (R436). -/
def execPartctlReset (m : Msg) (s : State) : Host.Outcome State Fault Refusal :=
  let p := pay m 12 8
  let s := if comesNow .partReset m s && !partctlBad m 3 && (getP s p).present && !resetReady s p then resetWaits s p else s
  onPartctl .partReset m s 3 (fun ep s p =>
    if !(getP s p).present then some (answer s m ep 3 0)
    else if !resetReady s p then none
    else some (answer (partReset s p 0 0) m ep 0 0))

/-- A persistent graph on a region is asked to move away (R27). -/
def askAway (s : State) (r : Nat) : State :=
  match launchOf s r with
  | some (l, x) => if rcPersist x.record && !x.wantEbb && cuttable x then askCut s l x else s
  | none => s

/-- PARTCTL_SPARE_REMAP: by R27; it waits until the region holds no graph, and a persistent one is first asked to move. -/
def execPartctlSpareRemap (m : Msg) (s : State) : Host.Outcome State Fault Refusal :=
  let r := pay m 23 16
  let busy := fun (s : State) => (getP s (pay m 12 8)).present && (getP s (pay m 12 8)).regions.getLsbD r && sparesUsed s r < 4 && (getR s r).launch.isSome
  let s := if comesNow .partSpare m s && !partctlBad m 4 && busy s then askAway s r else s
  onPartctl .partSpare m s 4 (fun ep s p =>
    if !(getP s p).present || !(getP s p).regions.getLsbD r then some (answer s m ep 3 0)
    else if 4 ≤ sparesUsed s r then some (answer s m ep 5 0)
    else if (getR s r).launch.isSome then none
    else some (answer (useSpare s r) m ep 0 0))

/-! ## Ports (R420, R439) -/

/-- Placed graphs whose chains cross a port, in ascending partition (R430). -/
def crossing (s : State) (port : Nat) : List Nat :=
  (List.range 32).flatMap (fun p => (s.launches.filter (fun e => e.2.part == p && isPlaced e.2 && crosses e.2 port)).map (·.1))

/-- LINKDOWN: the notice goes to each graph whose chain crosses the port, else to the device; those graphs roll back. -/
def execLinkdown (port : BitVec 4) (s : State) : Host.Outcome State Fault Refusal :=
  let k := port.toNat
  let p := aGet EthPort.reset s.ports k
  if !p.up then .next s
  else
    let s := { s with ports := aSet s.ports k { p with up := false, downSince := s.now, tries := 0 } }
    match crossing s k with
    | [] => .next (devRec s 0x84 0 8 0)
    | ls => .next (ls.foldl (fun s l => chainDown (launchRec s l 8 0 { cause := 0x84, arg := k, tval := 0, hdr := 0 }) l k) s)

/-- LINKUP: a port that is not disabled is up again, and the chains across it go on. -/
def execLinkup (port : BitVec 4) (s : State) : Host.Outcome State Fault Refusal :=
  let k := port.toNat
  let p := aGet EthPort.reset s.ports k
  if p.up || p.disabled then .next s
  else
    let ls := aMap (fun _ (x : Launch) => { x with chainSince := aDel x.chainSince k }) s.launches
    .next (devRec { s with ports := aSet s.ports k { p with up := true, tries := 0 }, launches := ls } 0x85 0 8 0)

/-- CHAINDOWN_TIMEOUT: a port has stayed down for 100 ms since a graph's chain met it. -/
def execChaindownTimeout (port : BitVec 4) (l : Nat) (s : State) : Host.Outcome State Fault Refusal :=
  let k := port.toNat
  let p := aGet EthPort.reset s.ports k
  match getL s l with
  | none => .next s
  | some x =>
    let due := match aFind x.chainSince k with | some t => decide (t + 100000000 ≤ s.now) | none => false
    if p.up || !due || !isPlaced x || !crosses x k || x.phase == .dredging then .next s
    else
      .next (graphFatal (launchRec s l 8 2 { cause := 0x50, arg := 1, tval := BitVec.ofNat 64 k, hdr := 0 }) (x.place.headD 0) 0x50)

end Sys2Proof.Machine
end

