-- ==== Sys2Proof/Machine/MemEvents.lean ====
section
/-!
DEFINITION. What the base dies report of themselves: uncorrectable errors and poison, scrubbing, spared rows and retired
pseudo-channels (R404, R410 to R412, R425).
-/

namespace Sys2Proof.Machine

/-- The partition whose HBM ranges hold a physical address. -/
def ownerOf (s : State) (pa : Nat) : Option Nat :=
  (s.parts.find? (fun e => e.2.present && e.2.ranges.any (fun x => x.1 ≤ pa && pa < x.1 + x.2))).map (·.1)

/-- A record of a base die, in the ring of the partition that owns an address; where none does, no ring takes it. -/
def dieRec (s : State) (pa cls code arg : Nat) : State :=
  match ownerOf s pa with
  | some p => partRec s p 0 0 3 (pa / 2 ^ 37) cls (mkTrap code arg pa)
  | none => s

/-- An error in an image that is being written: its entry turns bad, with DREDGEERR (R425). -/
def imageError (s : State) (pa : Nat) : State :=
  s.launches.foldl (fun s e =>
    let x := e.2
    match dumpOf s e.1 x with
    | some d =>
      let base := (areaOf (getP s x.part) 5).2.1 + d.off
      if d.state = 1 && base ≤ pa && pa < base + d.len then
        let p := getP s x.part
        let s := setP s x.part { p with dumps := p.dumps.map (fun f => if f = d then { d with state := 3 } else f) }
        launchRec (dumpPut s x.part d.num (dumpWord x d 3)) e.1 8 0 { cause := 0x83, arg := d.num, tval := BitVec.ofNat 64 pa, hdr := 0 }
      else s
    | none => s) s

/-- An uncorrectable error: the line is poisoned, or the 64 lines of the sector for an error of its metadata. -/
def hbmError (s : State) (kind pa : Nat) : State :=
  let lines := if kind = 0 then [pa / 64] else (List.range 64).map (fun k => pa / 4096 * 64 + k)
  let s := { s with poison := lines.foldl setAdd s.poison,
                    hbmErrs := s.hbmErrs ++ [{ addr := pa, corrected := false, time := s.now, past := false }] }
  imageError (dieRec s pa 0 0x65 kind) pa

/-- HBMUE: 0 data, 1 compression metadata, 2 a CLEN of 9 to 15. -/
def execHbmue (kind : BitVec 2) (pa : BitVec 40) (s : State) : Host.Outcome State Fault Refusal :=
  if kind = 3 || !populated pa.toNat then .next s else .next (hbmError s kind.toNat pa.toNat)

/-- HBM_SCRUB: a line that had to be corrected is written back as it was, and counts towards its row's sparing; one that cannot
be corrected is an uncorrectable error. -/
def execHbmScrub (pa : BitVec 40) (corrected : Bool) (s : State) : Host.Outcome State Fault Refusal :=
  if !populated pa.toNat then .next s
  else if corrected then .next { s with hbmErrs := s.hbmErrs ++ [{ addr := pa.toNat, corrected := true, time := s.now, past := false }] }
  else .next (hbmError s 0 pa.toNat)

/-! ## Spares (R411, R412; log 29) -/

/-- The row of an address. -/
def rowAt (pa : Nat) : Nat := Config.rowOf (pa / 64)

/-- A row is to be spared: it has shown an uncorrectable error, or three corrected ones within 24 hours, since it was last
spared. -/
def rowDue (s : State) (row : Nat) : Bool :=
  let es := s.hbmErrs.filter (fun e => !e.past && rowAt e.addr == row)
  es.any (fun e => !e.corrected || 3 ≤ (es.filter (fun f => f.corrected && e.time ≤ f.time && f.time ≤ e.time + 24 * hourNs)).length)

/-- A bank has one of its 8 spare rows left. -/
def rowLeft (s : State) (row : Nat) : Bool := (s.rowspares.filter (fun x => Config.rowBank x == Config.rowBank row)).length < 8

/-- An address lies in a pseudo-channel of a stack. -/
def inPc (stack pc pa : Nat) : Bool := pa / 2 ^ 37 == stack && (Config.pcOf (pa / 64)).toNat == pc

/-- A pseudo-channel is to be retired: five of its rows are to be spared and cannot be, or three have shown uncorrectable errors
within an hour. -/
def pcDue (s : State) (stack pc : Nat) : Bool :=
  let es := s.hbmErrs.filter (fun e => inPc stack pc e.addr)
  let stuck := (((es.map (fun e => rowAt e.addr)).eraseDups).filter (fun row => rowDue s row && !rowLeft s row)).length
  let hard := es.filter (fun e => !e.corrected)
  5 ≤ stuck || hard.any (fun e =>
    3 ≤ (((hard.filter (fun f => e.time ≤ f.time && f.time ≤ e.time + hourNs)).map (fun f => rowAt f.addr)).eraseDups).length)

/-- ROWSPARE: a row that is to be spared stands in a spare of its bank; poisoned lines stay poisoned. -/
def execRowspare (pa : BitVec 40) (s : State) : Host.Outcome State Fault Refusal :=
  let row := rowAt pa.toNat
  if !populated pa.toNat || !rowDue s row || !rowLeft s row then .next s
  else
    let es := s.hbmErrs.map (fun e => if rowAt e.addr = row then { e with past := true } else e)
    .next (dieRec { s with rowspares := s.rowspares ++ [row], hbmErrs := es } pa.toNat 0 0x67 (Config.pcOf (pa.toNat / 64)).toNat)

/-- PCSPARE: a pseudo-channel that is to be retired stands on one of the two spares of its stack, or is offline; the partitions
with memory in the stack get the record, and the device alone where there is none. -/
def execPcspare (stack : BitVec 3) (pc : BitVec 7) (s : State) : Host.Outcome State Fault Refusal :=
  let k := stack.toNat
  let used := (s.pcs.filter (fun x => x.1 == k && !x.2.2)).length
  let off := decide (2 ≤ used)
  if !pcDue s k pc.toNat || s.pcs.any (fun x => x.1 == k && x.2.1 == pc.toNat && x.2.2) then .next s
  else
    let s := { s with pcs := s.pcs ++ [(k, pc.toNat, off)], hbmErrs := s.hbmErrs.filter (fun e => !inPc k pc.toNat e.addr) }
    let ps := (s.parts.filter (fun e => e.2.present && e.2.ranges.any (fun x => x.1 / 2 ^ 37 == k && x.2 != 0))).map (·.1)
    .next (if ps.isEmpty then devRec s 0x68 0 3 (pc.setWidth 64)
      else ps.foldl (fun s p => partRec s p 0 0 3 k 0 (mkTrap 0x68 (if off then 1 else 0) pc.toNat)) s)

end Sys2Proof.Machine
end

