-- ==== Sys2Proof/Machine/PredOps.lean ====
section
/-!
DEFINITION. Predicate instructions (R259, R260).
-/

namespace Sys2Proof.Machine

/-- A firing that writes p. -/
def firePred (n : Node) (p : Byte) : Except Trap Fire := .ok (fireRegs { n.regs with p := p })
/-- p with one predicate set or cleared. -/
def putPred (p : Byte) (k : Nat) (c : Bool) : Byte := Bits.put p k 1 (if c then 1 else 0)

/-- PSET (R259). -/
def execPset (t : BitVec 6) (m : BitVec 8) (s : State) : Host.Outcome State Fault Refusal :=
  issueFire (.pset t m) s false (fun n => firePred n (n.regs.p ||| m))
/-- PCLR (R259). -/
def execPclr (t : BitVec 6) (m : BitVec 8) (s : State) : Host.Outcome State Fault Refusal :=
  issueFire (.pclr t m) s false (fun n => firePred n (n.regs.p &&& ~~~m))
/-- PFLIP (R259). -/
def execPflip (t : BitVec 6) (m : BitVec 8) (s : State) : Host.Outcome State Fault Refusal :=
  issueFire (.pflip t m) s false (fun n => firePred n (n.regs.p ^^^ m))

/-- What PTEST tests: all 64 bits of a scalar, or a valid lane 0 (R259). -/
def testVal (n : Node) (a : Nat) : Bool :=
  if classOf a = 2 || classOf a = 16 then srcVal n a != 0
  else maskBit (srcMask n a) 0 && (srcLanes n a).get 0 != 0

/-- PTEST (R259). -/
def execPtest (t : BitVec 6) (p : BitVec 3) (a : BitVec 5) (s : State) : Host.Outcome State Fault Refusal :=
  issueFire (.ptest t p a) s false (fun n => firePred n (putPred n.regs.p p.toNat (testVal n a.toNat)))
/-- PANY (R259). -/
def execPany (t : BitVec 6) (p : BitVec 3) (a : BitVec 5) (s : State) : Host.Outcome State Fault Refusal :=
  issueFire (.pany t p a) s false (fun n =>
    let c := if classOf a.toNat = 2 || classOf a.toNat = 16 then testVal n a.toNat
      else (List.range 16).any (fun k => maskBit (srcMask n a.toNat) k && (srcLanes n a.toNat).get k != 0)
    firePred n (putPred n.regs.p p.toNat c))
/-- PALL (R259). -/
def execPall (t : BitVec 6) (p : BitVec 3) (a : BitVec 5) (s : State) : Host.Outcome State Fault Refusal :=
  issueFire (.pall t p a) s false (fun n =>
    let c := if classOf a.toNat = 2 || classOf a.toNat = 16 then testVal n a.toNat
      else (List.range 16).all (fun k => !maskBit (srcMask n a.toNat) k || (srcLanes n a.toNat).get k != 0)
    firePred n (putPred n.regs.p p.toNat c))

/-- PMOV D, z: p, zero-extended, into a scalar, into every lane of a vector, or onto a port (R260). -/
def execPmovRead (t : BitVec 6) (d : BitVec 5) (s : State) : Host.Outcome State Fault Refusal :=
  issueFire (.pmovRead t d) s false (fun n =>
    if classOf d.toNat = 2 then writeScalar n d.toNat (n.regs.p.setWidth 64) 0
    else writeVec n d.toNat 28 28 0 0xFFFF (Lanes.ofFn (fun _ => n.regs.p.setWidth 32)) 0 true)
/-- PMOV z, A: p from bits [7:0] of a scalar or of a valid lane 0 (R260). -/
def execPmovWrite (t : BitVec 6) (a : BitVec 5) (s : State) : Host.Outcome State Fault Refusal :=
  issueFire (.pmovWrite t a) s false (fun n =>
    firePred n (if maskBit (srcMask n a.toNat) 0 then (srcVal n a.toNat).setWidth 8 else n.regs.p))

end Sys2Proof.Machine
end

