-- ==== Sys2Proof/Machine/Dispatch.lean ====
section
/-!
DEFINITION. The meaning of every instruction, event and message of the opcode table: one direct call for each.
-/

namespace Sys2Proof.Machine

/-- One instruction, event or message carried out in a state. -/
def exec (i : Instr) (s : State) : Host.Outcome State Fault Refusal :=
  match i with
  | .nop t => Sys2Proof.Machine.execNop t s
  | .mov t d a y => Sys2Proof.Machine.execMov t d a y s
  | .movi t d im => Sys2Proof.Machine.execMovi t d im s
  | .movsh t d im => Sys2Proof.Machine.execMovsh t d im s
  | .add t d a b y => Sys2Proof.Machine.execAdd t d a b y s
  | .addi t d a im => Sys2Proof.Machine.execAddi t d a im s
  | .sub t d a b y => Sys2Proof.Machine.execSub t d a b y s
  | .adds t d a b y => Sys2Proof.Machine.execAdds t d a b y s
  | .subs t d a b y => Sys2Proof.Machine.execSubs t d a b y s
  | .mul t d a b y => Sys2Proof.Machine.execMul t d a b y s
  | .mulh t d a b y => Sys2Proof.Machine.execMulh t d a b y s
  | .mad t d a b y => Sys2Proof.Machine.execMad t d a b y s
  | .div t d a b y => Sys2Proof.Machine.execDiv t d a b y s
  | .rem t d a b y => Sys2Proof.Machine.execRem t d a b y s
  | .min t d a b y => Sys2Proof.Machine.execMin t d a b y s
  | .max t d a b y => Sys2Proof.Machine.execMax t d a b y s
  | .abs t d a y => Sys2Proof.Machine.execAbs t d a y s
  | .neg t d a y => Sys2Proof.Machine.execNeg t d a y s
  | .and t d a b y => Sys2Proof.Machine.execAnd t d a b y s
  | .andi t d a im => Sys2Proof.Machine.execAndi t d a im s
  | .or t d a b y => Sys2Proof.Machine.execOr t d a b y s
  | .ori t d a im => Sys2Proof.Machine.execOri t d a im s
  | .xor t d a b y => Sys2Proof.Machine.execXor t d a b y s
  | .andn t d a b y => Sys2Proof.Machine.execAndn t d a b y s
  | .shl t d a b y => Sys2Proof.Machine.execShl t d a b y s
  | .shli t d a im => Sys2Proof.Machine.execShli t d a im s
  | .shr t d a b y => Sys2Proof.Machine.execShr t d a b y s
  | .shri t d a im => Sys2Proof.Machine.execShri t d a im s
  | .sar t d a b y => Sys2Proof.Machine.execSar t d a b y s
  | .clz t d a y => Sys2Proof.Machine.execClz t d a y s
  | .popc t d a y => Sys2Proof.Machine.execPopc t d a y s
  | .bfx t d a b y => Sys2Proof.Machine.execBfx t d a b y s
  | .bfi t d a b y => Sys2Proof.Machine.execBfi t d a b y s
  | .sel t d a b y => Sys2Proof.Machine.execSel t d a b y s
  | .cmpeq t d a b y => Sys2Proof.Machine.execCmpeq t d a b y s
  | .cmpne t d a b y => Sys2Proof.Machine.execCmpne t d a b y s
  | .cmplt t d a b y => Sys2Proof.Machine.execCmplt t d a b y s
  | .cmple t d a b y => Sys2Proof.Machine.execCmple t d a b y s
  | .cmpeqi t d a im => Sys2Proof.Machine.execCmpeqi t d a im s
  | .cmplti t d a im => Sys2Proof.Machine.execCmplti t d a im s
  | .fadd t d a b y => Sys2Proof.Machine.execFadd t d a b y s
  | .fsub t d a b y => Sys2Proof.Machine.execFsub t d a b y s
  | .fmul t d a b y => Sys2Proof.Machine.execFmul t d a b y s
  | .ffma t d a b y => Sys2Proof.Machine.execFfma t d a b y s
  | .ffms t d a b y => Sys2Proof.Machine.execFfms t d a b y s
  | .fmin t d a b y => Sys2Proof.Machine.execFmin t d a b y s
  | .fmax t d a b y => Sys2Proof.Machine.execFmax t d a b y s
  | .fabs t d a y => Sys2Proof.Machine.execFabs t d a y s
  | .fneg t d a y => Sys2Proof.Machine.execFneg t d a y s
  | .fcmpeq t d a b y => Sys2Proof.Machine.execFcmpeq t d a b y s
  | .fcmplt t d a b y => Sys2Proof.Machine.execFcmplt t d a b y s
  | .fcmple t d a b y => Sys2Proof.Machine.execFcmple t d a b y s
  | .fcmpun t d a b y => Sys2Proof.Machine.execFcmpun t d a b y s
  | .frcpe t d a y => Sys2Proof.Machine.execFrcpe t d a y s
  | .frsqe t d a y => Sys2Proof.Machine.execFrsqe t d a y s
  | .fexp2 t d a y => Sys2Proof.Machine.execFexp2 t d a y s
  | .flog2 t d a y => Sys2Proof.Machine.execFlog2 t d a y s
  | .fdiv t d a b y => Sys2Proof.Machine.execFdiv t d a b y s
  | .fsqrt t d a y => Sys2Proof.Machine.execFsqrt t d a y s
  | .frnd t d a y => Sys2Proof.Machine.execFrnd t d a y s
  | .fclass t d a y => Sys2Proof.Machine.execFclass t d a y s
  | .fscl t d a b y => Sys2Proof.Machine.execFscl t d a b y s
  | .cvt t d a c y => Sys2Proof.Machine.execCvt t d a c y s
  | .cvts t d a c y => Sys2Proof.Machine.execCvts t d a c y s
  | .pack t d a b y => Sys2Proof.Machine.execPack t d a b y s
  | .unpkl t d a y => Sys2Proof.Machine.execUnpkl t d a y s
  | .unpkh t d a y => Sys2Proof.Machine.execUnpkh t d a y s
  | .qnt t d a b y => Sys2Proof.Machine.execQnt t d a b y s
  | .deq t d a b y => Sys2Proof.Machine.execDeq t d a b y s
  | .qdot t d a b y => Sys2Proof.Machine.execQdot t d a b y s
  | .scld t d a b y => Sys2Proof.Machine.execScld t d a b y s
  | .bcast t d a b y => Sys2Proof.Machine.execBcast t d a b y s
  | .perm t d a b y => Sys2Proof.Machine.execPerm t d a b y s
  | .lrot t d a im => Sys2Proof.Machine.execLrot t d a im s
  | .rsum t d a y => Sys2Proof.Machine.execRsum t d a y s
  | .rmax t d a y => Sys2Proof.Machine.execRmax t d a y s
  | .rmin t d a y => Sys2Proof.Machine.execRmin t d a y s
  | .scan t d a y => Sys2Proof.Machine.execScan t d a y s
  | .filter t d a y => Sys2Proof.Machine.execFilter t d a y s
  | .coal t d a y => Sys2Proof.Machine.execCoal t d a y s
  | .mskg t d a y => Sys2Proof.Machine.execMskg t d a y s
  | .msks t d a b y => Sys2Proof.Machine.execMsks t d a b y s
  | .laneid t d y => Sys2Proof.Machine.execLaneid t d y s
  | .insl t d a im => Sys2Proof.Machine.execInsl t d a im s
  | .extl t d a im => Sys2Proof.Machine.execExtl t d a im s
  | .pset t m => Sys2Proof.Machine.execPset t m s
  | .pclr t m => Sys2Proof.Machine.execPclr t m s
  | .pflip t m => Sys2Proof.Machine.execPflip t m s
  | .ptest t p a => Sys2Proof.Machine.execPtest t p a s
  | .pany t p a => Sys2Proof.Machine.execPany t p a s
  | .pall t p a => Sys2Proof.Machine.execPall t p a s
  | .pmovRead t d => Sys2Proof.Machine.execPmovRead t d s
  | .pmovWrite t a => Sys2Proof.Machine.execPmovWrite t a s
  | .hdr t d a => Sys2Proof.Machine.execHdr t d a s
  | .hdrt t d a b => Sys2Proof.Machine.execHdrt t d a b s
  | .hdrm t d a b => Sys2Proof.Machine.execHdrm t d a b s
  | .hdre t d a b => Sys2Proof.Machine.execHdre t d a b s
  | .hdrf t d a b => Sys2Proof.Machine.execHdrf t d a b s
  | .hdrc t d a b => Sys2Proof.Machine.execHdrc t d a b s
  | .time t d a y => Sys2Proof.Machine.execTime t d a y s
  | .endr t d a => Sys2Proof.Machine.execEndr t d a s
  | .emit t d a b => Sys2Proof.Machine.execEmit t d a b s
  | .drop t d a => Sys2Proof.Machine.execDrop t d a s
  | .steer t d a b => Sys2Proof.Machine.execSteer t d a b s
  | .route t d a => Sys2Proof.Machine.execRoute t d a s
  | .dmd t d a b => Sys2Proof.Machine.execDmd t d a b s
  | .dmdr t d a b => Sys2Proof.Machine.execDmdr t d a b s
  | .dmdk t d a b => Sys2Proof.Machine.execDmdk t d a b s
  | .rtfw t d a b => Sys2Proof.Machine.execRtfw t d a b s
  | .mark t d a b => Sys2Proof.Machine.execMark t d a b s
  | .chkp t a => Sys2Proof.Machine.execChkp t a s
  | .chkl t a => Sys2Proof.Machine.execChkl t a s
  | .ldb t d a b z => Sys2Proof.Machine.execLdb t d a b z s
  | .stb t d a b z => Sys2Proof.Machine.execStb t d a b z s
  | .ldbg t d a b z => Sys2Proof.Machine.execLdbg t d a b z s
  | .stbs t d a b z => Sys2Proof.Machine.execStbs t d a b z s
  | .srd t d a => Sys2Proof.Machine.execSrd t d a s
  | .swr t a b => Sys2Proof.Machine.execSwr t a b s
  | .sgath t d a b => Sys2Proof.Machine.execSgath t d a b s
  | .sscat t a b => Sys2Proof.Machine.execSscat t a b s
  | .scls t d => Sys2Proof.Machine.execScls t d s
  | .atomAdd t d a z => Sys2Proof.Machine.execAtomAdd t d a z s
  | .atomMin t d a z => Sys2Proof.Machine.execAtomMin t d a z s
  | .atomMax t d a z => Sys2Proof.Machine.execAtomMax t d a z s
  | .atomXchg t d a z => Sys2Proof.Machine.execAtomXchg t d a z s
  | .atomAnd t d a z => Sys2Proof.Machine.execAtomAnd t d a z s
  | .atomOr t d a z => Sys2Proof.Machine.execAtomOr t d a z s
  | .atomFadd t d a z => Sys2Proof.Machine.execAtomFadd t d a z s
  | .atomPair t d a b z => Sys2Proof.Machine.execAtomPair t d a b z s
  | .atomrAdd t d a z => Sys2Proof.Machine.execAtomrAdd t d a z s
  | .atomrMin t d a z => Sys2Proof.Machine.execAtomrMin t d a z s
  | .atomrMax t d a z => Sys2Proof.Machine.execAtomrMax t d a z s
  | .atomrXchg t d a z => Sys2Proof.Machine.execAtomrXchg t d a z s
  | .atomrAnd t d a z => Sys2Proof.Machine.execAtomrAnd t d a z s
  | .atomrOr t d a z => Sys2Proof.Machine.execAtomrOr t d a z s
  | .cas t d a b z => Sys2Proof.Machine.execCas t d a b z s
  | .empty t d a b z => Sys2Proof.Machine.execEmpty t d a b z s
  | .ldg t d a b => Sys2Proof.Machine.execLdg t d a b s
  | .stg t d a b => Sys2Proof.Machine.execStg t d a b s
  | .cpy t d a b z => Sys2Proof.Machine.execCpy t d a b z s
  | .cpys t d a b z => Sys2Proof.Machine.execCpys t d a b z s
  | .cpyq t d a b z => Sys2Proof.Machine.execCpyq t d a b z s
  | .pref t a b => Sys2Proof.Machine.execPref t a b s
  | .fence t z => Sys2Proof.Machine.execFence t z s
  | .waitne t d a b z => Sys2Proof.Machine.execWaitne t d a b z s
  | .bari t d a z => Sys2Proof.Machine.execBari t d a z s
  | .bara t d z => Sys2Proof.Machine.execBara t d z s
  | .barx t d a z => Sys2Proof.Machine.execBarx t d a z s
  | .barw t d a z => Sys2Proof.Machine.execBarw t d a z s
  | .bart t d a b z => Sys2Proof.Machine.execBart t d a b z s
  | .mmcmd t d a b => Sys2Proof.Machine.execMmcmd t d a b s
  | .accrd t d a => Sys2Proof.Machine.execAccrd t d a s
  | .accclr t d a => Sys2Proof.Machine.execAccclr t d a s
  | .mxmodeLeave t => Sys2Proof.Machine.execMxmodeLeave t s
  | .mxmodeEnter t => Sys2Proof.Machine.execMxmodeEnter t s
  | .cutRows t d a b => Sys2Proof.Machine.execCutRows t d a b s
  | .cutCols t d a b => Sys2Proof.Machine.execCutCols t d a b s
  | .cutContract t d a b => Sys2Proof.Machine.execCutContract t d a b s
  | .cutb t d z => Sys2Proof.Machine.execCutb t d z s
  | .cutr t d a => Sys2Proof.Machine.execCutr t d a s
  | .sphdr t d a b => Sys2Proof.Machine.execSphdr t d a b s
  | .kvapp t d a => Sys2Proof.Machine.execKvapp t d a s
  | .kvseal t d a => Sys2Proof.Machine.execKvseal t d a s
  | .kvfork t d a b => Sys2Proof.Machine.execKvfork t d a b s
  | .retspanKeep t d g => Sys2Proof.Machine.execRetspanKeep t d g s
  | .retspanRewind t d g => Sys2Proof.Machine.execRetspanRewind t d g s
  | .kvmask t d a b => Sys2Proof.Machine.execKvmask t d a b s
  | .kvlook t d a b => Sys2Proof.Machine.execKvlook t d a b s
  | .kvtag t d g => Sys2Proof.Machine.execKvtag t d g s
  | .kvpar t d a b => Sys2Proof.Machine.execKvpar t d a b s
  | .ring t d a => Sys2Proof.Machine.execRing t d a s
  | .kvnext t d a b => Sys2Proof.Machine.execKvnext t d a b s
  | .br t o => Sys2Proof.Machine.execBr t o s
  | .call t o => Sys2Proof.Machine.execCall t o s
  | .ret t a => Sys2Proof.Machine.execRet t a s
  | .retZ t => Sys2Proof.Machine.execRetZ t s
  | .loop t d im => Sys2Proof.Machine.execLoop t d im s
  | .halt t => Sys2Proof.Machine.execHalt t s
  | .yield t d => Sys2Proof.Machine.execYield t d s
  | .sendm t a b => Sys2Proof.Machine.execSendm t a b s
  | .sendmt t d a b => Sys2Proof.Machine.execSendmt t d a b s
  | .recvm t d => Sys2Proof.Machine.execRecvm t d s
  | .trap t c => Sys2Proof.Machine.execTrap t c s
  | .syscEcho t d => Sys2Proof.Machine.execSyscEcho t d s
  | .syscSnap t d => Sys2Proof.Machine.execSyscSnap t d s
  | .syscSediment t d => Sys2Proof.Machine.execSyscSediment t d s
  | .syscQdepth t d => Sys2Proof.Machine.execSyscQdepth t d s
  | .syscUnassigned t d code => Sys2Proof.Machine.execSyscUnassigned t d code s
  | .csrr t d z => Sys2Proof.Machine.execCsrr t d z s
  | .csrw t d z => Sys2Proof.Machine.execCsrw t d z s
  | .cfgld t d a b => Sys2Proof.Machine.execCfgld t d a b s
  | .ctxsv t a b => Sys2Proof.Machine.execCtxsv t a b s
  | .ctxrs t a b => Sys2Proof.Machine.execCtxrs t a b s
  | .launch t d a => Sys2Proof.Machine.execLaunch t d a s
  | .fwait t d a b => Sys2Proof.Machine.execFwait t d a b s
  | .fsig t a b => Sys2Proof.Machine.execFsig t a b s
  | .perfrd t d z => Sys2Proof.Machine.execPerfrd t d z s
  | .trace t d c => Sys2Proof.Machine.execTrace t d c s
  | .brk t c => Sys2Proof.Machine.execBrk t c s
  | .migr t d => Sys2Proof.Machine.execMigr t d s
  | .timerArm t d => Sys2Proof.Machine.execTimerArm t d s
  | .timerRead t d => Sys2Proof.Machine.execTimerRead t d s
  | .timerDisarm t d => Sys2Proof.Machine.execTimerDisarm t d s
  | .idrdPartCode t d => Sys2Proof.Machine.execIdrdPartCode t d s
  | .idrdStepping t d => Sys2Proof.Machine.execIdrdStepping t d s
  | .idrdPhysicalPosition t d => Sys2Proof.Machine.execIdrdPhysicalPosition t d s
  | .idrdLogicalId t d => Sys2Proof.Machine.execIdrdLogicalId t d s
  | .idrdPartition t d => Sys2Proof.Machine.execIdrdPartition t d s
  | .idrdSpareMap t d => Sys2Proof.Machine.execIdrdSpareMap t d s
  | .idrdSerialLow t d => Sys2Proof.Machine.execIdrdSerialLow t d s
  | .idrdSerialHigh t d => Sys2Proof.Machine.execIdrdSerialHigh t d s
  | .undefinedWord w => Sys2Proof.Machine.execUndefinedWord w s
  | .fetchFault => Sys2Proof.Machine.execFetchFault s
  | .trapEntry r => Sys2Proof.Machine.execTrapEntry r s
  | .packetDiscard port => Sys2Proof.Machine.execPacketDiscard port s
  | .packetTrim port => Sys2Proof.Machine.execPacketTrim port s
  | .messageNoEndpoint m => Sys2Proof.Machine.execMessageNoEndpoint m s
  | .firstMessageNotHello m => Sys2Proof.Machine.execFirstMessageNotHello m s
  | .helloSetup m => Sys2Proof.Machine.execHelloSetup m s
  | .helloCredit m => Sys2Proof.Machine.execHelloCredit m s
  | .launchMessage m => Sys2Proof.Machine.execLaunchMessage m s
  | .request m => Sys2Proof.Machine.execRequest m s
  | .fenceRead m => Sys2Proof.Machine.execFenceRead m s
  | .fenceRaise m => Sys2Proof.Machine.execFenceRaise m s
  | .fenceWait m => Sys2Proof.Machine.execFenceWait m s
  | .mapPages m => Sys2Proof.Machine.execMapPages m s
  | .mapUnmap m => Sys2Proof.Machine.execMapUnmap m s
  | .mapThreshold m => Sys2Proof.Machine.execMapThreshold m s
  | .pin m => Sys2Proof.Machine.execPin m s
  | .unpin m => Sys2Proof.Machine.execUnpin m s
  | .dumpreadCleartext m => Sys2Proof.Machine.execDumpreadCleartext m s
  | .dumpreadBody m => Sys2Proof.Machine.execDumpreadBody m s
  | .dumpreadSediment m => Sys2Proof.Machine.execDumpreadSediment m s
  | .dumpreadWakeRing m => Sys2Proof.Machine.execDumpreadWakeRing m s
  | .dumpreadRelease m => Sys2Proof.Machine.execDumpreadRelease m s
  | .resync m => Sys2Proof.Machine.execResync m s
  | .attest m => Sys2Proof.Machine.execAttest m s
  | .updatePiece m => Sys2Proof.Machine.execUpdatePiece m s
  | .updateCommit m => Sys2Proof.Machine.execUpdateCommit m s
  | .updateAbort m => Sys2Proof.Machine.execUpdateAbort m s
  | .firmwareSwitch => Sys2Proof.Machine.execFirmwareSwitch s
  | .partctlCreate m => Sys2Proof.Machine.execPartctlCreate m s
  | .partctlResize m => Sys2Proof.Machine.execPartctlResize m s
  | .partctlDelete m => Sys2Proof.Machine.execPartctlDelete m s
  | .partctlReset m => Sys2Proof.Machine.execPartctlReset m s
  | .partctlSpareRemap m => Sys2Proof.Machine.execPartctlSpareRemap m s
  | .powerOn => Sys2Proof.Machine.execPowerOn s
  | .powerwarn => Sys2Proof.Machine.execPowerwarn s
  | .linkdown port => Sys2Proof.Machine.execLinkdown port s
  | .linkup port => Sys2Proof.Machine.execLinkup port s
  | .chaindownTimeout port l => Sys2Proof.Machine.execChaindownTimeout port l s
  | .launchDispatch => Sys2Proof.Machine.execLaunchDispatch s
  | .helmStart l => Sys2Proof.Machine.execHelmStart l s
  | .preempt part => Sys2Proof.Machine.execPreempt part s
  | .quiescentPreempt l => Sys2Proof.Machine.execQuiescentPreempt l s
  | .migrationRequest l => Sys2Proof.Machine.execMigrationRequest l s
  | .migrationCut l => Sys2Proof.Machine.execMigrationCut l s
  | .migrationTimeout l => Sys2Proof.Machine.execMigrationTimeout l s
  | .launchRestore l => Sys2Proof.Machine.execLaunchRestore l s
  | .launchEnd l => Sys2Proof.Machine.execLaunchEnd l s
  | .snapCutPost l => Sys2Proof.Machine.execSnapCutPost l s
  | .elementSave r e => Sys2Proof.Machine.execElementSave r e s
  | .helmSave r => Sys2Proof.Machine.execHelmSave r s
  | .sourceMarkerInject at_ => Sys2Proof.Machine.execSourceMarkerInject at_ s
  | .cutComplete l => Sys2Proof.Machine.execCutComplete l s
  | .windowApply stack l => Sys2Proof.Machine.execWindowApply stack l s
  | .saveAbort l pa => Sys2Proof.Machine.execSaveAbort l pa s
  | .tokenArrival at_ => Sys2Proof.Machine.execTokenArrival at_ s
  | .tokenSend at_ => Sys2Proof.Machine.execTokenSend at_ s
  | .conversionReturn at_ => Sys2Proof.Machine.execConversionReturn at_ s
  | .operationComplete r e c => Sys2Proof.Machine.execOperationComplete r e c s
  | .demandArrival at_ => Sys2Proof.Machine.execDemandArrival at_ s
  | .demandHeldRelease at_ => Sys2Proof.Machine.execDemandHeldRelease at_ s
  | .streamReadComplete at_ => Sys2Proof.Machine.execStreamReadComplete at_ s
  | .chainHopAdd l chain hop => Sys2Proof.Machine.execChainHopAdd l chain hop s
  | .matrixMma r => Sys2Proof.Machine.execMatrixMma r s
  | .matrixAccrd r => Sys2Proof.Machine.execMatrixAccrd r s
  | .accrdResponse r => Sys2Proof.Machine.execAccrdResponse r s
  | .matrixAccclr r => Sys2Proof.Machine.execMatrixAccclr r s
  | .matrixMarkerSave r => Sys2Proof.Machine.execMatrixMarkerSave r s
  | .copyComplete r k => Sys2Proof.Machine.execCopyComplete r k s
  | .bankWakeEnd r bank ok => Sys2Proof.Machine.execBankWakeEnd r bank ok s
  | .bgateWrite r v => Sys2Proof.Machine.execBgateWrite r v s
  | .obsctlStopWrite r stop => Sys2Proof.Machine.execObsctlStopWrite r stop s
  | .obsctlPrecWrite r prec => Sys2Proof.Machine.execObsctlPrecWrite r prec s
  | .obsctlSperWrite r sper => Sys2Proof.Machine.execObsctlSperWrite r sper s
  | .obsbkWrite r k v => Sys2Proof.Machine.execObsbkWrite r k v s
  | .stillWrite r v => Sys2Proof.Machine.execStillWrite r v s
  | .mxregWrite r k v => Sys2Proof.Machine.execMxregWrite r k v s
  | .registerWrite r sel v => Sys2Proof.Machine.execRegisterWrite r sel v s
  | .noticeConsWrite part v => Sys2Proof.Machine.execNoticeConsWrite part v s
  | .regionStop r src arg e c slot => Sys2Proof.Machine.execRegionStop r src arg e c slot s
  | .sample r => Sys2Proof.Machine.execSample r s
  | .wheelRewrite r => Sys2Proof.Machine.execWheelRewrite r s
  | .governorDecision r bout wopd temp => Sys2Proof.Machine.execGovernorDecision r bout wopd temp s
  | .thermalRepost l => Sys2Proof.Machine.execThermalRepost l s
  | .helmTimerExpiry r => Sys2Proof.Machine.execHelmTimerExpiry r s
  | .rollback l => Sys2Proof.Machine.execRollback l s
  | .rerunFaultStop l r => Sys2Proof.Machine.execRerunFaultStop l r s
  | .fatalEnd l => Sys2Proof.Machine.execFatalEnd l s
  | .dredgeComplete l => Sys2Proof.Machine.execDredgeComplete l s
  | .stillwaterHang r => Sys2Proof.Machine.execStillwaterHang r s
  | .hangesc r => Sys2Proof.Machine.execHangesc r s
  | .sendring r => Sys2Proof.Machine.execSendring r s
  | .cfgStoreError r corrected off => Sys2Proof.Machine.execCfgStoreError r corrected off s
  | .cfgReloadComplete r => Sys2Proof.Machine.execCfgReloadComplete r s
  | .retire r => Sys2Proof.Machine.execRetire r s
  | .hbmue kind pa => Sys2Proof.Machine.execHbmue kind pa s
  | .hbmScrub pa corrected => Sys2Proof.Machine.execHbmScrub pa corrected s
  | .rowspare pa => Sys2Proof.Machine.execRowspare pa s
  | .pcspare stack pc => Sys2Proof.Machine.execPcspare stack pc s
  | .connectionFailure conn => Sys2Proof.Machine.execConnectionFailure conn s
  | .unknownMessageType m => Sys2Proof.Machine.execUnknownMessageType m s

end Sys2Proof.Machine
end

