-- ==== Sys2Proof/Machine/Step.lean ====
section
/-!
DEFINITION. One step of the machine: one turn, and the instruction, event or message it comes to (log 2).
-/

namespace Sys2Proof.Machine

/-- One step. -/
def step (s : State) : Host.Outcome State Fault Refusal :=
  match beginTurn (nextTurn s).1 (nextTurn s).2 with
  | (s', some i) => exec i s'
  | (s', none) => .next s'

/-- The state with an instruction's word stored where the next step fetches it: at the PC of helm core 0, whose turn
comes next. -/
def State.withFetchWord (s : State) (nbits w : Nat) : State :=
  if nbits = 32 then placeWord s (BitVec.ofNat 32 w) else s

end Sys2Proof.Machine
end

