-- ==== Sys2Proof/Safety.lean ====
section
/-!
DEFINITION. What counts as a well-kept state and a safe step, in the terms the statements use: memories in canonical
form, when an instruction issues, and the state in which its own effect leaves the machine.
-/

namespace Sys2Proof.Machine

/-- Device memory, host memory and every typed buffer are in their canonical form. -/
def State.memOk (s : State) : Prop :=
  memWf s.hbm = true ∧ memWf s.host = true ∧ ∀ r k, memWf (vGet Buf.reset (getR s r).bufs k).mem = true

/-- A step that goes on: neither a fault nor a refusal. -/
def StepsTo (s t : State) : Prop := step s = .next t

/-- The entry of the trigger an instruction names, in the agent that executes it (R72, R85). -/
def trigOf (i : Instr) (s : State) : W64 := (trigHere s (fieldT (wordOf i)).toNat).1

/-- An instruction issues: no static fault (R386), its trigger holds (R73, R85), and a helm core neither waits for a
head, an output queue or a register (R86), nor is the first to use the register of a failed access (R405). -/
def Issues (i : Instr) (s : State) : Prop :=
  staticFault (isHelm s) (wordOf i) = none ∧ (trigHere s (fieldT (wordOf i)).toNat).2 = true ∧
  ∀ r, s.agent = .helm r → issueWait (getH s r) (wordOf i) = .none ∧ usedFault (getH s r) (wordOf i) = none

/-- What follows the own effect of an instruction whose context has become `n`: the trigger action and the dequeues, and
in a helm core the next word (R75, R86). -/
def retire (i : Instr) (s : State) (n : Node) : State := finish (setHere s n) (wordOf i) (trigOf i s) none

/-- The helm core of a region with nothing but its context changed. -/
def helmNode (h : Helm) (n : Node) : Helm := { h with node := n }

end Sys2Proof.Machine
end

