-- ==== Sys2Proof/Certificates/Slice0/Obligations.lean ====
section
/-!
DEFINITION. The statements about the machine, and the words of the manual they use.
-/

namespace Sys2Proof.Claims

open Sys2Proof.Machine

/-! ## Integer instructions -/

/-- What an integer or logic instruction does to one element of width `w`: signed or not, the elements of D, A and B. -/
abbrev EltSpec := Bool → (w : Nat) → BitVec w → BitVec w → BitVec w → BitVec w

/-- The value of an element by signedness. -/
def val (sg : Bool) {w : Nat} (x : BitVec w) : Int := if sg then x.toInt else (x.toNat : Int)

/-- The least and the greatest value of a type (R245). -/
def range (sg : Bool) (w : Nat) : Int × Int := if sg then (-(2 ^ (w - 1)), 2 ^ (w - 1) - 1) else (0, 2 ^ w - 1)

/-- Clamped to the range of the type (R245). -/
def clamp (sg : Bool) (w : Nat) (v : Int) : BitVec w := BitVec.ofInt w (max (range sg w).1 (min (range sg w).2 v))

/-- All ones where a compare holds, else zero (R247). -/
def mask (w : Nat) (c : Bool) : BitVec w := if c then BitVec.allOnes w else 0

/-- lsb and wd of a bit-field descriptor (R246). -/
def field (w : Nat) (b : BitVec w) : Nat × Nat := (b.toNat % 64 % w, min (b.toNat / 256 % 64) w)

/-- One row of R245: how its term is made, whether B is an operand, whether it takes more than one cycle (R244), and its
effect on an element. -/
structure IntRow where
  term : BitVec 6 → BitVec 5 → BitVec 5 → BitVec 5 → BitVec 3 → Instr
  hasB : Bool
  long : Bool
  fn : EltSpec

/-- The format A rows of R245 to R247. -/
def intRows : List IntRow :=
  [⟨fun t d a _ y => .mov t d a y, false, false, fun _ _ _ a _ => a⟩,
   ⟨.add, true, false, fun _ _ _ a b => a + b⟩,
   ⟨.sub, true, false, fun _ _ _ a b => a - b⟩,
   ⟨.adds, true, false, fun sg w _ a b => clamp sg w (val sg a + val sg b)⟩,
   ⟨.subs, true, false, fun sg w _ a b => clamp sg w (val sg a - val sg b)⟩,
   ⟨.mul, true, true, fun _ _ _ a b => a * b⟩,
   ⟨.mulh, true, true, fun sg w _ a b => BitVec.ofInt w (val sg a * val sg b / 2 ^ w)⟩,
   ⟨.mad, true, true, fun _ _ d a b => d + a * b⟩,
   ⟨.div, true, true, fun sg w _ a b => if b = 0 then BitVec.allOnes w else if sg then a.sdiv b else a.udiv b⟩,
   ⟨.rem, true, true, fun sg _ _ a b => if b = 0 then a else if sg then a.srem b else a.umod b⟩,
   ⟨.min, true, false, fun sg _ _ a b => if val sg a ≤ val sg b then a else b⟩,
   ⟨.max, true, false, fun sg _ _ a b => if val sg a ≤ val sg b then b else a⟩,
   ⟨fun t d a _ y => .abs t d a y, false, false, fun sg _ _ a _ => if sg && decide (a.toInt < 0) then -a else a⟩,
   ⟨fun t d a _ y => .neg t d a y, false, false, fun _ _ _ a _ => -a⟩,
   ⟨.and, true, false, fun _ _ _ a b => a &&& b⟩,
   ⟨.or, true, false, fun _ _ _ a b => a ||| b⟩,
   ⟨.xor, true, false, fun _ _ _ a b => a ^^^ b⟩,
   ⟨.andn, true, false, fun _ _ _ a b => a &&& ~~~b⟩,
   ⟨.shl, true, false, fun _ w _ a b => a <<< (b.toNat % w)⟩,
   ⟨.shr, true, false, fun _ w _ a b => a >>> (b.toNat % w)⟩,
   ⟨.sar, true, false, fun _ w _ a b => a.sshiftRight (b.toNat % w)⟩,
   ⟨fun t d a _ y => .clz t d a y, false, false, fun _ w _ a _ => 
     BitVec.ofNat w (((List.range w).reverse.takeWhile (fun k => !a.getLsbD k)).length)⟩,
   ⟨fun t d a _ y => .popc t d a y, false, false, fun _ w _ a _ =>
     BitVec.ofNat w (((List.range w).filter (fun k => a.getLsbD k)).length)⟩,
   ⟨.bfx, true, false, fun sg w _ a b =>
     let f := (a >>> (field w b).1).setWidth (field w b).2
     if sg then f.signExtend w else f.setWidth w⟩,
   ⟨.bfi, true, false, fun _ w d a b =>
     let m : BitVec w := BitVec.ofNat w (2 ^ (field w b).2 - 1) <<< (field w b).1
     (d &&& ~~~m) ||| ((a <<< (field w b).1) &&& m)⟩,
   ⟨.sel, true, false, fun _ _ d a b => if d = 0 then b else a⟩,
   ⟨.cmpeq, true, false, fun _ w _ a b => mask w (a == b)⟩,
   ⟨.cmpne, true, false, fun _ w _ a b => mask w (a != b)⟩,
   ⟨.cmplt, true, false, fun sg w _ a b => mask w (decide (val sg a < val sg b))⟩,
   ⟨.cmple, true, false, fun sg w _ a b => mask w (decide (val sg a ≤ val sg b))⟩]

/-- One immediate row of R245: how its term is made from D, A and the immediate, its source (0 none, 1 A, 2 D), and its
effect on a source element; the immediate is sign-extended but for MOVSH and the shift counts (R227). -/
structure ImmRow where
  term : BitVec 6 → BitVec 5 → BitVec 5 → BitVec 13 → Instr
  src : Nat
  fn : (w : Nat) → BitVec w → BitVec 13 → BitVec w

/-- The immediate rows of R245 to R247; the 8-bit immediates take the low 8 bits. -/
def immRows : List ImmRow :=
  [⟨fun t d _ i => .movi t d i, 0, fun w _ i => i.signExtend w⟩,
   ⟨fun t d _ i => .movsh t d i, 2, fun w x i => BitVec.ofNat w (x.toNat * 2 ^ 13 + i.toNat)⟩,
   ⟨fun t d a i => .addi t d a (i.setWidth 8), 1, fun w x i => x + (i.setWidth 8).signExtend w⟩,
   ⟨fun t d a i => .andi t d a (i.setWidth 8), 1, fun w x i => x &&& (i.setWidth 8).signExtend w⟩,
   ⟨fun t d a i => .ori t d a (i.setWidth 8), 1, fun w x i => x ||| (i.setWidth 8).signExtend w⟩,
   ⟨fun t d a i => .shli t d a (i.setWidth 8), 1, fun w x i => x <<< ((i.setWidth 8).toNat % w)⟩,
   ⟨fun t d a i => .shri t d a (i.setWidth 8), 1, fun w x i => x >>> ((i.setWidth 8).toNat % w)⟩,
   ⟨fun t d a i => .cmpeqi t d a (i.setWidth 8), 1, fun w x i => mask w (x == (i.setWidth 8).signExtend w)⟩,
   ⟨fun t d a i => .cmplti t d a (i.setWidth 8), 1, fun w x i =>
     mask w (decide (x.toInt < ((i.setWidth 8).signExtend w).toInt))⟩]

/-- An element effect on the elements of a lane: one, two or four by the type (R242, R245). -/
def onElts (ty : Nat) (f : EltSpec) (d a b : W32) : W32 :=
  let sg := ty == 0
  match eltWidth ty with
  | 16 =>
    let g := fun k => f sg 16 (d.extractLsb' (16 * k) 16) (a.extractLsb' (16 * k) 16) (b.extractLsb' (16 * k) 16)
    (g 1 ++ g 0 : BitVec 32)
  | 8 =>
    let g := fun k => f sg 8 (d.extractLsb' (8 * k) 8) (a.extractLsb' (8 * k) 8) (b.extractLsb' (8 * k) 8)
    (g 3 ++ g 2 ++ g 1 ++ g 0 : BitVec 32)
  | _ => f sg 32 d a b

/-- The scalar result of an element effect: 64 bits for .i64; else the low lane, its upper half copies of bit 31 for
.i32 and zeros otherwise (R241). -/
def onScalars (ty : Nat) (f : EltSpec) (d a b : W64) : W64 :=
  if ty = 6 then f true 64 d a b
  else
    let x := onElts ty f (d.setWidth 32) (a.setWidth 32) (b.setWidth 32)
    if ty = 0 then x.signExtend 64 else x.setWidth 64

/-- A context whose scalar D has been written; z discards it (R222, R241). -/
def putScalar (n : Node) (d : Nat) (x : W64) : Node :=
  if 8 ≤ d ∧ d ≤ 15 then { n with regs := setS n.regs (d - 8) x } else n

/-- What a vector-shaped result writes: the lanes of the set into a vector register, one token on a port, which carries
those lanes and zeros, nothing into z (R242, R216). -/
def vecFire (n : Node) (d a b ty : Nat) (m : BitVec 16) (x : Lanes) : Fire :=
  match classOf d with
  | 1 => fireRegs (setV n.regs d (mergeLanes m x (getV n.regs d)))
  | 8 => fireTok n.regs (d - 24) { hdr := fireHdr n a b ty m, pay := mergeLanes m x 0 } true
  | _ => fireRegs n.regs

/-! ## Floating-point instructions -/

/-- One row of R248 to R250: how its term is made, whether B is an operand, and its effect on one element of a format
under a rounding mode: the elements of D, A and B give the result and its flags. -/
structure FloatRow where
  term : BitVec 6 → BitVec 5 → BitVec 5 → BitVec 5 → BitVec 3 → Instr
  hasB : Bool
  fn : FFmt → Nat → Nat → Nat → Nat → Nat × Fl

/-- A compare's result: all ones where it holds (R249). -/
def cmpOut (f : FFmt) (r : Bool × Fl) : Nat × Fl := (if r.1 then 2 ^ (1 + f.eb + f.fb) - 1 else 0, r.2)

/-- The rows of R248 to R250 and the estimates of R197. -/
def floatRows : List FloatRow :=
  [⟨.fadd, true, fun f rm _ a b => fAdd f rm a b⟩, ⟨.fsub, true, fun f rm _ a b => fSub f rm a b⟩,
   ⟨.fmul, true, fun f rm _ a b => fMul f rm a b⟩, ⟨.ffma, true, fun f rm d a b => fFma f rm false a b d⟩,
   ⟨.ffms, true, fun f rm d a b => fFma f rm true a b d⟩, ⟨.fmin, true, fun f _ _ a b => fMinMax f false a b⟩,
   ⟨.fmax, true, fun f _ _ a b => fMinMax f true a b⟩,
   ⟨fun t d a _ y => .fabs t d a y, false, fun f _ _ a _ => (a % 2 ^ (f.eb + f.fb), 0)⟩,
   ⟨fun t d a _ y => .fneg t d a y, false, fun f _ _ a _ => (a ^^^ 2 ^ (f.eb + f.fb), 0)⟩,
   ⟨.fcmpeq, true, fun f _ _ a b => cmpOut f (fCmp f 0 a b)⟩, ⟨.fcmplt, true, fun f _ _ a b => cmpOut f (fCmp f 1 a b)⟩,
   ⟨.fcmple, true, fun f _ _ a b => cmpOut f (fCmp f 2 a b)⟩, ⟨.fcmpun, true, fun f _ _ a b => cmpOut f (fCmp f 3 a b)⟩,
   ⟨fun t d a _ y => .frcpe t d a y, false, fun f _ _ a _ => fEst f 0 a⟩,
   ⟨fun t d a _ y => .frsqe t d a y, false, fun f _ _ a _ => fEst f 1 a⟩,
   ⟨fun t d a _ y => .fexp2 t d a y, false, fun f _ _ a _ => fEst f 2 a⟩,
   ⟨fun t d a _ y => .flog2 t d a y, false, fun f _ _ a _ => fEst f 3 a⟩,
   ⟨.fdiv, true, fun f rm _ a b => fDiv f rm a b⟩, ⟨fun t d a _ y => .fsqrt t d a y, false, fun f rm _ a _ => fSqrt f rm a⟩,
   ⟨fun t d a _ y => .frnd t d a y, false, fun f rm _ a _ => fRnd f rm a⟩,
   ⟨fun t d a _ y => .fclass t d a y, false, fun f _ _ a _ => (fClass f a, 0)⟩,
   ⟨.fscl, true, fun f rm _ a b => fScl f rm a (toSigned (1 + f.eb + f.fb) b)⟩]

/-- The format of an element of a float type: binary32 for .f32, BF16 and binary16 in halves (R183, R243). -/
def floatFmt (ty : Nat) : FFmt := if ty = 3 then bf16 else if ty = 4 then f16 else f32

/-- A float effect over a lane: one 32-bit element, or two halves, the low one first; the flags of both (R190, R242). -/
def onFloats (ty : Nat) (f : FFmt → Nat → Nat → Nat → Nat → Nat × Fl) (rm : Nat) (d a b : W32) : W32 × Fl :=
  let h := fun (x : W32) (k : Nat) => (x.extractLsb' (16 * k) 16).toNat
  if ty = 2 then
    let r := f f32 rm d.toNat a.toNat b.toNat
    (BitVec.ofNat 32 r.1, r.2)
  else
    let r := fun k => f (floatFmt ty) rm (h d k) (h a k) (h b k)
    ((BitVec.ofNat 16 (r 1).1 ++ BitVec.ofNat 16 (r 0).1 : BitVec 32), (r 0).2 ||| (r 1).2)

/-- The flags that the lanes of a set raise (R190). -/
def flagsOf (m : BitVec 16) (g : Nat → Fl) : Fl :=
  (List.range 16).foldl (fun acc k => if maskBit m k then acc ||| g k else acc) 0

/-- The node with flags ORed into hs.fp (R190). -/
def raise (n : Node) (fl : Fl) : Node := { n with regs := { n.regs with fp := n.regs.fp ||| fl.setWidth 64 } }

/-- The trap of a flag whose enable in TEN is set (R191). -/
def fpTrap (n : Node) (fl : Fl) : Trap := { cause := 0x06, arg := (fl &&& n.regs.fp.extractLsb' 8 5).toNat, tval := 0, hdr := 0 }

/-! ## Conversions and lane instructions -/

/-- A row whose effect is lane by lane: how its term is made, whether B is an operand, and what it makes of the lanes of
D, A and B for its type, the code in B's low bits and the rounding mode. -/
structure LaneRow where
  term : BitVec 6 → BitVec 5 → BitVec 5 → BitVec 5 → BitVec 3 → Instr
  hasB : Bool
  fn : Nat → Nat → Nat → W32 → W32 → W32 → W32 × Fl

/-- One whole lane as a number, and a result in it. -/
def lane32 (f : Nat → Nat → Nat → Nat × Fl) (d a b : W32) : W32 × Fl :=
  let r := f d.toNat a.toNat b.toNat
  (BitVec.ofNat 32 r.1, r.2)

/-- Conversion and the scaled formats (R251, R253). -/
def convertRows : List LaneRow :=
  [⟨fun t d a b y => .cvt t d a (b.setWidth 3) y, false, fun ty c rm _ a _ => cvtLane false ty c rm a⟩,
   ⟨fun t d a b y => .cvts t d a (b.setWidth 3) y, false, fun ty c rm _ a _ => cvtLane true ty c rm a⟩,
   ⟨.qnt, true, fun _ _ rm => lane32 (fun _ a b => qntElt rm a b)⟩,
   ⟨.deq, true, fun _ _ rm => lane32 (fun _ a b => deqElt rm a b)⟩,
   ⟨.qdot, true, fun _ _ _ => lane32 qdotElt⟩,
   ⟨.scld, true, fun _ _ rm => lane32 (fun _ a b => scldElt rm a b)⟩]

/-- The code of B where it is an operand, else z. -/
def codeB (hasB : Bool) (b : BitVec 5) : Nat := if hasB then b.toNat else 28

/-- A row whose effect is on whole vectors: for a type and a rounding mode, the lanes and the lane sets of A and B give
the lanes, the lane set and the flags of the result; `long` as in R244. -/
structure VecRow where
  term : BitVec 6 → BitVec 5 → BitVec 5 → BitVec 5 → BitVec 3 → Instr
  hasA : Bool
  hasB : Bool
  long : Bool
  fn : Nat → Nat → Lanes → Lanes → BitVec 16 → BitVec 16 → Lanes × BitVec 16 × Fl

/-- What a reduction gives in every lane (R200, R255): 0 RSUM, 1 RMAX, 2 RMIN. -/
def reduced (kind ty rm : Nat) (a : Lanes) (va : BitVec 16) : W32 × Fl :=
  let r := treeFold (redFn kind ty rm) 5 (leaves (eltWidth ty) a va)
  (splat (eltWidth ty) (r.1.getD (redEmpty kind ty)), r.2)

/-- The rows of R252, R254 and R255 that have a type. -/
def vecRows : List VecRow :=
  [⟨.bcast, true, true, false, fun _ _ a b va _ =>
     let j := (b.get 0).toNat % 16
     (Lanes.ofFn (fun _ => a.get j), if maskBit va j then 0xFFFF else 0, 0)⟩,
   ⟨.perm, true, true, false, fun _ _ a b va vb =>
     (Lanes.ofFn (fun k => a.get ((b.get k).toNat % 16)), maskOf (fun k => maskBit va ((b.get k).toNat % 16) && maskBit vb k), 0)⟩,
   ⟨.pack, true, true, true, fun ty _ a b va vb => packLanes (eltWidth ty) a b va vb⟩,
   ⟨fun t d a _ y => .unpkl t d a y, true, false, true, fun ty _ a _ va _ => unpackLanes (eltWidth ty) false a va⟩,
   ⟨fun t d a _ y => .unpkh t d a y, true, false, true, fun ty _ a _ va _ => unpackLanes (eltWidth ty) true a va⟩,
   ⟨fun t d a _ y => .rsum t d a y, true, false, true, fun ty rm a _ va _ =>
     (Lanes.ofFn (fun _ => (reduced 0 ty rm a va).1), va, (reduced 0 ty rm a va).2)⟩,
   ⟨fun t d a _ y => .rmax t d a y, true, false, true, fun ty rm a _ va _ =>
     (Lanes.ofFn (fun _ => (reduced 1 ty rm a va).1), va, (reduced 1 ty rm a va).2)⟩,
   ⟨fun t d a _ y => .rmin t d a y, true, false, true, fun ty rm a _ va _ =>
     (Lanes.ofFn (fun _ => (reduced 2 ty rm a va).1), va, (reduced 2 ty rm a va).2)⟩,
   ⟨fun t d a _ y => .scan t d a y, true, false, true, fun ty rm a _ va _ =>
     let r := scanGo (redFn 0 ty rm) none (leaves (eltWidth ty) a va)
     (ofElts (eltWidth ty) r.1, va, r.2)⟩,
   ⟨fun t d _ _ y => .laneid t d y, false, false, false, fun _ _ _ _ _ _ => (Lanes.ofFn (fun k => BitVec.ofNat 32 k), 0xFFFF, 0)⟩]

/-! ## Predicates, headers and tokens -/

/-- The node with p replaced. -/
def putP (n : Node) (p : Byte) : Node := { n with regs := { n.regs with p := p } }

/-- p with predicate `k` set or cleared. -/
def withPred (p : Byte) (k : BitVec 3) (c : Bool) : Byte :=
  if c then p ||| (1#8 <<< k.toNat) else p &&& ~~~(1#8 <<< k.toNat)

/-- A lane of an operand that is valid and not zero (R259). -/
def liveLane (n : Node) (a k : Nat) : Bool := maskBit (srcMask n a) k && (srcLanes n a).get k != 0

/-- One header instruction of R264: how its term is made from D, A and B, whether B is an operand, and what it makes of
A's header and B's value. -/
def headerRows : List ((BitVec 6 → BitVec 5 → BitVec 5 → BitVec 5 → Instr) × (W64 → W64 → W64)) :=
  [(fun t d a _ => .hdr t d a, fun h _ => h),
   (.hdrt, fun h b => h.extractLsb' 36 28 ++ b.extractLsb' 0 36),
   (.hdrm, fun h b => h.extractLsb' 52 12 ++ b.extractLsb' 0 16 ++ h.extractLsb' 0 36),
   (.hdre, fun h b => h.extractLsb' 59 5 ++ b.extractLsb' 0 3 ++ h.extractLsb' 0 56),
   (.hdrf, fun h b => b.extractLsb' 3 2 ++ b.extractLsb' 0 3 ++ h.extractLsb' 0 59),
   (.hdrc, fun h b => h.extractLsb' 56 8 ++ b.extractLsb' 0 4 ++ h.extractLsb' 0 52)]

/-- A firing under the flags that it raises: written with them, or the trap of an enabled one (R190, R191). -/
def fires (n : Node) (fl : Fl) (f : Node → Fire) : Except Trap Fire :=
  if fl &&& n.regs.fp.extractLsb' 8 5 = 0 then .ok (f (raise n fl)) else .error (fpTrap n fl)

/-- An element holds a long operation in flight with what it will write, having met its breakpoints, or with its fault
(R71, R244). -/
def begins (i : Instr) (s : State) (x : Except Trap Fire) : Prop :=
  ∀ r e c k, s.agent = .elem r e c k → Issues i s →
    let n := here s
    let fly := fun (f : Fire) (t : Option Trap) => setHere s { n with flight := some ⟨k, f, t⟩ }
    (∀ f n', x = .ok f → commitFire n f = .ok n' → exec i s = .next (bkHere (fly f none))) ∧
    (∀ t, (x = .error t ∨ ∃ f, x = .ok f ∧ commitFire n f = .error t) → exec i s = .next (fly (fireRegs n.regs) (some t)))

/-- The instructions that take more than one cycle (R244): integer multiplies and divides, floating point, conversion,
packing and reductions. -/
def isLong (i : Instr) : Prop :=
  (∃ row ∈ intRows, row.long = true ∧ ∃ t d a b y, i = row.term t d a b y) ∨
  (∃ row ∈ floatRows, ∃ t d a b y, i = row.term t d a b y) ∨ (∃ row ∈ convertRows, ∃ t d a b y, i = row.term t d a b y) ∨
  (∃ row ∈ vecRows, row.long = true ∧ ∃ t d a b y, i = row.term t d a b y)

/-! ## Helm cores -/

/-- Every byte of memory reads as before: device memory, host memory and every typed buffer. -/
def sameBytes (s t : State) : Prop :=
  (∀ a, memRead t.hbm a = memRead s.hbm a) ∧ (∀ a, memRead t.host a = memRead s.host a) ∧
  ∀ q k a, memRead (vGet Buf.reset (getR t q).bufs k).mem a = memRead (vGet Buf.reset (getR s q).bufs k).mem a

/-- The system registers of a helm core that an instruction may read or write (R325 to R327, R337). -/
def sysRegs (h : Helm) : W64 × W64 × W64 × W64 × W64 × W32 × Nat × Bool × W32 × Nat :=
  (h.status, h.cause, h.epc, h.tval, h.trapvec, h.stillLimit, h.timer, h.armed, h.launches, h.lid)

/-- p after the action of a trigger entry: CLRM cleared, then SETM set (R75). -/
def acted (p : Byte) (e : W64) : Byte := (p &&& ~~~e.extractLsb' 16 8) ||| e.extractLsb' 24 8

/-- What an instruction of a helm core that moves no data leaves alone: other regions, memory, vectors, hs.fp, ports and
the messages queued; p is what its trigger's action leaves. -/
def flowFrame (i : Instr) (s t : State) (r : Nat) : Prop :=
  (∀ q, q ≠ r → getR t q = getR s q) ∧ sameBytes s t ∧
  (getH t r).node.regs.p = acted (getH s r).node.regs.p (trigOf i s) ∧
  (getH t r).node.regs.v = (getH s r).node.regs.v ∧ (getH t r).node.regs.fp = (getH s r).node.regs.fp ∧
  (getH t r).node.ports = (getH s r).node.ports

/-- A scalar register by its code. -/
def sreg (h : Helm) (c : Nat) : W64 := getS h.node.regs (c - 8)

/-- The scalar registers are those of `s` but for one, which holds `v`. -/
def scalarsBut (h g : Helm) (c : Nat) (v : W64) : Prop :=
  sreg g c = v ∧ ∀ k, 8 ≤ k → k ≤ 15 → k ≠ c → sreg g k = sreg h k

/-- What entering a trap saves and where it goes (R319, R327): hs.epc, hs.cause by its fields, hs.tval; PIE becomes IE
and IE 0, the other status bits stay; PC becomes the low 20 bits of hs.trapvec. -/
def entered (h g : Helm) (int cls code arg : Nat) (tval epc : W64) : Prop :=
  g.epc = epc ∧ g.tval = tval ∧ Bits.nat g.cause 31 31 = int ∧ Bits.nat g.cause 30 29 = cls ∧
  Bits.nat g.cause 23 16 = code ∧ Bits.nat g.cause 12 0 = arg ∧ g.status.getLsbD 0 = false ∧
  g.status.getLsbD 1 = h.status.getLsbD 0 ∧ (∀ k, 2 ≤ k → g.status.getLsbD k = h.status.getLsbD k) ∧
  g.pc = h.trapvec.setWidth 20 ∧ g.trapvec = h.trapvec

/-- An instruction of a helm core completes with a value in its scalar D, or none where D is z, and changes no system
register, no memory, no other region and no other scalar. -/
def givesScalar (s : State) (r : Nat) (i : Instr) (d : BitVec 5) (v : W64) : Prop :=
  ∃ u, exec i s = .next u ∧ flowFrame i s u r ∧ (getH u r).pc = (getH s r).pc + 4 ∧
    sysRegs (getH u r) = sysRegs (getH s r) ∧ (classOf d.toNat = 2 → scalarsBut (getH s r) (getH u r) d.toNat v) ∧
    (classOf d.toNat ≠ 2 → (getH u r).node.regs.s = (getH s r).node.regs.s)

/-- What the selectors of R325 read that are plain registers, with the rule of each. -/
def plainRegs (s : State) (r : Nat) : List (Nat × W64) :=
  let g := getR s r
  let h := getH s r
  [(1, h.cause), (2, h.epc), (3, h.tval), (4, h.trapvec), (5, h.node.regs.fp), (6, (nodeNum s r 256 0 0).setWidth 64),
   (8, BitVec.ofNat 64 (partOf s r)), (9, BitVec.ofNat 64 (h.stillLimit.toNat + if g.hung then 2 ^ 32 else 0)),
   (7, BitVec.ofNat 64 (h.lid % 2 ^ 8 + (physOf s r).1 % 4 * 2 ^ 8 + (physOf s r).2 % 2 ^ 7 * 2 ^ 10)),
   (10, BitVec.ofNat 64 (areaOf (getP s (partOf s r)) 5).1),
   (11, BitVec.ofNat 64 (g.ringNext % 2 ^ 12 + (if g.ringFrozen then 2 ^ 31 else 0) + g.ringWraps % 2 ^ 32 * 2 ^ 32)),
   (12, 0x7FF), (13, BitVec.ofNat 64 s.now), (0x20, g.bgate.setWidth 64), (0x21, g.obsctl), (0x2C, g.kvlim.setWidth 64)] ++
    (List.range 8).map (fun k => (0x10 + k, h.lids.getD k 0)) ++
    (List.range 4).flatMap (fun k => [(0x22 + k, vGet 0 g.obsbk k), (0x28 + k, mxReg g k)])

/-- The value a context record gives a context (R330): v0 to v7, s0 to s7, p, the RR pointer and hs.fp at their places. -/
def recordGives (m : Mem) (ad : Nat) (n : Node) : Prop :=
  (∀ k < 8, getV n.regs k = BitVec.ofNat 512 (memNat m (ad + 64 * k) 64)) ∧
  (∀ k < 8, getS n.regs k = BitVec.ofNat 64 (memNat m (ad + 512 + 8 * k) 8)) ∧
  n.regs.p = memRead m (ad + 576) ∧ n.rr = (memRead m (ad + 577)).toNat % 32 ∧
  n.regs.fp = BitVec.ofNat 64 (memNat m (ad + 584) 8) &&& 0x1FDF

/-! ## Memory -/

/-- What follows an instruction whose own effect leaves the machine in `t` (R75, R86). -/
def after (i : Instr) (s t : State) : State := finish t (wordOf i) (trigOf i s) none

/-- The registers of a context after an instruction that leaves them as `x`: its trigger has acted on p (R75). -/
def regsAfter (i : Instr) (s : State) (x : Regs) : Regs := { x with p := acted x.p (trigOf i s) }

/-- Every region but one is unchanged. -/
def elsewhere (s u : State) (r : Nat) : Prop := ∀ q, q ≠ r → getR u q = getR s q

/-- Registers with a load's words in D: the lanes of a set in a vector, words 0 and 1 in a scalar (R261). -/
def loaded (x : Regs) (d : Nat) (m : BitVec 16) (w : Nat → W32) : Regs :=
  match classOf d with
  | 1 => setV x d (mergeLanes m (Lanes.ofFn w) (getV x d))
  | 2 => setS x (d - 8) (w 1 ++ w 0)
  | _ => x

/-- A word of a typed buffer. -/
def bword (s : State) (r sp a : Nat) : W32 := BitVec.ofNat 32 (memNat (getBuf (getR s r) sp).mem a 4)

/-- A typed buffer's word is full (R121). -/
def bfull (s : State) (r sp w : Nat) : Bool := setHas (getBuf (getR s r) sp).full w

/-- Bytes have been stored into a typed buffer: they read back, and every other byte of memory reads as before. -/
def stored (s u : State) (r sp ad : Nat) (bs : List Byte) : Prop :=
  (∀ x, memRead (getBuf (getR u r) sp).mem x =
    if ad ≤ x ∧ x < ad + bs.length then bs.getD (x - ad) 0 else memRead (getBuf (getR s r) sp).mem x) ∧
  (∀ w ∈ wordsOf ad bs.length, bfull u r sp w = true) ∧ (∀ k, k ≠ sp → getBuf (getR u r) k = getBuf (getR s r) k) ∧
  u.hbm = s.hbm ∧ u.host = s.host ∧ elsewhere s u r

/-- What a plain read may give for a word whose value is `new`: that value, or, in a read that is not .fe, what the word held
before a racing write of the same region cycle (R179). -/
def mayRead (s : State) (sp : Nat) (fe : Bool) (w : Nat) (new x : W32) : Prop :=
  x = new ∨ (fe = false ∧ raceAt s (readArm s.agent 0 sp 0 0 0) w = some x)

/-- A write of memory covers no CONS word of a notice queue, which would move the queue (R143). -/
def offCons (s : State) (pa n : Nat) : Prop :=
  ∀ e ∈ s.parts, (areaOf e.2 4).2.2 = 0 ∨ pa + n ≤ (areaOf e.2 4).2.1 + 8 ∨ (areaOf e.2 4).2.1 + 16 ≤ pa

/-- No armed wait or deferred read concerns the words of an access. -/
def quiet (s : State) (sp r ad n : Nat) : Prop := ∀ a ∈ s.arms, ∀ w ∈ wordsOf ad n, concerns a sp r w = false

/-- The bytes of a store's register: 8 of a scalar, 64 of a vector (R261). -/
def dataBytes (n : Node) (d : Nat) : List Byte :=
  if classOf d = 2 then Bits.bytesOf 8 (srcVal n d).toNat else Bits.bytesOf 64 (srcLanes n d).toNat


/-! ## Atomics and waits -/

/-- The new value of an atomic (R174, R280): add, signed min, signed max, exchange, and, or, binary32 add (RNE). -/
def atomSpec (op : Nat) {w : Nat} (old x : BitVec w) : BitVec w :=
  match op with
  | 0 => old + x
  | 1 => if x.slt old then x else old
  | 2 => if old.slt x then x else old
  | 3 => x
  | 4 => old &&& x
  | 5 => old ||| x
  | _ => BitVec.ofNat w (fAdd f32 0 old.toNat x.toNat).1

/-- A scalar atomic: its term from T, D, A, B and SZ, its width in bytes, and the new value from the values of D, B and
the word. -/
structure AtomRow where
  term : BitVec 6 → BitVec 5 → BitVec 5 → BitVec 5 → BitVec 3 → Instr
  bytes : Nat
  fn : W64 → W64 → Nat → Nat

/-- An atomic on a 32-bit word. -/
def atom32 (term : BitVec 6 → BitVec 5 → BitVec 5 → BitVec 3 → Instr) (op : Nat) : AtomRow :=
  ⟨fun t d a _ z => term t d a z, 4, fun x _ old => (atomSpec op (BitVec.ofNat 32 old) (x.setWidth 32)).toNat⟩

/-- An atomic on a 64-bit word. -/
def atom64 (term : BitVec 6 → BitVec 5 → BitVec 5 → BitVec 3 → Instr) (op : Nat) : AtomRow :=
  ⟨fun t d a _ z => term t d a z, 8, fun x _ old => (atomSpec op (BitVec.ofNat 64 old) x).toNat⟩

/-- ATOM, ATOMR and CAS (R280). -/
def atomRows : List AtomRow :=
  [atom32 .atomAdd 0, atom32 .atomMin 1, atom32 .atomMax 2, atom32 .atomXchg 3, atom32 .atomAnd 4, atom32 .atomOr 5,
   atom32 .atomFadd 6, atom64 .atomrAdd 0, atom64 .atomrMin 1, atom64 .atomrMax 2, atom64 .atomrXchg 3, atom64 .atomrAnd 4,
   atom64 .atomrOr 5,
   ⟨.cas, 4, fun x y old => if old = x.toNat % 2 ^ 32 then y.toNat % 2 ^ 32 else old⟩]

/-- The context with its own effect's value in D (R262): an element's completion token follows. -/
def giveD (s : State) (d : Nat) (v : W64) : State :=
  emitDone (setHere s { here s with regs := (putScalar (here s) d v).regs })

/-- An access has been armed at its node, and nothing else has changed but the waiting agent. -/
def armed (s u : State) (k : ArmKind) (sp ad : Nat) (x : W64) : Prop :=
  (∃ m, u.arms = s.arms ++ [m] ∧ m.who = s.agent ∧ m.kind = k ∧ m.space = sp ∧ m.addr = ad ∧ m.operand = x ∧
    m.released = none) ∧ sameBytes s u ∧ (here u).regs = (here s).regs ∧
  ∀ r, s.agent = .helm r → (getH u r).pc = (getH s r).pc

/-- The state of a barrier object (R144): PEND, PHASE, EXPECT, ARRIVE. -/
def barIs (s : State) (r sp off : Nat) (x : Nat × Bool × Nat × Nat) : Prop :=
  let o := memNat (getBuf (getR s r) sp).mem off 16
  (o / 2 ^ 72 % 2 ^ 56, o.testBit 71, o / 2 ^ 32 % 2 ^ 32, o % 2 ^ 32) = x

/-- The flip test of R145. -/
def flipped (x : Nat × Bool × Nat × Nat) : Nat × Bool × Nat × Nat :=
  if x.2.2.2 = x.2.2.1 ∧ x.1 = 0 then (0, !x.2.1, x.2.2.1, 0) else x

/-- A copy's block or locator as its checks take it: the fault of its addresses, then its own (R283, R391). -/
def copyPasses (sp : Nat) (k : Copy) : Prop :=
  let dst := copyDest sp k.dval
  match k.op.toNat with
  | 0xAF => spbBad k.a false false false 0 = none ∧ blockRange k.a 3 = none ∧ rangeCheck sp dst k.bytes (2 ^ spbEsz k.a) = none
  | 0xB0 => spbBad k.a false false false 0 = none ∧ spbBad k.d false true false 0 = none ∧ blockRange k.a 3 = none ∧
      blockRange k.d sp = none ∧ spbElems k.a = spbElems k.d ∧ spbEsz k.a = spbEsz k.d
  | _ => cpyqBad (k.a.setWidth 64) sp dst = none ∧ rangeCheck sp dst k.bytes (if sp = 3 then 1 else 4) = none ∧
      rangeCheck (srcSpace (k.a.setWidth 64)) (locOff (k.a.setWidth 64)) k.bytes 4 = none


/-! ## The cutter and the KV unit -/

/-- Unit k of a region, 0 the cutter and 1 the KV unit, serves the executing agent's request at once: no other stands before
it, no fork is being undone, and the core's engine holds nothing (R287, R288, R307). -/
def unitFree (s : State) (q k : Nat) : Prop :=
  unitAhead s q k = false ∧ (k = 1 → (getR s q).kvUndo = none) ∧ engineHolds s = false

/-- A helm core's request is held with its operands, and the core goes on to the next word (R262, R287, R377). -/
def requestHeld (s : State) (i : Instr) : Prop :=
  ∃ r u o, s.agent = .helm r ∧ exec i s = .next u ∧ (getH u r).outstanding = (getH s r).outstanding ++ [o] ∧ o.word = wordOf i ∧
    o.queued = true ∧ o.failed = none ∧ (getH u r).pc = (getH s r).pc + 4 ∧ (here u).regs = regsAfter i s (here s).regs

/-- A request of a unit that cannot be applied at once: where a refusal would have nothing but the request to withhold the core goes
on with it held, else the core stands at the instruction (R262, R287, R389). -/
def heldOrStands (s : State) (i : Instr) : Prop :=
  (bareHere s (wordOf i) = true → requestHeld s i) ∧ (bareHere s (wordOf i) = false → ∃ r u, s.agent = .helm r ∧
    exec i s = .next u ∧ (getH u r).pc = (getH s r).pc ∧ (getH u r).wait = .unit ∧ (here u).regs = (here s).regs ∧ sameBytes s u)

/-- A piece of demand leaves an input (R55): to every output that feeds it, and into the pending set; where no entry is free, or
the node holds a piece, it is held. -/
def forwards (s u : State) (r e c ch : Nat) (v : Ival) (ext : Bool) : Prop :=
  let n := getN s r e c
  let all := ivAdd (nodePair n ch).pending v
  let d : Demand := { lo := v.lo, hi := v.hi, step := v.step, ctx := v.ctx, inp := ch, ext := ext }
  let m := withPair s r e c ch (fun p => { p with pending := all })
  (nodeHolds n = true ∨ 8 < all.length → u = withPair s r e c ch (fun p => { p with held := p.held ++ [d] })) ∧
  let ls := (feeders m r e ch).map (fun f => ({ src := ⟨r, e, c, ch⟩, dst := f.1, dem := d, slot := f.2 } : DLink))
  (nodeHolds n = false → all.length ≤ 8 → u = { m with dlinks := m.dlinks ++ ls })

/-- Pieces leave the inputs of a node one after another. -/
def forwardsAll (r e c : Nat) : List (Nat × Ival × Bool) → State → State → Prop
  | [], s, u => u = s
  | x :: l, s, u => ∃ m, forwards s m r e c x.1 x.2.1 x.2.2 ∧ forwardsAll r e c l m u

/-- An input asks for a mapped range: what its served and pending sets leave of it is forwarded (R53 steps 4 and 5). -/
def asks (s u : State) (r e c ch : Nat) (w : Ival) (ext : Bool) : Prop :=
  let n := getN s r e c
  forwardsAll r e c ((reduceAt (nodePair n ch) (winH n w.ctx) w).map (fun v => (ch, v, ext))) s u

/-- An input of a node takes a demand that has arrived at one of its outputs: a HELM input queues it, any other maps it and asks
(R48, R51, R53, R61). -/
def inputTakes (s u : State) (y : At) (ch : Nat) (tok : Demand) (v : Ival) (ext : Bool) (at0 : Option Nat) : Prop :=
  let n := getN s y.r y.e y.c
  let p := nodePair n ch
  (p.ctxset.getLsbD v.ctx = false ∨ p.sink = true → u = s) ∧
  (p.ctxset.getLsbD v.ctx = true → p.sink = false → rtfKind p.rtf = 5 →
    u = withPair s y.r y.e y.c ch (fun p => { p with asked := p.asked ++ [tok] })) ∧
  (p.ctxset.getLsbD v.ctx = true → p.sink = false → rtfKind p.rtf ≠ 5 →
    (rtfMap p.rtf (winH n v.ctx) v = none → u = s) ∧
    (∀ w, rtfMap p.rtf (winH n v.ctx) v = some w →
      (at0 = none → asks s u y.r y.e y.c ch w ext) ∧
      (∀ c0, at0 = some c0 →
        let rest := p.served.flatMap (ivCut { w with step := 1 })
        asks (withPair s y.r y.e y.c ch (fun p => { p with reload := p.reload ++ [(w, c0)], served := rest })) u y.r y.e y.c ch w ext)))

/-- One cut has its effect (R299, R300, R302): the bound registers, the continuation and the tile token on D. -/
def cuts (s : State) (i : Instr) (d : BitVec 5) (mode : Nat) (bud cur : W64) : Prop :=
  let r := hereR s
  let g := getR s r
  let ba := if mode ≠ 1 then Bits.nat bud 23 0 else 2 ^ 24 - 1
  let bb := if mode ≠ 0 then Bits.nat bud 55 32 else 2 ^ 24 - 1
  let k := Bits.nat cur 31 0
  let off := Bits.nat cur 55 32
  let f := cutCounts s r (if mode ≠ 1 then some g.ha else none) (if mode ≠ 0 then some g.hb else none)
  (∀ j, cutRefusal g mode bud cur = some j → exec i s = .next (faultHere (unitLeave s r 0) ⟨0x23, j, cur, 0⟩)) ∧
  (cutRefusal g mode bud cur = none → cutInside f (cutLen g mode) ba bb k off cur = .ok () →
    ∀ lo hi na nb fl nxt, cutTile f (cutLen g mode) ba bb k off cur = .ok (lo, hi, na, nb, fl, nxt) →
    ∃ s1, (getR s1 r).cont = some ⟨mode, bud, BitVec.ofNat 64 nxt⟩ ∧
      ([lo, hi, na, nb, fl].map (BitVec.ofNat 64) ++ [cur] = (List.range 6).map (vGet 0 (getR s1 r).bounds)) ∧
      here s1 = here s ∧ s1.agent = s.agent ∧ s1.host = s.host ∧ elsewhere s s1 r ∧
      (classOf d.toNat ≠ 8 → exec i s = .next (after i s (unitLeave s1 r 0))) ∧
      (classOf d.toNat = 8 → ∀ n', commitFire (here s) (fireTok (here s).regs (d.toNat - 24)
          ⟨mkHdr 1 7 (if fl / 8 % 2 = 1 then 1 else 0) 0 0x007F lo,
            Lanes.ofList (([lo, hi, na, nb, fl, k, off] : List Nat).map (BitVec.ofNat 32))⟩ true) = .ok n' →
        exec i s = .next (after i s (unitLeave (setHere s1 n') r 0))))

/-- A KV request completes (R288, R304): its stores have been made in its graph's view, and D holds its result, a scalar
or a vector. -/
def kvGives (s : State) (i : Instr) (d : BitVec 5) (ws : List (Nat × Nat × Nat)) (x : W64) (v : Lanes) : Prop :=
  ∀ s1, kvStore s (hereR s) ws = .done s1 → ∃ u, exec i s = .next u ∧
    u.launches = (engineGo s1 s1.agent).launches ∧ u.host = s1.host ∧
    (here u).regs = regsAfter i s (match classOf d.toNat with
      | 2 => setS (here s1).regs (d.toNat - 8) x
      | 1 => setV (here s1).regs d.toNat v
      | _ => (here s1).regs)

/-- A KV request that stores nothing. -/
def kvReads (s : State) (i : Instr) (d : BitVec 5) (x : W64) (v : Lanes) : Prop :=
  ∃ u, exec i s = .next u ∧ u.launches = (engineGo s s.agent).launches ∧ u.host = s.host ∧
    (here u).regs = regsAfter i s (match classOf d.toNat with
      | 2 => setS (here s).regs (d.toNat - 8) x
      | 1 => setV (here s).regs d.toNat v
      | _ => (here s).regs)


/-! ## Launches -/

/-- A launch by number, with what holds of it. -/
def launchIs (u : State) (l : Nat) (f : Launch → Prop) : Prop := ∃ y, getL u l = some y ∧ f y



/-! ## Messages -/

/-- The message of a row, as an instruction. -/
def isMsg (row : Row) (m : Msg) (i : Instr) : Prop :=
  match row with
  | .noEndpoint => i = .messageNoEndpoint m
  | .notHello => i = .firstMessageNotHello m
  | .unknown => i = .unknownMessageType m
  | .helloSetup => i = .helloSetup m
  | .helloCredit => i = .helloCredit m
  | .launch => i = .launchMessage m
  | .request => i = .request m
  | .fenceRead => i = .fenceRead m
  | .fenceRaise => i = .fenceRaise m
  | .fenceWait => i = .fenceWait m
  | .mapPages => i = .mapPages m
  | .mapUnmap => i = .mapUnmap m
  | .mapThreshold => i = .mapThreshold m
  | .pin => i = .pin m
  | .unpin => i = .unpin m
  | .dumpCleartext => i = .dumpreadCleartext m
  | .dumpBody => i = .dumpreadBody m
  | .dumpSediment => i = .dumpreadSediment m
  | .dumpRing => i = .dumpreadWakeRing m
  | .dumpRelease => i = .dumpreadRelease m
  | .resync => i = .resync m
  | .attest => i = .attest m
  | .updatePiece => i = .updatePiece m
  | .updateCommit => i = .updateCommit m
  | .updateAbort => i = .updateAbort m
  | .partCreate => i = .partctlCreate m
  | .partResize => i = .partctlResize m
  | .partDelete => i = .partctlDelete m
  | .partReset => i = .partctlReset m
  | .partSpare => i = .partctlSpareRemap m

/-- Where a row may arrive (R16, R18) and the feature bit that it needs (R21). -/
def gateOf : Row → Place × Option Nat
  | .dumpCleartext | .dumpBody | .dumpSediment | .dumpRing | .dumpRelease => (.both, some 8)
  | .attest => (.both, some 6)
  | .resync => (.both, none)
  | .updatePiece | .updateCommit | .updateAbort => (.management, some 7)
  | .partCreate | .partResize | .partDelete | .partReset | .partSpare => (.management, none)
  | _ => (.partition, none)

/-- The rows that check an endpoint, a partition and a feature in the same way. -/
def gatedRow (row : Row) : Prop := row ∉ [.noEndpoint, .notHello, .unknown, .helloSetup, .helloCredit]

/-- A message is carried out now, as one of a row, at an endpoint: it arrives, behind no message that its connection holds, its
connection has a free completion entry where the row asks for one, and its SEQ is new and in order (R15, R16, R19, R20). -/
def carried (s : State) (m : Msg) (row : Row) (ep : Option Nat) : Prop :=
  let c := getC s m.conn
  arrives s m = true ∧ msgRow s m = row ∧ endpointOf s m.dest = some ep ∧ mSeq m ∉ c.seqs ∧ behindHeld c row m = false ∧
  ringHolds c row = false ∧ (onRod c m = true → ∀ q, c.last = some q → q.toNat ≤ (mSeq m).toNat)

/-- No check that the rows share stops a message: a firmware image runs, the header is as R17 and R18 have it, the endpoint
takes the type, PART is the endpoint's, and the feature was accepted (R18, R21, R24). -/
def sound (s : State) (m : Msg) (row : Row) (ep : Option Nat) : Prop :=
  fallback s = false ∧ hdrBad m = false ∧ (∀ p, ep = some p → mPart m = p) ∧
  (match (gateOf row).1 with | .partition => ep ≠ none | .management => ep = none | .both => True) ∧
  (∀ b, (gateOf row).2 = some b → (getC s m.conn).features.getLsbD b = true)

/-- A message that passes every check before its row's own. -/
def taken (s : State) (m : Msg) (row : Row) (ep : Option Nat) : Prop := carried s m row ep ∧ sound s m row ep

/-- The completion record of a message (R19, R20). -/
def compOf (m : Msg) (ep : Option Nat) (st v : Nat) : Comp :=
  { tag := mTag m, value := BitVec.ofNat 64 v, typ := BitVec.ofNat 8 (mType m), status := BitVec.ofNat 8 st,
    part := BitVec.ofNat 5 (ep.getD (mPart m)), seq := mSeq m }

/-- A completion record as R20 lays it out: PHASE is 1 on the first pass of the ring. -/
def recordBits (c : Comp) (pass : Nat) : BitVec 256 :=
  c.tag ++ c.value ++ c.typ ++ c.status ++ c.part ++ 0#42 ++ (if pass % 2 = 0 then 1#1 else 0#1) ++ c.seq

/-- The next entry of a connection's ring. -/
def entryAt (c : Conn) : Nat := c.ring.toNat + 32 * (c.written % c.count)

/-- A message has completed: its completion is remembered, and stands in the next entry of its connection's ring. -/
def answered (s u : State) (m : Msg) (ep : Option Nat) (st v : Nat) : Prop :=
  let c := getC s m.conn
  compOf m ep st v ∈ (getC u m.conn).done ∧ (getC u m.conn).seqs = c.seqs ++ [mSeq m] ∧
  (memWf s.host = true → c.count ≠ 0 →
    BitVec.ofNat 256 (memNat u.host (entryAt c) 32) = recordBits (compOf m ep st v) (c.written / c.count) ∧
    (getC u m.conn).free + 1 = c.free ∧ (getC u m.conn).written = c.written + 1)

/-- A message completes so, and leaves device memory and every region alone. -/
def answers (s : State) (i : Instr) (m : Msg) (ep : Option Nat) (st v : Nat) (f : State → Prop) : Prop :=
  ∃ u, exec i s = .next u ∧ answered s u m ep st v ∧ u.regions = s.regions ∧ f u

/-- The connection has taken the message. -/
def noted (s : State) (m : Msg) (row : Row) : State := setC s m.conn (connTaken (getC s m.conn) row m)

/-- Bytes that a message asked for lie in host memory, where the ring's entry does not. -/
def sentTo (s u : State) (m : Msg) (a : Nat) (bs : List Byte) : Prop :=
  memWf s.host = true → (entryAt (getC s m.conn) + 32 ≤ a ∨ a + bs.length ≤ entryAt (getC s m.conn)) →
    memReadN u.host a bs.length = bs



/-- A PARTCTL that passes what all its operations check (R34). -/
def partTaken (s : State) (m : Msg) (row : Row) (op : Nat) : Prop := taken s m row none ∧ partctlBad m op = false



/-- A launch is over: it is ended, its dredge is over, and the regions that held it are free. -/
def overOf (s u : State) (l : Nat) : Prop :=
  launchIs u l (fun y => y.phase = .ended ∧ y.cut = none ∧ y.snap = none) ∧ u.dredges = s.dredges.erase l ∧
  ∀ r, (getR s r).launch = some l → (getR u r).launch = none

/-- The handler of a helm core can be delivered a trap (R319). -/
def canTake (h : Helm) : Prop := h.trapvec ≠ 0 ∧ h.halted = false



/-! ## The machine -/

/-- The typed buffers of a region are in canonical form. -/
def bufsWf (g : Region) : Prop := ∀ k, memWf (vGet Buf.reset g.bufs k).mem = true

/-- Every byte memory of the device is in canonical form: device memory, host memory, the typed buffers of every region, and
those of the images that cuts hold. -/
def memoryKept (s : State) : Prop :=
  memWf s.hbm = true ∧ memWf s.host = true ∧ (∀ e ∈ s.regions, bufsWf e.2) ∧
  ∀ e ∈ s.launches, (∀ c, e.2.snap = some c → ∀ g ∈ c.image, bufsWf g.2) ∧ (∀ c, e.2.cut = some c → ∀ g ∈ c.image, bufsWf g.2)

/-- The word of a vector-register format (R221, R222): T6, O8, D5, A5, B5, Y3 from bit 31 down. -/
def fieldsWord (t : BitVec 6) (o : BitVec 8) (d a b : BitVec 5) (y : BitVec 3) : W32 := t ++ o ++ d ++ a ++ b ++ y


end Sys2Proof.Claims

open Sys2Proof Sys2Proof.Machine Sys2Proof.Claims

/-- R245 to R247, scalar form (D, A and B scalars or z): the instruction completes, D gets the result of the table at the
width of TY and nothing else of the context changes; in an element this is stated for the one-cycle ones. -/
def Obligations.IntScalarResults : Prop :=
  ∀ row ∈ intRows, ∀ (t : BitVec 6) (d a b : BitVec 5) (y : BitVec 3) (s : State),
    isScalarShape [d.toNat, a.toNat, b.toNat] = true → Issues (row.term t d a b y) s →
    (row.long = true → isHelm s = true) →
    exec (row.term t d a b y) s = .next (retire (row.term t d a b y) s (putScalar (here s) d.toNat
      (onScalars y.toNat row.fn (srcVal (here s) d.toNat) (srcVal (here s) a.toNat) (srcVal (here s) b.toNat))))

/-- R242, R245 to R247, vector form: the instruction completes, and on the lanes that A's and B's heads validate D gets,
lane by lane and element by element, the result of the table; its other lanes keep their values. -/
def Obligations.IntVectorResults : Prop :=
  ∀ row ∈ intRows, ∀ (t : BitVec 6) (d a b : BitVec 5) (y : BitVec 3) (s : State) (ty : Nat) (n' : Node),
    (row.hasB = false → b = 28) → isScalarShape [d.toNat, a.toNat, b.toNat] = false →
    Issues (row.term t d a b y) s → (row.long = true → isHelm s = true) →
    effTy (here s) (fieldO (wordOf (row.term t d a b y))).toNat a.toNat y.toNat = .ok ty →
    commitFire (here s) (vecFire (here s) d.toNat a.toNat b.toNat ty (srcMask (here s) a.toNat &&& srcMask (here s) b.toNat)
      (Lanes.ofFn (fun k => onElts ty row.fn ((srcLanes (here s) d.toNat).get k) ((srcLanes (here s) a.toNat).get k)
        ((srcLanes (here s) b.toNat).get k)))) = .ok n' →
    exec (row.term t d a b y) s = .next (retire (row.term t d a b y) s n')

/-- R227, R241, R245 to R247, immediate forms: a scalar D gets the 64-bit result on the source's 64 bits; else the source's
valid lanes each give the 32-bit result, in the format of .i32. The instruction completes. -/
def Obligations.IntImmediateResults : Prop :=
  ∀ row ∈ immRows, ∀ (t : BitVec 6) (d a : BitVec 5) (i : BitVec 13) (s : State),
    Issues (row.term t d a i) s →
    let src := if row.src = 0 then 28 else if row.src = 1 then a.toNat else d.toNat
    (classOf d.toNat = 2 →
      exec (row.term t d a i) s = .next (retire (row.term t d a i) s (putScalar (here s) d.toNat
        (row.fn 64 (srcVal (here s) src) i)))) ∧
    (classOf d.toNat ≠ 2 → ∀ n',
      commitFire (here s) (vecFire (here s) d.toNat src 28 0 (srcMask (here s) src)
        (Lanes.ofFn (fun k => row.fn 32 ((srcLanes (here s) src).get k) i))) = .ok n' →
      exec (row.term t d a i) s = .next (retire (row.term t d a i) s n'))

/-- R190, R191, R248 to R250, R197, scalar form in a helm core: the instruction completes; D gets the result of the table
on the low 32 bits, zero-extended, and its flags are ORed into hs.fp; where an enable of TEN meets a flag raised, the
core takes the trap instead and nothing is written. -/
def Obligations.FloatScalarResults : Prop :=
  ∀ row ∈ floatRows, ∀ (t : BitVec 6) (d a b : BitVec 5) (y : BitVec 3) (s : State),
    isScalarShape [d.toNat, a.toNat, b.toNat] = true → isHelm s = true → Issues (row.term t d a b y) s →
    let n := here s
    let v := fun c => (srcVal n c).setWidth 32
    let r := onFloats y.toNat row.fn (Bits.nat n.regs.fp 7 6) (v d.toNat) (v a.toNat) (v b.toNat)
    (r.2 &&& n.regs.fp.extractLsb' 8 5 = 0 →
      exec (row.term t d a b y) s = .next (retire (row.term t d a b y) s (putScalar (raise n r.2) d.toNat (r.1.setWidth 64)))) ∧
    (r.2 &&& n.regs.fp.extractLsb' 8 5 ≠ 0 → exec (row.term t d a b y) s = .next (faultHere s (fpTrap n r.2)))

/-- R190, R191, R242, R248 to R250, vector form in a helm core: the valid lanes give their results and their flags, and
the instruction completes; or the trap of R191 is taken. -/
def Obligations.FloatVectorResults : Prop :=
  ∀ row ∈ floatRows, ∀ (t : BitVec 6) (d a b : BitVec 5) (y : BitVec 3) (s : State) (ty : Nat),
    (row.hasB = false → b = 28) → isScalarShape [d.toNat, a.toNat, b.toNat] = false → isHelm s = true →
    Issues (row.term t d a b y) s →
    effTy (here s) (fieldO (wordOf (row.term t d a b y))).toNat a.toNat y.toNat = .ok ty →
    let n := here s
    let m := srcMask n a.toNat &&& srcMask n b.toNat
    let r := fun k => onFloats ty row.fn (Bits.nat n.regs.fp 7 6) ((srcLanes n d.toNat).get k) ((srcLanes n a.toNat).get k)
      ((srcLanes n b.toNat).get k)
    let fl := flagsOf m (fun k => (r k).2)
    (fl &&& n.regs.fp.extractLsb' 8 5 = 0 → ∀ n',
      commitFire n (vecFire (raise n fl) d.toNat a.toNat b.toNat ty m (Lanes.ofFn (fun k => (r k).1))) = .ok n' →
      exec (row.term t d a b y) s = .next (retire (row.term t d a b y) s n')) ∧
    (fl &&& n.regs.fp.extractLsb' 8 5 ≠ 0 → exec (row.term t d a b y) s = .next (faultHere s (fpTrap n fl)))

/-- R183, R189: a finite value that the format holds is its own rounding in every mode, with no flag raised. -/
def Obligations.RoundingExact : Prop :=
  ∀ f ∈ [f32, bf16, f16], ∀ (rm x : Nat), x < 2 ^ (1 + f.eb + f.fb) → (fUnpack f x).cls = .fin →
    fPack f rm (fUnpack f x).neg (fUnpack f x).num (fUnpack f x).den = (x, 0)

/-- R190, R191, R251, R253, vector form in a helm core: each valid lane is converted, or quantised, dequantised, multiplied
or scaled, and the instruction completes; or the trap of R191 is taken. -/
def Obligations.ConvertVectorResults : Prop :=
  ∀ row ∈ convertRows, ∀ (t : BitVec 6) (d a b : BitVec 5) (y : BitVec 3) (s : State) (ty : Nat),
    isScalarShape [d.toNat, a.toNat, codeB row.hasB b] = false → isHelm s = true → Issues (row.term t d a b y) s →
    effTy (here s) (fieldO (wordOf (row.term t d a b y))).toNat a.toNat y.toNat = .ok ty →
    let n := here s
    let m := srcMask n a.toNat &&& srcMask n (codeB row.hasB b)
    let r := fun k => row.fn ty (b.toNat % 8) (Bits.nat n.regs.fp 7 6) ((srcLanes n d.toNat).get k)
      ((srcLanes n a.toNat).get k) ((srcLanes n (codeB row.hasB b)).get k)
    let fl := flagsOf m (fun k => (r k).2)
    (fl &&& n.regs.fp.extractLsb' 8 5 = 0 → ∀ n',
      commitFire n (vecFire (raise n fl) d.toNat a.toNat (codeB row.hasB b) ty m (Lanes.ofFn (fun k => (r k).1))) = .ok n' →
      exec (row.term t d a b y) s = .next (retire (row.term t d a b y) s n')) ∧
    (fl &&& n.regs.fp.extractLsb' 8 5 ≠ 0 → exec (row.term t d a b y) s = .next (faultHere s (fpTrap n fl)))

/-- R251, R195, scalar form of CVT and CVTS in a helm core: .i64 takes and gives all 64 bits, a packed type its low half,
any other type its low 32 bits, and the instruction completes; or the trap of R191 is taken. -/
def Obligations.ConvertScalarResults : Prop :=
  ∀ (sat : Bool) (t : BitVec 6) (d a : BitVec 5) (c y : BitVec 3) (s : State),
    let i := if sat then Instr.cvts t d a c y else Instr.cvt t d a c y
    isScalarShape [d.toNat, a.toNat] = true → isHelm s = true → Issues i s →
    let n := here s
    let rm := Bits.nat n.regs.fp 7 6
    let x := (srcVal n a.toNat).toNat % 2 ^ (if c = 6 then 64 else if c = 3 ∨ c = 4 then 16 else 32)
    let r : W64 × Fl :=
      if y = 6 then (let e := cvtElt sat 6 c.toNat rm x; (BitVec.ofNat 64 e.1, e.2))
      else
        let e := if c = 6 then (let e := cvtElt sat y.toNat 6 rm x; (BitVec.ofNat 32 e.1, e.2))
          else cvtLane sat y.toNat c.toNat rm ((srcVal n a.toNat).setWidth 32)
        (if y = 0 then e.1.signExtend 64 else e.1.setWidth 64, e.2)
    (r.2 &&& n.regs.fp.extractLsb' 8 5 = 0 → exec i s = .next (retire i s (putScalar (raise n r.2) d.toNat r.1))) ∧
    (r.2 &&& n.regs.fp.extractLsb' 8 5 ≠ 0 → exec i s = .next (faultHere s (fpTrap n r.2)))

/-- R200, R252, R254, R255, vector form: BCAST, PERM, PACK, UNPKL, UNPKH, the reductions, SCAN and LANEID
give the lanes and the lane set of the table and the instruction completes; or the trap of R191 is taken. -/
def Obligations.LaneVectorResults : Prop :=
  ∀ row ∈ vecRows, ∀ (t : BitVec 6) (d a b : BitVec 5) (y : BitVec 3) (s : State) (ty : Nat),
    let ca := if row.hasA then a.toNat else 28
    isScalarShape [d.toNat, ca, codeB row.hasB b] = false → classOf d.toNat ≠ 2 →
    (row.long = true → isHelm s = true) → Issues (row.term t d a b y) s →
    effTy (here s) (fieldO (wordOf (row.term t d a b y))).toNat ca y.toNat = .ok ty →
    let n := here s
    let r := row.fn ty (Bits.nat n.regs.fp 7 6) (srcLanes n ca) (srcLanes n (codeB row.hasB b)) (srcMask n ca)
      (srcMask n (codeB row.hasB b))
    (r.2.2 &&& n.regs.fp.extractLsb' 8 5 = 0 → ∀ n',
      commitFire n (vecFire (raise n r.2.2) d.toNat ca (codeB row.hasB b) ty r.2.1 r.1) = .ok n' →
      exec (row.term t d a b y) s = .next (retire (row.term t d a b y) s n')) ∧
    (r.2.2 &&& n.regs.fp.extractLsb' 8 5 ≠ 0 → exec (row.term t d a b y) s = .next (faultHere s (fpTrap n r.2.2)))

/-- R241, R242, R254, R255, R258: RSUM, RMAX, RMIN, EXTL and MSKG write a scalar from a channel or a vector (the reductions in
a helm core); an invalid lane of EXTL gives 0; or the trap of R191 is taken. LROT rotates lanes and lane set together, INSL
writes one lane, EXTL and MSKG spread one value over the lanes, MSKS keeps the lanes that B allows. Each completes. That a lane
number of INSL and EXTL counts modulo 16 is the model's reading (log 12). -/
def Obligations.LaneToScalarResults : Prop :=
  (∀ (t : BitVec 6) (d a : BitVec 5) (y : BitVec 3) (s : State),
     classOf d.toNat = 2 → classOf a.toNat = 1 ∨ classOf a.toNat = 4 →
     let n := here s
     (isHelm s = true → ∀ kind < 3, ∀ ty,
       let i := if kind = 0 then Instr.rsum t d a y else if kind = 1 then Instr.rmax t d a y else Instr.rmin t d a y
       Issues i s → effTy n (0x63 + kind) a.toNat y.toNat = .ok ty →
       let r := reduced kind ty (Bits.nat n.regs.fp 7 6) (srcLanes n a.toNat) (srcMask n a.toNat)
       (r.2 &&& n.regs.fp.extractLsb' 8 5 = 0 → exec i s = .next (retire i s (putScalar (raise n r.2) d.toNat
         (if ty = 0 then r.1.signExtend 64 else r.1.setWidth 64)))) ∧
       (r.2 &&& n.regs.fp.extractLsb' 8 5 ≠ 0 → exec i s = .next (faultHere s (fpTrap n r.2)))) ∧
     (∀ k : BitVec 8, Issues (.extl t d a k) s →
       exec (.extl t d a k) s = .next (retire (.extl t d a k) s (putScalar n d.toNat
         (if maskBit (srcMask n a.toNat) (k.toNat % 16) then ((srcLanes n a.toNat).get (k.toNat % 16)).signExtend 64 else 0)))) ∧
     (∀ ty, Issues (.mskg t d a y) s → effTy n 0x69 a.toNat y.toNat = .ok ty →
       exec (.mskg t d a y) s = .next (retire (.mskg t d a y) s (putScalar n d.toNat
         ((match headOf n a.toNat with | some h => hMask h.hdr | none => 0xFFFF).setWidth 64))))) ∧
  (∀ (t : BitVec 6) (d a b : BitVec 5) (k : BitVec 8) (y : BitVec 3) (s : State) (ty : Nat) (n' : Node),
     classOf d.toNat ≠ 2 →
     let n := here s
     let va := srcMask n a.toNat
     let xa := srcLanes n a.toNat
     (Issues (.lrot t d a k) s → commitFire n (vecFire n d.toNat a.toNat 28 0 (maskOf (fun j => maskBit va ((j + k.toNat) % 16)))
         (Lanes.ofFn (fun j => xa.get ((j + k.toNat) % 16)))) = .ok n' →
       exec (.lrot t d a k) s = .next (retire (.lrot t d a k) s n')) ∧
     (Issues (.insl t d a k) s → commitFire n (vecFire n d.toNat a.toNat 28 0
         (maskOf (fun j => j == k.toNat % 16 && maskBit va 0)) (Lanes.ofFn (fun _ => xa.get 0))) = .ok n' →
       exec (.insl t d a k) s = .next (retire (.insl t d a k) s n')) ∧
     (Issues (.extl t d a k) s → commitFire n (vecFire n d.toNat a.toNat 28 0
         (if maskBit va (k.toNat % 16) then 0xFFFF else 0) (Lanes.ofFn (fun _ => xa.get (k.toNat % 16)))) = .ok n' →
       exec (.extl t d a k) s = .next (retire (.extl t d a k) s n')) ∧
     (isScalarShape [d.toNat, a.toNat] = false → Issues (.mskg t d a y) s → effTy n 0x69 a.toNat y.toNat = .ok ty →
       commitFire n (vecFire n d.toNat a.toNat 28 ty va (Lanes.ofFn (fun _ =>
         (match headOf n a.toNat with | some h => hMask h.hdr | none => 0xFFFF).setWidth 32))) = .ok n' →
       exec (.mskg t d a y) s = .next (retire (.mskg t d a y) s n')) ∧
     (isScalarShape [d.toNat, a.toNat, b.toNat] = false → Issues (.msks t d a b y) s →
       effTy n 0x6A a.toNat y.toNat = .ok ty →
       commitFire n (vecFire n d.toNat a.toNat b.toNat ty (keepMask (inPairs n a.toNat) va (allowMask n b.toNat)) xa) = .ok n' →
       exec (.msks t d a b y) s = .next (retire (.msks t d a b y) s n')))

/-- R256, R257: FILTER moves the valid lanes of A, or the valid pairs of a COORD head, to the low places and, on a port, T to
the first one's time; COAL appends them to the port's open token. Each completes. -/
def Obligations.CompactionResults : Prop :=
  ∀ (t : BitVec 6) (d a : BitVec 5) (y : BitVec 3) (s : State) (ty : Nat) (n' : Node),
    let n := here s
    let c := inPairs n a.toNat
    let ks := (List.range (if c then 8 else 16)).filter (maskBit (srcMask n a.toNat))
    (isScalarShape [d.toNat, a.toNat] = false → classOf d.toNat ≠ 2 → Issues (.filter t d a y) s →
      effTy n 0x67 a.toNat y.toNat = .ok ty →
      let up := fun j => if c then j % 8 else j
      let m := maskOf (fun j => decide (up j < ks.length))
      let x := Lanes.ofFn (fun j => if up j < ks.length then (srcLanes n a.toNat).get (ks.getD (up j) 0 + (j - up j)) else 0)
      let first := match ks with | j :: _ => j * srcStep n a.toNat | [] => 0
      let tok : Token := { hdr := fireHdr n a.toNat 28 ty m, pay := mergeLanes m x 0 }
      let f := if classOf d.toNat = 8 then
          let q : OutReq := ⟨d.toNat - 24, { tok with hdr := hSetT tok.hdr (hT tok.hdr + first) }, false, none,
            (headOf n a.toNat).map (endPos (srcStep n a.toNat))⟩
          { regs := n.regs, out := [q], coal := none }
        else vecFire n d.toNat a.toNat 28 ty m x
      commitFire n f = .ok n' → exec (.filter t d a y) s = .next (retire (.filter t d a y) s n')) ∧
    (Issues (.coal t d a y) s → effTy n 0x68 a.toNat y.toNat = .ok ty →
      let tok : Token := { hdr := fireHdr n a.toNat 28 ty (srcMask n a.toNat), pay := srcLanes n a.toNat }
      ∀ p, coalPort (nodePort n (d.toNat - 24)) tok c (srcStep n a.toNat) = .ok p →
        exec (.coal t d a y) s = .next (retire (.coal t d a y) s
          (raiseW (setPort n (d.toNat - 24) { p with ended := false }) tok (tokTimes (srcStep n a.toNat) tok))))

/-- R259, R260: PSET, PCLR and PFLIP set, clear and invert the named predicates; PTEST, PANY and PALL set or clear one by
the test of A; PMOV reads p into D or writes it from A, lane 0 of which must be valid, and takes TY 0 and one operand that is
not z at most. Each completes. -/
def Obligations.PredicateResults : Prop :=
  ∀ (t : BitVec 6) (m : BitVec 8) (k : BitVec 3) (d a : BitVec 5) (s : State),
    let n := here s
    let scalar := classOf a.toNat = 2 ∨ classOf a.toNat = 16
    (Issues (.pset t m) s → exec (.pset t m) s = .next (retire (.pset t m) s (putP n (n.regs.p ||| m)))) ∧
    (Issues (.pclr t m) s → exec (.pclr t m) s = .next (retire (.pclr t m) s (putP n (n.regs.p &&& ~~~m)))) ∧
    (Issues (.pflip t m) s → exec (.pflip t m) s = .next (retire (.pflip t m) s (putP n (n.regs.p ^^^ m)))) ∧
    (Issues (.ptest t k a) s → exec (.ptest t k a) s = .next (retire (.ptest t k a) s (putP n (withPred n.regs.p k
      (if scalar then srcVal n a.toNat != 0 else liveLane n a.toNat 0))))) ∧
    (Issues (.pany t k a) s → exec (.pany t k a) s = .next (retire (.pany t k a) s (putP n (withPred n.regs.p k
      (if scalar then srcVal n a.toNat != 0 else (List.range 16).any (liveLane n a.toNat)))))) ∧
    (Issues (.pall t k a) s → exec (.pall t k a) s = .next (retire (.pall t k a) s (putP n (withPred n.regs.p k
      (if scalar then srcVal n a.toNat != 0
       else (List.range 16).all (fun j => !maskBit (srcMask n a.toNat) j || liveLane n a.toNat j)))))) ∧
    (Issues (.pmovRead t d) s → classOf d.toNat = 2 →
      exec (.pmovRead t d) s = .next (retire (.pmovRead t d) s (putScalar n d.toNat (n.regs.p.setWidth 64)))) ∧
    (Issues (.pmovRead t d) s → classOf d.toNat ≠ 2 → ∀ n',
      commitFire n (vecFire n d.toNat 28 28 0 0xFFFF (Lanes.ofFn (fun _ => n.regs.p.setWidth 32))) = .ok n' →
      exec (.pmovRead t d) s = .next (retire (.pmovRead t d) s n')) ∧
    (Issues (.pmovWrite t a) s → exec (.pmovWrite t a) s = .next (retire (.pmovWrite t a) s
      (if maskBit (srcMask n a.toNat) 0 then putP n ((srcVal n a.toNat).setWidth 8) else n))) ∧
    (∀ (helm : Bool) (y : BitVec 3), (staticFault helm (fieldsWord t 0x76 d a 28 y)).isSome = true ↔
      ¬ (y = 0 ∧ ((d = 28 ∧ classOf a.toNat ∈ [1, 2, 4, 16]) ∨ (a = 28 ∧ classOf d.toNat ∈ [1, 2, 8]))))

/-- R264, R265: a header instruction writes A's header (a head's, or a scalar's bits) with the fields that B gives to a scalar
D; TIME writes T or the time of each valid lane, ENDR writes END. Each completes; any other D, A or TY is illegal. -/
def Obligations.HeaderResults : Prop :=
  (∀ row ∈ headerRows, ∀ (t : BitVec 6) (d a b : BitVec 5) (s : State), Issues (row.1 t d a b) s →
     exec (row.1 t d a b) s = .next (retire (row.1 t d a b) s
       (putScalar (here s) d.toNat (row.2 (srcHdr (here s) a.toNat) (srcVal (here s) b.toNat))))) ∧
  (∀ (t : BitVec 6) (d a : BitVec 5) (y : BitVec 3) (s : State),
     let n := here s
     let h := srcHdr n a.toNat
     (Issues (.time t d a y) s → y = 6 →
       exec (.time t d a y) s = .next (retire (.time t d a y) s (putScalar n d.toNat ((h.extractLsb' 0 36).setWidth 64)))) ∧
     (Issues (.time t d a y) s → y ≠ 6 → classOf d.toNat = 1 →
       exec (.time t d a y) s = .next (retire (.time t d a y) s { n with regs := setV n.regs d.toNat (mergeLanes (srcMask n a.toNat)
         (Lanes.ofFn (fun k => BitVec.ofNat 32 ((h.extractLsb' 0 36).toNat + k * srcStep n a.toNat))) (getV n.regs d.toNat)) })) ∧
     (Issues (.endr t d a) s → classOf d.toNat = 2 →
       exec (.endr t d a) s = .next (retire (.endr t d a) s (putScalar n d.toNat ((h.extractLsb' 56 3).setWidth 64)))) ∧
     (Issues (.endr t d a) s → classOf d.toNat = 1 →
       exec (.endr t d a) s = .next (retire (.endr t d a) s { n with regs := setV n.regs d.toNat (Lanes.ofFn (fun _ =>
         (h.extractLsb' 56 3).setWidth 32)) }))) ∧
  (∀ (helm : Bool) (t : BitVec 6) (d a b : BitVec 5) (y : BitVec 3), let illegal := fun (w : W32) => (staticFault helm w).isSome = true
    let chan := classOf a.toNat = 4
    (∀ o ∈ [0x80#8, 0x81#8, 0x82#8, 0x83#8, 0x84#8, 0x85#8], (if o = 0x80#8 then b = 28 else classOf b.toNat = 2) →
      (illegal (fieldsWord t o d a b 0) ↔ ¬ (classOf d.toNat = 2 ∧ (chan ∨ classOf a.toNat = 2)))) ∧
    (illegal (fieldsWord t 0x86 d a 28 y) ↔ ¬ (chan ∧ ((y = 6 ∧ classOf d.toNat = 2) ∨ (y = 1 ∧ classOf d.toNat = 1)))) ∧
    (illegal (fieldsWord t 0x87 d a 28 0) ↔ ¬ (chan ∧ (classOf d.toNat = 2 ∨ classOf d.toNat = 1))))

/-- R266 to R269, R273: EMIT fires B's header with A's payload and the lanes valid in both, DROP passes an end on, STEER
parts a head between D and D + 1, ROUTE sends a COORD head to its owner, MARK fires a marker of its own. Each
completes where the token can be fired; a SNAP or EBB marker is BADMARK. -/
def Obligations.TokenResults : Prop :=
  ∀ (t : BitVec 6) (d a b : BitVec 5) (s : State) (x : Token) (n' : Node),
    let n := here s
    let one := fun (tok : Token) => fireTok n.regs (d.toNat - 24) tok true
    let em : Token := ⟨hSetMask (srcHdr n b.toNat) (match headOf n a.toNat with
      | some y => hMask (srcHdr n b.toNat) &&& hMask y.hdr | none => hMask (srcHdr n b.toNat)), srcLanes n a.toNat⟩
    let mk : Token := ⟨mkHdr 2 7 0 0 0x0007 0,
      Lanes.ofList [(srcVal n a.toNat).setWidth 32, (srcVal n b.toNat).setWidth 32, nodeHere s]⟩
    let side := fun (k : Nat) (m : BitVec 16) => if m = 0 ∧ hEnd x.hdr = 0 then ([] : List OutReq) else
      [⟨k, { x with hdr := hSetMask x.hdr m }, true, none, none⟩]
    (Issues (.emit t d a b) s → isCutMarker em = false → commitFire n (one em) = .ok n' →
      exec (.emit t d a b) s = .next (retire (.emit t d a b) s n')) ∧
    (Issues (.emit t d a b) s → isCutMarker em = true →
      exec (.emit t d a b) s = .next (faultHere s ⟨0x20, (em.pay.get 0).toNat, 0, em.hdr⟩)) ∧
    (Issues (.drop t d a) s → headOf n a.toNat = some x → hEnd x.hdr ≠ 0 → classOf d.toNat = 8 →
      commitFire n (one { x with hdr := hSetMask x.hdr 0 }) = .ok n' →
      exec (.drop t d a) s = .next (retire (.drop t d a) s n')) ∧
    (Issues (.drop t d a) s → headOf n a.toNat = some x → (hEnd x.hdr = 0 ∨ classOf d.toNat = 16) →
      exec (.drop t d a) s = .next (retire (.drop t d a) s n)) ∧
    (Issues (.steer t d a b) s → headOf n a.toNat = some x →
      commitFire n ⟨n.regs, side (d.toNat - 24) (steerMask n x b.toNat false) ++
        side (d.toNat - 23) (steerMask n x b.toNat true), none⟩ = .ok n' →
      exec (.steer t d a b) s = .next (retire (.steer t d a b) s n')) ∧
    (Issues (.route t d a) s → headOf n a.toNat = some x → isCoord x.hdr = true →
      commitFire n ⟨n.regs, if routeDests n x = [] then [] else [⟨d.toNat - 24, x, false, some (routeDests n x), none⟩], none⟩ = .ok n' →
      exec (.route t d a) s = .next (retire (.route t d a) s n')) ∧
    (Issues (.mark t d a b) s → isCutMarker mk = false → commitFire n (one mk) = .ok n' →
      exec (.mark t d a b) s = .next (retire (.mark t d a b) s n')) ∧
    (Issues (.mark t d a b) s → isCutMarker mk = true →
      exec (.mark t d a b) s = .next (faultHere s ⟨0x20, (mk.pay.get 0).toNat, 0, 0⟩))

/-- R71, R191, R244: in an element an instruction of more than one cycle is held in flight with the results that its row gives it,
or with its trap: nothing of the state changes but the context's flight, which names the slot, and the breakpoints that it meets;
OPERATION_COMPLETE, in a later cycle, writes the results, or takes the fault. That breakpoints are met as the operation is fired and
not as it completes is the model's choice (log 95). -/
def Obligations.HeldOperations : Prop :=
  (∀ (t : BitVec 6) (d a b : BitVec 5) (y c : BitVec 3) (s : State),
    let n := here s
    let rm := Bits.nat n.regs.fp 7 6
    let low := fun q => (srcVal n q).setWidth 32
    let wide := fun (x : W32) => if y = 0 then x.signExtend 64 else x.setWidth 64
    let scalar := fun (i : Instr) (x : W64 × Fl) => begins i s (fires n x.2 (fun m => fireRegs (putScalar m d.toNat x.1).regs))
    let typed := fun (i : Instr) (ca cb : Nat) (f : Nat → Lanes × BitVec 16 × Fl) =>
      (∀ ty, effTy n (fieldO (wordOf i)).toNat ca y.toNat = .ok ty →
        begins i s (fires n (f ty).2.2 (fun m => vecFire m d.toNat ca cb ty (f ty).2.1 (f ty).1))) ∧
      (∀ x, effTy n (fieldO (wordOf i)).toNat ca y.toNat = .error x → begins i s (.error x))
    let lanes := fun (cb : Nat) (g : W32 → W32 → W32 → W32 × Fl) =>
      let m := srcMask n a.toNat &&& srcMask n cb
      let at_ := fun k => g ((srcLanes n d.toNat).get k) ((srcLanes n a.toNat).get k) ((srcLanes n cb).get k)
      (Lanes.ofFn (fun k => (at_ k).1), m, flagsOf m (fun k => (at_ k).2))
    (∀ row ∈ intRows, row.long = true → let i := row.term t d a b y
      (isScalarShape [d.toNat, a.toNat, b.toNat] = true → scalar i
        (onScalars y.toNat row.fn (srcVal n d.toNat) (srcVal n a.toNat) (srcVal n b.toNat), 0)) ∧
      (isScalarShape [d.toNat, a.toNat, b.toNat] = false → typed i a.toNat b.toNat (fun ty =>
        lanes b.toNat (fun p q r => (onElts ty row.fn p q r, 0))))) ∧
    (∀ row ∈ floatRows, (row.hasB = false → b = 28) → let i := row.term t d a b y
      (isScalarShape [d.toNat, a.toNat, b.toNat] = true →
        let r := onFloats y.toNat row.fn rm (low d.toNat) (low a.toNat) (low b.toNat)
        scalar i (r.1.setWidth 64, r.2)) ∧
      (isScalarShape [d.toNat, a.toNat, b.toNat] = false → typed i a.toNat b.toNat (fun ty =>
        lanes b.toNat (onFloats ty row.fn rm)))) ∧
    (∀ row ∈ convertRows, isScalarShape [d.toNat, a.toNat, codeB row.hasB b] = false →
      typed (row.term t d a b y) a.toNat (codeB row.hasB b) (fun ty => lanes (codeB row.hasB b) (row.fn ty (b.toNat % 8) rm))) ∧
    (∀ row ∈ convertRows.drop 2, isScalarShape [d.toNat, a.toNat, b.toNat] = true →
      let r := row.fn y.toNat 0 rm (low d.toNat) (low a.toNat) (low b.toNat)
      scalar (row.term t d a b y) (wide r.1, r.2)) ∧
    (∀ sat : Bool, isScalarShape [d.toNat, a.toNat] = true →
      let x := (srcVal n a.toNat).toNat % 2 ^ (if c = 6 then 64 else if c = 3 ∨ c = 4 then 16 else 32)
      let to32 := if c = 6 then (let e := cvtElt sat y.toNat 6 rm x; (BitVec.ofNat 32 e.1, e.2))
        else cvtLane sat y.toNat c.toNat rm (low a.toNat)
      let e := cvtElt sat 6 c.toNat rm x
      scalar (if sat then .cvts t d a c y else .cvt t d a c y)
        (if y = 6 then (BitVec.ofNat 64 e.1, e.2) else (wide to32.1, to32.2))) ∧
    (∀ row ∈ vecRows, row.long = true → isScalarShape [d.toNat, a.toNat, codeB row.hasB b] = false → classOf d.toNat ≠ 2 →
      typed (row.term t d a b y) a.toNat (codeB row.hasB b) (fun ty =>
        row.fn ty rm (srcLanes n a.toNat) (srcLanes n (codeB row.hasB b)) (srcMask n a.toNat) (srcMask n (codeB row.hasB b)))) ∧
    (∀ (k : Nat) (row : VecRow), k < 8 → vecRows[k]? = some row → row.long = true → y ≠ 6 →
      isScalarShape [d.toNat, a.toNat, codeB row.hasB b] = true →
      let m : BitVec 16 := if 5 ≤ k then 1 else 0xFFFF
      let r := row.fn y.toNat rm (srcLanes n a.toNat) (srcLanes n (codeB row.hasB b)) m m
      scalar (row.term t d a b y) (wide (r.1.get 0), r.2.2)) ∧
    (classOf d.toNat = 2 → classOf a.toNat = 1 ∨ classOf a.toNat = 4 → ∀ kind < 3,
      let i := if kind = 0 then Instr.rsum t d a y else if kind = 1 then Instr.rmax t d a y else Instr.rmin t d a y
      (∀ ty, effTy n (0x63 + kind) a.toNat y.toNat = .ok ty →
        let r := reduced kind ty rm (srcLanes n a.toNat) (srcMask n a.toNat)
        scalar i (if ty = 0 then r.1.signExtend 64 else r.1.setWidth 64, r.2)) ∧
      (∀ x, effTy n (0x63 + kind) a.toNat y.toNat = .error x → begins i s (.error x)))) ∧
  (∀ (i : Instr) (s : State) (r e c k : Nat), isLong i → s.agent = .elem r e c k → Issues i s →
    ∃ fl : Flight, fl.slot = k ∧ let m := setHere s { here s with flight := some fl }
      (fl.trap = none → exec i s = .next (bkHere m)) ∧ (fl.trap ≠ none → exec i s = .next m)) ∧
  (∀ (s : State) (r e c : Nat) (fl : Flight) (n' : Node), e < 256 → (getN s r e c).flight = some fl →
    cycleRuns s r = true → ebbSaved s r (getE s r e).saved = false → ¬ ((getE s r e).fired = true ∧ (getE s r e).lastCtx = c) →
    let free := { getN s r e c with flight := none }
    let s1 := setN { s with agent := .elem r e c fl.slot } r e c free
    let w := slotWord free fl.slot
    isAtomPair w = false → (∀ t, fl.trap = some t → exec (.operationComplete r e c) s = .next (elemFault s1 s1.agent t)) ∧
    (fl.trap = none → commitFire free fl.fire = .ok n' → exec (.operationComplete r e c) s =
      .next (complete (setN s1 r e c n') w (elemTrig (getE s r e) (getN s r e c) (fieldT w).toNat).1 none)))

/-- R75, R86: after its own effect an instruction applies its trigger's action to p, takes the head off each channel it
names or DEQ lists, once, and in a helm core moves to the next word; nothing else of the context, no system register, no
byte of memory and no other region changes. -/
def Obligations.AfterEffect : Prop :=
  ∀ (i : Instr) (s : State) (n : Node),
    let t := retire i s n
    let e := trigOf i s
    (here t).regs = { n.regs with p := acted n.regs.p e } ∧ (here t).ports = n.ports ∧
    (∀ ch, ch < 4 → (nodePair (here t) ch).queue =
      if (codesOf (wordOf i)).contains (20 + ch) || e.getLsbD (12 + ch) then (nodePair n ch).queue.tail
      else (nodePair n ch).queue) ∧
    sameBytes s t ∧ (∀ q, q ≠ hereR s → getR t q = getR s q) ∧
    (∀ r, s.agent = .helm r → (getH t r).pc = (getH s r).pc + 4 ∧ sysRegs (getH t r) = sysRegs (getH s r))

/-- R316 to R318: BR, CALL and RET set PC, CALL leaves the next word's address in s7; LOOP counts D down and branches while it
was above 1. HALT stops the core and discards its messages once no access, copy or output token is left; YIELD gives the
events that are due to D. Each completes; with nothing due or something left the core waits at the instruction. That a target
is taken modulo 2^20 is the model's reading (log 22). -/
def Obligations.FlowResults : Prop :=
  (∀ (s : State) (r : Nat) (t : BitVec 6) (o : BitVec 18) (a d : BitVec 5) (k : BitVec 8), s.agent = .helm r →
     let h := getH s r
     (Issues (.br t o) s → ∃ u, exec (.br t o) s = .next u ∧ flowFrame (.br t o) s u r ∧ sysRegs (getH u r) = sysRegs h ∧
       (getH u r).pc = h.pc + 4 * o.signExtend 20 ∧ (getH u r).node.regs.s = h.node.regs.s) ∧
     (Issues (.call t o) s → ∃ u, exec (.call t o) s = .next u ∧ flowFrame (.call t o) s u r ∧
       sysRegs (getH u r) = sysRegs h ∧ (getH u r).pc = h.pc + 4 * o.signExtend 20 ∧
       scalarsBut h (getH u r) 15 ((h.pc + 4).setWidth 64)) ∧
     (Issues (.ret t a) s → ∃ u, exec (.ret t a) s = .next u ∧ flowFrame (.ret t a) s u r ∧
       sysRegs (getH u r) = sysRegs h ∧ (getH u r).pc = (srcVal h.node a.toNat).setWidth 20 ∧
       (getH u r).node.regs.s = h.node.regs.s) ∧
     (Issues (.loop t d k) s → ∃ u, exec (.loop t d k) s = .next u ∧ flowFrame (.loop t d k) s u r ∧
       sysRegs (getH u r) = sysRegs h ∧
       (getH u r).pc = (if (sreg h d.toNat).toNat ≤ 1 then h.pc + 4 else h.pc + 4 * k.signExtend 20) ∧
       scalarsBut h (getH u r) d.toNat (if sreg h d.toNat = 0 then 0 else sreg h d.toNat - 1))) ∧
  (∀ (s : State) (r : Nat) (t : BitVec 6) (d : BitVec 5), s.agent = .helm r →
     let h := getH s r
     let left := ¬ (h.outstanding = [] ∧ h.copies = [] ∧
       ∀ k < 4, (nodePort h.node k).queue = [] ∧ (nodePort h.node k).coal = none)
     (Issues (.halt t) s → ¬ left → ∃ u, exec (.halt t) s = .next u ∧ flowFrame (.halt t) s u r ∧
       (getH u r).halted = true ∧ (getH u r).recv = [] ∧ sysRegs (getH u r) = sysRegs h) ∧
     (Issues (.halt t) s → left → ∃ u, exec (.halt t) s = .next u ∧ (getH u r).pc = h.pc ∧ (getH u r).wait = .halt ∧
       (getH u r).halted = h.halted ∧ sameBytes s u) ∧
     (Issues (.yield t d) s → yieldSet h ≠ 0 → ∃ u, exec (.yield t d) s = .next u ∧ flowFrame (.yield t d) s u r ∧
       (getH u r).pc = h.pc + 4 ∧ sysRegs (getH u r) = sysRegs h ∧
       (classOf d.toNat = 2 → scalarsBut h (getH u r) d.toNat (BitVec.ofNat 64 (yieldSet h))) ∧
       (classOf d.toNat = 16 → (getH u r).node.regs.s = h.node.regs.s)) ∧
     (Issues (.yield t d) s → yieldSet h = 0 → ∃ u, exec (.yield t d) s = .next u ∧ (getH u r).pc = h.pc ∧
       (getH u r).wait = .yield ∧ sameBytes s u))

/-- R319: RET z returns from a trap: PC becomes hs.epc, IE becomes PIE, PIE becomes 1, and no other system register, no
scalar and no memory changes. -/
def Obligations.TrapReturn : Prop :=
  ∀ (s : State) (r : Nat) (t : BitVec 6), s.agent = .helm r → Issues (.retZ t) s →
    ∃ u, exec (.retZ t) s = .next u ∧ flowFrame (.retZ t) s u r ∧
      let h := getH s r
      let g := getH u r
      g.pc = h.epc.setWidth 20 ∧ g.status.getLsbD 0 = h.status.getLsbD 1 ∧ g.status.getLsbD 1 = true ∧
      (∀ k, 2 ≤ k → g.status.getLsbD k = h.status.getLsbD k) ∧ g.node.regs.s = h.node.regs.s ∧
      g.epc = h.epc ∧ g.cause = h.cause ∧ g.tval = h.tval ∧ g.trapvec = h.trapvec

/-- R319, R320, R327, R369: TRAP traps a helm core with cause 0x01, its code and hs.epc at the next word, and is a fabric
fault in an element; a helm core that can take a trap (IE set, a handler set, not halted) enters any trap so: what is saved,
the status, and the PC. That TRAP does not apply its trigger's action, so that its context stays as it is, is the model's reading
(log 47). -/
def Obligations.TrapInstruction : Prop :=
  (∀ (t : BitVec 6) (c : BitVec 13) (s : State), Issues (.trap t c) s →
     (∀ r, s.agent = .helm r → (getH s r).status.getLsbD 0 = true → (getH s r).trapvec ≠ 0 → (getH s r).halted = false →
       ∃ u, exec (.trap t c) s = .next u ∧
         entered (getH s r) (getH u r) 0 1 0x01 c.toNat 0 (((getH s r).pc + 4).setWidth 64) ∧
         (getH u r).node = (getH s r).node) ∧
     (∀ r e c' k, s.agent = .elem r e c' k →
       exec (.trap t c) s = .next (faultHere s ⟨0x01, c.toNat, 0, 0⟩))) ∧
  (∀ (s : State) (r cls : Nat) (t : Trap) (epc : W64), (getH s r).status.getLsbD 0 = true → (getH s r).trapvec ≠ 0 →
     (getH s r).halted = false → cls < 4 → t.cause < 256 → t.arg < 8192 →
     entered (getH s r) (getH (syncTrap s r cls t epc) r) 0 cls t.cause t.arg t.tval epc ∧
     (getH (syncTrap s r cls t epc) r).node = (getH s r).node)

/-- R210, R319, R320: BRK completes and asks for the stop of its region, with source 4 and its code; a helm core that can
takes the BREAK trap at the next word. -/
def Obligations.BrkInstruction : Prop :=
  ∀ (t : BitVec 6) (c : BitVec 13) (s : State), Issues (.brk t c) s →
    (∀ r, s.agent = .helm r → (getH s r).status.getLsbD 0 = true → (getH s r).trapvec ≠ 0 → (getH s r).halted = false →
      ∃ u, exec (.brk t c) s = .next u ∧ (4, c.toNat, 256, 0, 0) ∈ (getR u r).stopReq ∧
        entered (getH s r) (getH u r) 0 0 0x02 c.toNat (stopTval (nodeNum s r 256 0 0) 256 0 0 4)
          (((getH s r).pc + 4).setWidth 64)) ∧
    (∀ r e c' k, s.agent = .elem r e c' k → e < 256 → k < 32 → ∃ u, exec (.brk t c) s = .next u ∧
      (4, c.toNat, e, c', k) ∈ (getR u r).stopReq)

/-- R315, R385, R387, R388: a word that no instruction defines traps with its static fault and the word in hs.tval; a bad
PC traps with cause 0x18 and the PC; both with hs.epc at the PC. -/
def Obligations.FetchFaults : Prop :=
  ∀ (s : State) (r : Nat) (w : W32) (f : Nat × Nat), s.agent = .helm r → (getH s r).status.getLsbD 0 = true →
    (getH s r).trapvec ≠ 0 → (getH s r).halted = false →
    (staticFault true w = some f → f.1 < 256 → f.2 < 8192 → ∃ u, exec (.undefinedWord w) s = .next u ∧
      entered (getH s r) (getH u r) 0 1 f.1 f.2 (w.setWidth 64) ((getH s r).pc.setWidth 64)) ∧
    (∃ u, exec .fetchFault s = .next u ∧
      entered (getH s r) (getH u r) 0 1 0x18 0 ((getH s r).pc.setWidth 64) ((getH s r).pc.setWidth 64))

/-- R319, R326: at a boundary the first delivered trap that may be taken is entered, else the first interrupt enabled and
pending, with hs.epc at the instruction the core stands at. -/
def Obligations.AsyncEntry : Prop :=
  ∀ (s : State) (r : Nat), (getH s r).status.getLsbD 0 = true → (getH s r).trapvec ≠ 0 → (getH s r).halted = false →
    (∀ d, firstDelivered (getH s r) (getH s r).delivered = some d → d.cls < 4 → d.code < 256 → d.arg < 8192 →
      ∃ u, exec (.trapEntry r) s = .next u ∧
        entered (getH s r) (getH u r) 0 d.cls d.code d.arg d.tval ((getH s r).pc.setWidth 64) ∧
        (getH u r).delivered = (getH s r).delivered.erase d) ∧
    (firstDelivered (getH s r) (getH s r).delivered = none → ∀ code, dueInterrupt (getH s r) = some code →
      ∃ u, exec (.trapEntry r) s = .next u ∧
        entered (getH s r) (getH u r) 1 0 code 0 0 ((getH s r).pc.setWidth 64))

/-- R321, R393: SYSC 0 returns D, SYSC 1 asks for an early SNAP unless a cut is in flight, SYSC 2 writes a USER record
with D's value, SYSC 3 counts a queue's waiting launches, any other code gives all ones. Each completes. -/
def Obligations.ServiceResults : Prop :=
  ∀ (s : State) (r : Nat) (t : BitVec 6) (d : BitVec 5) (code : BitVec 13), s.agent = .helm r →
    let h := getH s r
    let x := srcVal h.node d.toNat
    let gives := fun (i : Instr) (v : W64) => ∃ u, exec i s = .next u ∧ scalarsBut h (getH u r) d.toNat v ∧
      (getH u r).pc = h.pc + 4 ∧ sysRegs (getH u r) = sysRegs h
    (Issues (.syscEcho t d) s → gives (.syscEcho t d) x) ∧
    (Issues (.syscUnassigned t d code) s → gives (.syscUnassigned t d code) 0xFFFFFFFFFFFFFFFF) ∧
    (Issues (.syscQdepth t d) s → gives (.syscQdepth t d)
      (BitVec.ofNat 64 (queueDepth s (partOf s r) (Bits.nat x 3 0)))) ∧
    (Issues (.syscSediment t d) s → gives (.syscSediment t d) 0 ∧ ∃ u, exec (.syscSediment t d) s = .next u ∧
      ∃ e, u.sediment.getLast? = some e ∧ e.extractLsb' 128 64 = x ∧ e.extractLsb' 24 8 = 0x8C#8) ∧
    (Issues (.syscSnap t d) s →
      (∀ l y, launchOf s r = some (l, y) → y.cut = none → gives (.syscSnap t d) 1 ∧ ∃ u z, exec (.syscSnap t d) s = .next u ∧
        getL u l = some z ∧ z.wantSnap = true) ∧
      ((launchOf s r = none ∨ ∃ l y, launchOf s r = some (l, y) ∧ y.cut ≠ none) → gives (.syscSnap t d) 0))

/-- R322, R390: SENDM and SENDMT to a core of the launch append the message, its lane 15 the sender's logical id, to the
target's queue of 64 and complete; on a full queue SENDM waits and SENDMT answers 1; to a halted target SENDM completes
without delivery and SENDMT answers 2; any other b is MSGTGT. RECVM moves the oldest message into D, and waits on an
empty queue. -/
def Obligations.MessageResults : Prop :=
  (∀ (s : State) (r : Nat) (t : BitVec 6) (d a b : BitVec 5), s.agent = .helm r →
    let h := getH s r
    let x := srcVal h.node b.toNat
    let m := Lanes.ofFn (fun k => if k = 15 then BitVec.ofNat 32 h.lid else (srcLanes h.node a.toNat).get k)
    let sent := fun (i : Instr) (q : Nat) (g : Node) => ∃ u, exec i s = .next u ∧
      (getH u q).recv = (getH s q).recv ++ [m] ∧ (getH u r).pc = h.pc + 4 ∧ (here u).regs = regsAfter i s g.regs ∧
      sameBytes s u ∧ (∀ k, k ≠ r → k ≠ q → getR u k = getR s k)
    (∀ q, x.toNat < 256 → coreOf s r x.toNat = some q → (getH s q).halted = false → (getH s q).recv.length < 64 →
      (Issues (.sendm t a b) s → sent (.sendm t a b) q h.node) ∧
      (Issues (.sendmt t d a b) s → sent (.sendmt t d a b) q (putScalar h.node d.toNat 0))) ∧
    (∀ q, x.toNat < 256 → coreOf s r x.toNat = some q → (getH s q).halted = true →
      (Issues (.sendm t a b) s → exec (.sendm t a b) s = .next (retire (.sendm t a b) (setH s r { h with sendAbort := none }) h.node)) ∧
      (Issues (.sendmt t d a b) s → exec (.sendmt t d a b) s = .next (retire (.sendmt t d a b) s (putScalar h.node d.toNat 2)))) ∧
    (∀ q, x.toNat < 256 → coreOf s r x.toNat = some q → (getH s q).halted = false → 64 ≤ (getH s q).recv.length →
      (Issues (.sendm t a b) s → ∃ u, exec (.sendm t a b) s = .next u ∧ (getH u q).recv = (getH s q).recv ∧
        (getH u r).pc = h.pc ∧ (getH u r).wait = .msgSend ∧ (here u).regs = h.node.regs) ∧
      (Issues (.sendmt t d a b) s → exec (.sendmt t d a b) s = .next (retire (.sendmt t d a b) s (putScalar h.node d.toNat 1)))) ∧
    ((256 ≤ x.toNat ∨ coreOf s r x.toNat = none) →
      (Issues (.sendm t a b) s → exec (.sendm t a b) s = .next (faultHere s ⟨0x28, 0, x, 0⟩)) ∧
      (Issues (.sendmt t d a b) s → exec (.sendmt t d a b) s = .next (faultHere s ⟨0x28, 0, x, 0⟩)))) ∧
  (∀ (s : State) (r : Nat) (t : BitVec 6) (d : BitVec 5), s.agent = .helm r → Issues (.recvm t d) s →
    let h := getH s r
    (∀ x xs, h.recv = x :: xs → ∃ u ys, exec (.recvm t d) s = .next u ∧ (getH u r).recv = xs ++ ys ∧
      (here u).regs = regsAfter (.recvm t d) s (setV h.node.regs d.toNat x) ∧ (getH u r).pc = h.pc + 4 ∧
      sameBytes s u ∧ elsewhere s u r) ∧
    (h.recv = [] → ∃ u, exec (.recvm t d) s = .next u ∧ (getH u r).pc = h.pc ∧ (getH u r).wait = .msgRecv ∧
      (here u).regs = h.node.regs))

/-- R324 to R326: CSRR completes with the value of the register its selector names: the plain ones, and hs.status with
the stored fields, the message count and what is pending. -/
def Obligations.CsrReads : Prop :=
  ∀ (s : State) (r : Nat) (t : BitVec 6) (d : BitVec 5) (x : BitVec 13), s.agent = .helm r → Issues (.csrr t d x) s →
    (∀ v, (x.toNat, v) ∈ plainRegs s r → givesScalar s r (.csrr t d x) d v) ∧
    (x = 0 → ∃ v, givesScalar s r (.csrr t d x) d v ∧ (∀ k ∈ [0, 1, 4, 5, 6, 9], (getH s r).recv.length ≤ 64 →
        v.getLsbD k = (getH s r).status.getLsbD k) ∧
      ((getH s r).status &&& 0x7F0504 = 0 → (getH s r).recv.length ≤ 64 → Bits.nat v 22 16 = (getH s r).recv.length ∧
        (v.getLsbD 8 = !(getH s r).recv.isEmpty) ∧ v.getLsbD 10 = (getH s r).migPosted ∧ v.getLsbD 2 = isPrec (getR s r)))

/-- R324, R326, R327, R390: CSRW to hs.status replaces IE, PIE and the enables and clears IPTIM with a 1, leaving every
other bit; to hs.cause, hs.epc, hs.tval, hs.trapvec and hs.fp it writes their writable bits; to hs.still its limit, and the region
thaws; to the bank gates, OBSCTL, a breakpoint word and a drained matrix register as the headwater's write; each completes. A
write to a read-only register, or of a value that its register does not take, traps with BADCSR, the selector and the value.
That hs.trapvec is judged by its bits 19 to 0 alone is the model's reading (log 47). -/
def Obligations.CsrWrites : Prop :=
  (∀ (s : State) (r : Nat) (t : BitVec 6) (d : BitVec 5) (x : BitVec 13), s.agent = .helm r → Issues (.csrw t d x) s →
     let h := getH s r
     let v := srcVal h.node d.toNat
     let ok := fun (f : Helm → Prop) => ∃ u, exec (.csrw t d x) s = .next u ∧ f (getH u r) ∧ (getH u r).pc = h.pc + 4 ∧
       (getH u r).node.regs.s = h.node.regs.s ∧ (getH u r).node.regs.v = h.node.regs.v ∧ sameBytes s u ∧
       (∀ q, q ≠ r → getR u q = getR s q)
     (x = 0 → ok (fun g => (∀ k ∈ [0, 1, 4, 5, 6], g.status.getLsbD k = v.getLsbD k) ∧
       (g.status.getLsbD 9 = (h.status.getLsbD 9 && !v.getLsbD 9)) ∧
       (∀ k, k ∉ [0, 1, 4, 5, 6, 9] → g.status.getLsbD k = h.status.getLsbD k) ∧ g.cause = h.cause ∧ g.epc = h.epc ∧
       g.tval = h.tval ∧ g.trapvec = h.trapvec)) ∧
     (x = 1 → ok (fun g => g.cause = v &&& 0xE0FF1FFF ∧ g.status = h.status ∧ g.epc = h.epc ∧ g.tval = h.tval ∧
       g.trapvec = h.trapvec)) ∧
     (x = 2 → ok (fun g => g.epc = v &&& 0xFFFFF ∧ g.status = h.status ∧ g.cause = h.cause ∧ g.tval = h.tval ∧
       g.trapvec = h.trapvec)) ∧
     (x = 3 → ok (fun g => g.tval = v ∧ g.status = h.status ∧ g.cause = h.cause ∧ g.epc = h.epc ∧ g.trapvec = h.trapvec)) ∧
     (x = 4 → (v.extractLsb' 0 20 = 0 ∨ (512 ≤ (v.extractLsb' 0 20).toNat ∧ (v.extractLsb' 0 20).toNat % 4 = 0)) →
       ok (fun g => g.trapvec = v &&& 0xFFFFF ∧ g.status = h.status ∧ g.cause = h.cause ∧ g.epc = h.epc ∧ g.tval = h.tval)) ∧
     (x = 5 → ok (fun g => g.node.regs.fp = v &&& 0x1FDF ∧ sysRegs g = sysRegs h)) ∧
     let writes := fun (f : State → Prop) => ∃ u, exec (.csrw t d x) s = .next u ∧ f u ∧ (getH u r).pc = h.pc + 4 ∧
       (getH u r).node.regs.s = h.node.regs.s ∧ (getH u r).node.regs.v = h.node.regs.v ∧ (getH u r).status = h.status ∧
       (getH u r).trapvec = h.trapvec
     (x = 9 → writes (fun u => (getH u r).stillLimit = v.setWidth 32 ∧ (getR u r).hung = false ∧ (getR u r).still = 0 ∧
       sameBytes s u ∧ elsewhere s u r)) ∧
     (x = 0x20 → Bits.nat v 63 48 = 0 → writes (fun u => (getR u r).bgate = v.setWidth 48 ∧ elsewhere s u r ∧
       u.hbm = s.hbm ∧ u.host = s.host ∧ ∀ k < 48,
         ((getR s r).bgate.getLsbD k = true → v.getLsbD k = false → (getR u r).waking.getLsbD k = true) ∧
         ((getR s r).bgate.getLsbD k = false → v.getLsbD k = true → ∀ sp a, sp < 3 → bankOf sp a = k →
           memRead (getBuf (getR u r) sp).mem a = 0))) ∧
     (x = 0x21 → r ∈ graphOf s r → Bits.nat v 39 32 = 0 ∨ (10 ≤ Bits.nat v 39 32 ∧ Bits.nat v 39 32 ≤ 24) → writes (fun u =>
       (∀ j ∈ [1, 2, 3], (getR u r).obsctl.getLsbD j = v.getLsbD j) ∧
       Bits.nat (getR u r).obsctl 39 32 = Bits.nat v 39 32 ∧ sameBytes s u)) ∧
     (∀ k < 4, x.toNat = 0x22 + k → writes (fun u => vGet 0 (getR u r).obsbk k = v &&& 0xFFFFFFFFFFFFF000 ∧
       vGet 0 (getR u r).bkCount k = 0 ∧ (∀ j, j ≠ k → vGet 0 (getR u r).obsbk j = vGet 0 (getR s r).obsbk j) ∧
       sameBytes s u ∧ elsewhere s u r)) ∧
     (∀ k < 4, x.toNat = 0x28 + k → v &&& mxReserved k = 0 →
       (matrixDrained (getR s r) = true → writes (fun u => vGet 0 (getR u r).mx k = v ∧
         (∀ j, j ≠ k → vGet 0 (getR u r).mx j = vGet 0 (getR s r).mx j) ∧ sameBytes s u ∧ elsewhere s u r)) ∧
       (matrixDrained (getR s r) = false → ∃ u, exec (.csrw t d x) s = .next u ∧ (getH u r).pc = h.pc ∧
         (getH u r).wait = .mxDrain ∧ sameBytes s u))) ∧
  (∀ (s : State) (r : Nat) (t : BitVec 6) (d : BitVec 5) (x : BitVec 13), s.agent = .helm r → Issues (.csrw t d x) s →
     let v := srcVal (getH s r).node d.toNat
     (x.toNat ∈ [6, 7, 8, 10, 11, 12, 13, 0x10, 0x11, 0x12, 0x13, 0x14, 0x15, 0x16, 0x17, 0x2C] ∨
       (x = 0x20 ∧ Bits.nat v 63 48 ≠ 0) ∨ (∃ k < 4, x.toNat = 0x28 + k ∧ v &&& mxReserved k ≠ 0) ∨
       (x = 4 ∧ v.extractLsb' 0 20 ≠ 0 ∧ ((v.extractLsb' 0 20).toNat < 512 ∨ (v.extractLsb' 0 20).toNat % 4 ≠ 0)) ∨
       (x = 0x21 ∧ Bits.nat v 39 32 ≠ 0 ∧ (Bits.nat v 39 32 < 10 ∨ 24 < Bits.nat v 39 32))) →
     exec (.csrw t d x) s = .next (faultHere s ⟨0x27, x.toNat, v, 0⟩))

/-- R123, R209, R212, R324, R398: the headwater's writes: STOP, PREC (of the whole graph), SPER within its range, OBSCTL as
a whole, a breakpoint word whose count restarts, hs.still whose region thaws, a drained matrix register, hs.status to hs.fp, and
the bank gates. Each has its effect; a refused value changes nothing. -/
def Obligations.HeadwaterWrites : Prop :=
  ∀ (s : State) (r : Nat) (v : W64) (b : Bool) (k : BitVec 2) (p : BitVec 8) (sel : BitVec 13),
    (∃ u, exec (.obsctlStopWrite r b) s = .next u ∧ (getR u r).obsctl.getLsbD 1 = b ∧
      (∀ j, j ≠ 1 → (getR u r).obsctl.getLsbD j = (getR s r).obsctl.getLsbD j) ∧ (∀ q, q ≠ r → getR u q = getR s q)) ∧
    (∃ u, exec (.obsctlPrecWrite r b) s = .next u ∧ (r ∈ graphOf s r → (getR u r).obsctl.getLsbD 2 = b ∧
      (b = true → (getR u r).clock = 0))) ∧
    (∃ u, exec (.obsctlSperWrite r p) s = .next u ∧
      (if p = 0 ∨ (10 ≤ p.toNat ∧ p.toNat ≤ 24) then (getR u r).obsctl.extractLsb' 32 8 = p ∧
        (getR u r).obsctl.extractLsb' 0 32 = (getR s r).obsctl.extractLsb' 0 32 else u = s)) ∧
    (∃ u, exec (.obsbkWrite r k v) s = .next u ∧ vGet 0 (getR u r).obsbk k.toNat = v &&& 0xFFFFFFFFFFFFF000 ∧
      vGet 0 (getR u r).bkCount k.toNat = 0 ∧
      ∀ j, j ≠ k.toNat → vGet 0 (getR u r).obsbk j = vGet 0 (getR s r).obsbk j) ∧
    (∃ u, exec (.stillWrite r v) s = .next u ∧ (getH u r).stillLimit = v.setWidth 32 ∧ (getR u r).hung = false ∧
      (getR u r).still = 0) ∧
    (matrixDrained (getR s r) = true → v &&& mxReserved k.toNat = 0 → ∃ u, exec (.mxregWrite r k v) s = .next u ∧
      vGet 0 (getR u r).mx k.toNat = v) ∧
    (sel.toNat ∈ [0, 1, 2, 3, 5] → exec (.registerWrite r sel v) s = .next (setH s r (hsSet (getH s r) sel.toNat v))) ∧
    (sel = 0x21 → ∃ u, exec (.registerWrite r sel v) s = .next u ∧ (r ∈ graphOf s r →
      if Bits.nat v 39 32 = 0 ∨ (10 ≤ Bits.nat v 39 32 ∧ Bits.nat v 39 32 ≤ 24) then
        (∀ j ∈ [1, 2, 3], (getR u r).obsctl.getLsbD j = v.getLsbD j) ∧ Bits.nat (getR u r).obsctl 39 32 = Bits.nat v 39 32
      else u = s)) ∧
    (Bits.nat v 63 48 ≠ 0 → exec (.bgateWrite r v) s = .next s) ∧
    (Bits.nat v 63 48 = 0 → ∃ u, exec (.bgateWrite r v) s = .next u ∧ (getR u r).bgate = v.setWidth 48)

/-- R334 to R338: PERFRD, MIGR, TIMER and IDRD complete with their values in D, TIMER 0 arms the 48-bit count and TIMER 2
disarms it and clears IPTIM; TRACE writes a USER record, with the core's cycle count, its tag and the value of D, into a ring that
is not frozen, and nothing else. -/
def Obligations.SystemResults : Prop :=
  ∀ (s : State) (r : Nat) (t : BitVec 6) (d : BitVec 5) (x : BitVec 13), s.agent = .helm r →
    let h := getH s r
    let gives := fun (i : Instr) (v : Nat) => Issues i s → givesScalar s r i d (BitVec.ofNat 64 v)
    gives (.perfrd t d x) (perfRead s r (Bits.nat x 12 4) (Bits.nat x 3 0)) ∧
    gives (.timerRead t d) (if h.armed then h.timer else 0) ∧
    (h.migPosted = false → gives (.migr t d) (if h.parked then 1 else 0)) ∧
    (h.migPosted = true → Issues (.migr t d) s → ∃ u, exec (.migr t d) s = .next u ∧ (getH u r).pc = h.pc ∧
      (getH u r).parked = true ∧ (getH u r).wait = .migr) ∧
    gives (.idrdPartCode t d) 0x7140 ∧ gives (.idrdStepping t d) Config.stepping.toNat ∧
    gives (.idrdPhysicalPosition t d) ((physOf s r).1 % 4 * 256 + (physOf s r).2 % 128) ∧ gives (.idrdLogicalId t d) h.lid ∧
    gives (.idrdPartition t d) (partOf s r) ∧ gives (.idrdSpareMap t d) (spareMap s (r / 64)) ∧
    gives (.idrdSerialLow t d) (Config.serial.toNat % 2 ^ 64) ∧ gives (.idrdSerialHigh t d) (Config.serial.toNat / 2 ^ 64) ∧
    (Issues (.timerArm t d) s → ∃ u, exec (.timerArm t d) s = .next u ∧ flowFrame (.timerArm t d) s u r ∧
      (getH u r).timer = (srcVal h.node d.toNat).toNat % 2 ^ 48 ∧
      (getH u r).armed = decide ((srcVal h.node d.toNat).toNat % 2 ^ 48 ≠ 0) ∧ (getH u r).status = h.status) ∧
    (Issues (.timerDisarm t d) s → ∃ u, exec (.timerDisarm t d) s = .next u ∧ flowFrame (.timerDisarm t d) s u r ∧
      (getH u r).armed = false ∧ (getH u r).status.getLsbD 9 = false ∧
      ∀ k, k ≠ 9 → (getH u r).status.getLsbD k = h.status.getLsbD k) ∧
    (Issues (.trace t d x) s → ∃ u, exec (.trace t d x) s = .next u ∧ flowFrame (.trace t d x) s u r ∧
      sysRegs (getH u r) = sysRegs h ∧ (getH u r).node.regs.s = h.node.regs.s ∧ (getR u r).ringNext =
        (if (getR s r).ringFrozen then (getR s r).ringNext else ((getR s r).ringNext + 1) % 4096) ∧
      ((getR s r).ringFrozen = true → (getR u r).ring = (getR s r).ring) ∧
      ((getR s r).ringFrozen = false → (∀ k, k ≠ (getR s r).ringNext → aGet 0 (getR u r).ring k = aGet 0 (getR s r).ring k) ∧
        aGet 0 (getR u r).ring (getR s r).ringNext =
          5#4 ++ BitVec.ofNat 28 h.cycle ++ (x.setWidth 32 : W32) ++ srcVal h.node d.toNat))

/-- R60, R61, R274, R330: CTXRS gives the context it names the registers of its record in the A buffer, CTXSV writes them
there; CHKP of a SEED context writes its registers and its time into the next entry of its ring, CHKL gives them back from
the entry whose time is named and sets the high-water mark. Each completes. That a CHKP of a context without a SEED class writes
nothing is the model's reading (log 17). -/
def Obligations.ContextMoves : Prop :=
  (∀ (s : State) (r : Nat) (t : BitVec 6) (a b : BitVec 5), s.agent = .helm r →
     let h := getH s r
     let ad := (srcVal h.node a.toNat).toNat
     let e := Bits.nat (srcVal h.node b.toNat) 8 0
     let c := Bits.nat (srcVal h.node b.toNat) 12 9
     ctxCheck ad (srcVal h.node b.toNat) = none → ctxBusy (getN s r e c) = false → bufHolds s = false →
     (Issues (.ctxrs t a b) s → bufReadTest s r 1 (numbered ad 640) = none →
       ∃ u, exec (.ctxrs t a b) s = .next u ∧ recordGives (getBuf (getR s r) 1).mem ad (getN u r e c) ∧
         sameBytes s u ∧ (getH u r).pc = h.pc + 4) ∧
     (Issues (.ctxsv t a b) s → wakeHold s r ((List.range 10).map (fun j => (1, ad + 64 * j))) = none → ∀ s',
       storeMany (fun s w => bufStore s r 1 w.1 w.2 false) ((List.range 10).map (fun j => (ad + 64 * j,
         ((ctxBytes (getN s r e c).regs (getN s r e c).rr).drop (64 * j)).take 64))) s none = (.ok s', none) →
       exec (.ctxsv t a b) s = .next (complete s' (wordOf (.ctxsv t a b)) (trigOf (.ctxsv t a b) s) none))) ∧
  (∀ (s : State) (t : BitVec 6) (a : BitVec 5),
     let r := hereR s
     let n := here s
     let chkp := Instr.chkp t a
     let chkl := Instr.chkl t a
     let c := chkCtx n a.toNat
     let e := classEnt n c
     let ad := e.area + 10240 * c + 640 * (e.ring % 15 + 1)
     (Issues chkp s → (e.cls ≠ 3 ∨ e.w = 0) → exec chkp s = .next (after chkp s (emitDone s))) ∧
     (Issues chkp s → s.memOk → e.cls = 3 → e.w ≠ 0 → e.w % max e.param 1 = 0 → ad + 640 ≤ 0x100000 → ad % 64 = 0 →
       (getR s r).journal.length + 10 ≤ 512 → (∀ k < 10, bankTest s r 1 (ad + 64 * k) = none ∧ quiet s 1 r (ad + 64 * k) 64) →
       ∃ u, exec chkp s = .next u ∧ (here u).regs = regsAfter chkp s n.regs ∧ u.hbm = s.hbm ∧ u.host = s.host ∧
         (∀ k < 8, BitVec.ofNat 512 (memNat (getBuf (getR u r) 1).mem (ad + 64 * k) 64) = getV n.regs k) ∧
         (∀ k < 8, BitVec.ofNat 64 (memNat (getBuf (getR u r) 1).mem (ad + 512 + 8 * k) 8) = getS n.regs k) ∧
         memNat (getBuf (getR u r) 1).mem (ad + 576) 8 = n.regs.p.toNat ∧
         memNat (getBuf (getR u r) 1).mem (ad + 584) 8 = e.w % 2 ^ 64 ∧
         ∀ x, (x < ad ∨ ad + 640 ≤ x) → memRead (getBuf (getR u r) 1).mem x = memRead (getBuf (getR s r) 1).mem x) ∧
     (Issues chkl s → ∀ (h : Token) (k : Nat), headOf n a.toNat = some h → hKind h.hdr = 1 → h.pay.get 0 = 1 →
       let e := classEnt n (hCtx h.hdr)
       let m := (getBuf (getR s r) 1).mem
       let ad := e.area + 10240 * hCtx h.hdr + 640 * k
       e.cls = 3 → checkpointAt m (e.area + 10240 * hCtx h.hdr) (h.pay.get 1).toNat = some k → ad + 640 ≤ 0x100000 →
       bufReadTest s r 1 (numbered ad 640) = none →
       ∃ u, exec chkl s = .next u ∧ sameBytes s u ∧ (here u).regs.fp = n.regs.fp ∧
         (∀ j < 8, getV (here u).regs j = BitVec.ofNat 512 (memNat m (ad + 64 * j) 64)) ∧
         (∀ j < 8, getS (here u).regs j = BitVec.ofNat 64 (memNat m (ad + 512 + 8 * j) 8)) ∧
         (classEnt (here u) (hCtx h.hdr)).w = (h.pay.get 1).toNat))

/-- R121, R179, R261, R275: LDB and LDBG complete with the words at their addresses in D, every other register, every byte of
memory and every other region as before; a word of a racing write may come as it was before it; a .fe load of an empty word is
held at the buffer, and a helm core goes on. A bad address traps. -/
def Obligations.BufferLoads : Prop :=
  ∀ (t : BitVec 6) (d a b : BitVec 5) (z : BitVec 3) (s : State) (ad : Nat),
    let sp := z.toNat / 2
    let r := hereR s
    let n := here s
    let ldb := Instr.ldb t d a b z
    let ldbg := Instr.ldbg t d a b z
    let ws := numbered ad (widthOf d.toNat)
    let lane := fun k => (ad + ((srcLanes n b.toNat).get k).toNat) % 2 ^ 32
    let gets := fun (i : Instr) (m : BitVec 16) (w : Nat → Nat) => ∃ (u : State) (f : Nat → W32),
      (∀ k, mayRead s sp (z.toNat % 2 == 1) (w k) (bword s r sp (w k)) (f k)) ∧ exec i s = .next u ∧
      (here u).regs = regsAfter i s (loaded n.regs d.toNat m f) ∧ sameBytes s u ∧ elsewhere s u r
    (Issues ldb s → addrOf n a.toNat b.toNat sp = .ok ad → myArm s (wordOf ldb) = none → outFull s = false →
      (∀ x, bufCheck sp ad (widthOf d.toNat) = some x → exec ldb s = .next (faultHere s x)) ∧
      (bufCheck sp ad (widthOf d.toNat) = none → bufHolds s = false → bufReadTest s r sp ws = none →
        ((z.toNat % 2 = 1 → ∀ w ∈ ws, bfull s r sp w.2 = true) → gets ldb 0xFFFF (fun k => ad + 4 * k)) ∧
        (z.toNat % 2 = 1 → (∃ w ∈ ws, bfull s r sp w.2 = false) →
          (∀ w ∈ ws, bfull s r sp w.2 = false → placeFree s sp r w.2 = true) →
          ∃ u x, exec ldb s = .next u ∧ u.arms = s.arms ++ [x] ∧ x.who = s.agent ∧ x.kind = .read ∧ x.space = sp ∧
            x.need = ws.filter (fun w => !bfull s r sp w.2) ∧ sameBytes s u ∧
            (here u).regs.v = n.regs.v ∧ (here u).regs.s = n.regs.s ∧
            (s.agent = .helm r → (getH u r).pc = (getH s r).pc + 4 ∧
              (getH u r).outstanding.length = (getH s r).outstanding.length + 1)))) ∧
    (Issues ldbg s → addrOf n a.toNat 28 sp = .ok ad → myArm s (wordOf ldbg) = none → outFull s = false → bufHolds s = false →
      firstFault ((laneAddrs n ad b.toNat).map (fun w => bufCheck sp w.2 4)) = none →
      bufReadTest s r sp (laneAddrs n ad b.toNat) = none →
      (z.toNat % 2 = 1 → ∀ w ∈ laneAddrs n ad b.toNat, bfull s r sp w.2 = true) →
      gets ldbg (srcMask n b.toNat) lane)

/-- R121, R136, R261, R275, R407: STB stores the bytes of D at its address and STBS the lanes of D at theirs, the higher
lane last; each completes and leaves every other byte as it was. The waits of the words are then checked. The full words of a .fe
store are withheld, the others stored, and the first of them is an element's fault; a bad address traps. -/
def Obligations.BufferStores : Prop :=
  ∀ (t : BitVec 6) (d a b : BitVec 5) (z : BitVec 3) (s : State) (ad : Nat), s.memOk →
    let sp := z.toNat / 2
    let r := hereR s
    let n := here s
    let stb := Instr.stb t d a b z
    let stbs := Instr.stbs t d a b z
    let bs := dataBytes n d.toNat
    let lane := fun k => (ad + ((srcLanes n b.toNat).get k).toNat) % 2 ^ 32
    let on := maskBit (srcMask n b.toNat)
    (Issues stb s → addrOf n a.toNat b.toNat sp = .ok ad →
      (∀ x, bufCheck sp ad bs.length = some x → exec stb s = .next (faultHere s x)) ∧
      (bufCheck sp ad bs.length = none → bufHolds s = false → bankTest s r sp ad = none → (journalLine (getR s r) sp (ad / 64)).isSome = true →
        ((z.toNat % 2 = 1 → ∀ w ∈ wordsOf ad bs.length, bfull s r sp w = false) →
          (∃ s1, stored s s1 r sp ad bs ∧ s1.arms = s.arms ∧ here s1 = n ∧
            exec stb s = .next (after stb s (wakeMem (emitDone (notify s1 sp r ad bs.length)) 3 sp ad))) ∧
          (quiet s sp r ad bs.length → ∃ u, exec stb s = .next u ∧ stored s u r sp ad bs ∧
            (here u).regs = regsAfter stb s n.regs)) ∧
        (z.toNat % 2 = 1 → isHelm s = false → quiet s sp r ad bs.length →
          ∀ w, (wordsOf ad bs.length).find? (bfull s r sp) = some w →
          ∃ s1, exec stb s = .next (faultHere s1 (mkTrap 0x61 sp w)) ∧ here s1 = n ∧ s1.hbm = s.hbm ∧ s1.host = s.host ∧
            elsewhere s s1 r ∧ ∀ x, memRead (getBuf (getR s1 r) sp).mem x =
              if ad ≤ x ∧ x < ad + bs.length ∧ bfull s r sp (x / 4 * 4) = false then bs.getD (x - ad) 0
              else memRead (getBuf (getR s r) sp).mem x))) ∧
    (Issues stbs s → addrOf n a.toNat 28 sp = .ok ad → bufHolds s = false → z.toNat % 2 = 0 → (getR s r).journal.length + 16 ≤ 512 →
      (∀ k < 16, on k = true → bufCheck sp (lane k) 4 = none ∧ bankTest s r sp (lane k) = none ∧ quiet s sp r (lane k) 4) →
      ∃ u, exec stbs s = .next u ∧ (here u).regs = regsAfter stbs s n.regs ∧ u.hbm = s.hbm ∧ u.host = s.host ∧
        elsewhere s u r ∧ (∀ k, k ≠ sp → getBuf (getR u r) k = getBuf (getR s r) k) ∧
        ∀ x, memRead (getBuf (getR u r) sp).mem x =
          match (List.range 16).reverse.find? (fun k => on k && decide (lane k ≤ x) && decide (x < lane k + 4)) with
          | some k => ((srcLanes n d.toNat).get k).extractLsb' (8 * (x - lane k)) 8
          | none => memRead (getBuf (getR s r) sp).mem x)

/-- R127, R132, R138, R261, R279, R282: LDG loads what its graph sees at the translated address, STG puts its bytes there
in the graph's view (its window, or memory where no graph holds one), PREF and FENCE move no data. Each completes; a
misaligned address traps. That a helm core's access behind a translation fault is held, and the core goes on, is the model's
reading of R262 and R377 (log 32). -/
def Obligations.GlobalAccesses : Prop :=
  ∀ (t : BitVec 6) (d a b : BitVec 5) (z : BitVec 3) (s : State) (ad pa : Nat) (e : W64), memWf s.hbm = true →
    let r := hereR s
    let n := here s
    let l := viewOf s r false
    let ldg := Instr.ldg t d a b
    let stg := Instr.stg t d a b
    let pref := Instr.pref t a b
    let bs := dataBytes n d.toNat
    addrOf n a.toNat b.toNat 3 = .ok ad →
    (∀ x, alignCheck ad bs.length = some x → (Issues ldg s → exec ldg s = .next (faultHere s x)) ∧
      (Issues stg s → exec stg s = .next (faultHere s x))) ∧
    (isHelm s = true → alignCheck ad (widthOf d.toNat) = none → alignCheck ad bs.length = none →
      (Issues ldg s → outFull s = false → engineHolds s = true ∨ (∃ k, xlate s (partOf s r) ad 0 = .error k) → requestHeld s ldg) ∧
      (Issues stg s → engineHolds s = true ∨ (∃ k, xlate s (partOf s r) ad 1 = .error k) → requestHeld s stg)) ∧
    (Issues ldg s → alignCheck ad (widthOf d.toNat) = none → outFull s = false → engineHolds s = false → xlate s (partOf s r) ad 0 = .ok (pa, e) →
      populated pa = true → readPoison s l pa = false →
      let m := touch (engineGo s s.agent) (partOf s r) ad pa e
      (leafFE e = true → ∀ w ∈ numbered pa (widthOf d.toNat), viewFull s l w.2 = true) →
      ∃ (u : State) (f : Nat → W32),
        (∀ k, mayRead s 3 (leafFE e) (pa + 4 * k) (BitVec.ofNat 32 (viewNat s l (pa + 4 * k) 4)) (f k)) ∧
        exec ldg s = .next u ∧ sameBytes m u ∧ elsewhere s u r ∧ (here u).regs = regsAfter ldg s (loaded n.regs d.toNat 0xFFFF f)) ∧
    (Issues stg s → alignCheck ad bs.length = none → engineHolds s = false → xlate s (partOf s r) ad 1 = .ok (pa, e) → populated pa = true →
      (poisoned s (pa / 64) = true → pa % 64 = 0 ∧ bs.length = 64) →
      (leafFE e = true → ∀ w ∈ wordsOf pa bs.length, viewFull s l w = false) → (l.bind (getL s) = none → offCons s pa bs.length) →
      (∀ x, l.bind (getL (engineGo s s.agent)) = some x → shareTest (engineGo s s.agent) x pa bs.length = 0) →
      ∃ s1, exec stg s = .next (after stg s (wakeMem (emitDone (notify (touch s1 (partOf s r) ad pa e) 3 0 pa bs.length)) 3 3 ad)) ∧
        (∀ x, viewByte s1 l x = if pa ≤ x ∧ x < pa + bs.length then bs.getD (x - pa) 0 else viewByte s l x) ∧
        (l.bind (getL s) ≠ none → s1.hbm = s.hbm) ∧ s1.host = s.host ∧ s1.arms = s.arms ∧ here s1 = n ∧ elsewhere s s1 r) ∧
    (Issues pref s → ∃ u, exec pref s = .next u ∧ sameBytes s u ∧ elsewhere s u r ∧
      (here u).regs = regsAfter pref s n.regs) ∧
    (Issues (.fence t z) s → (∀ q, s.agent = .helm q → ∀ o ∈ (getH s q).outstanding, o.failed ≠ none) →
      exec (.fence t z) s = .next (retire (.fence t z) s n))

/-- R138, R276, R391: EMPTY clears the presence of the words of its range, in a typed buffer or in an FE page, and
completes; no byte changes. A range that its checks refuse traps. -/
def Obligations.EmptyResults : Prop :=
  ∀ (t : BitVec 6) (d a b : BitVec 5) (z : BitVec 2) (s : State) (ad : Nat),
    let sp := z.toNat
    let r := hereR s
    let i := Instr.empty t d a b z
    let n := (srcVal (here s) d.toNat).toNat
    let clears := fun (full full' : List Nat) (lo : Nat) =>
      ∀ w, setHas full' w = (setHas full w && !(decide (lo ≤ w) && decide (w < lo + n)))
    Issues i s → addrOf (here s) a.toNat b.toNat sp = .ok ad →
    (∀ x, emptyCheck sp ad n (pageLeft s (partOf s r) ad) = some x → exec i s = .next (faultHere s x)) ∧
    (emptyCheck sp ad n (pageLeft s (partOf s r) ad) = none →
      (isHelm s = true → sp = 3 → engineHolds s = true ∨ (∃ k, xlate s (partOf s r) ad 1 = .error k) → requestHeld s i) ∧
      (sp < 3 → bufHolds s = false → (∀ k < (ad + n + 63) / 64 - ad / 64, bankTest s r sp (ad / 64 * 64 + 64 * k) = none) →
        (bufEmpty (getR s r) sp ad n).isSome = true →
        ∃ u, exec i s = .next u ∧ sameBytes s u ∧ elsewhere s u r ∧ (here u).regs = regsAfter i s (here s).regs ∧
          clears (getBuf (getR s r) sp).full (getBuf (getR u r) sp).full ad) ∧
      (sp = 3 → engineHolds s = false → ∀ pa e, xlate s (partOf s r) ad 1 = .ok (pa, e) → populated pa = true → leafFE e = true →
        ∃ u, exec i s = .next u ∧ sameBytes s u ∧ elsewhere s u r ∧ (here u).regs = regsAfter i s (here s).regs ∧
          clears s.full u.full pa))

/-- R134, R174, R262, R280: an atomic gives D the old value, zero-extended, and its word the new one, in a typed buffer or
in its graph's view of memory, and completes; no other byte changes. -/
def Obligations.AtomicResults : Prop :=
  ∀ row ∈ atomRows, ∀ (t : BitVec 6) (d a b : BitVec 5) (z : BitVec 3) (s : State) (ad : Nat), s.memOk →
    let i := row.term t d a b z
    let sp := z.toNat / 2
    let r := hereR s
    let n := here s
    let new := row.fn (srcVal n d.toNat) (srcVal n b.toNat)
    Issues i s → classOf d.toNat = 2 → addrOf n a.toNat 28 sp = .ok ad → myArm s (wordOf i) = none → outFull s = false →
    (sp < 3 → (∀ x, bufCheck sp ad row.bytes = some x → exec i s = .next (faultHere s x)) ∧
      (bufCheck sp ad row.bytes = none → bufHolds s = false → bufReadTest s r sp [(0, ad)] = none →
        (journalLine (getR s r) sp (ad / 64)).isSome = true → quiet s sp r ad row.bytes →
        let old := memNat (getBuf (getR s r) sp).mem ad row.bytes
        ∃ u, exec i s = .next u ∧ stored s u r sp ad (Bits.bytesOf row.bytes (new old)) ∧
          (here u).regs = regsAfter i s (putScalar n d.toNat (BitVec.ofNat 64 old)).regs)) ∧
    (sp = 3 → alignCheck ad row.bytes = none → engineHolds s = false → ∀ pa e, xlate s (partOf s r) ad 2 = .ok (pa, e) → populated pa = true →
      poisoned s (pa / 64) = false → let l := viewOf s r (z.toNat % 2 == 1)
      (leafFE e = true → ∀ w ∈ numbered pa row.bytes, viewFull s l w.2 = true) →
      (l.bind (getL s) = none → offCons s pa row.bytes) →
      (∀ x, l.bind (getL (engineGo s s.agent)) = some x → shareTest (engineGo s s.agent) x pa row.bytes = 0) →
      let old := viewNat s l pa row.bytes
      ∃ s1, exec i s = .next (after i s (wakeMem (serveWaits (giveD
          (notify (touch s1 (partOf s r) ad pa e) 3 0 pa row.bytes) d.toNat (BitVec.ofNat 64 old))) 4 3 ad)) ∧
        (∀ x, viewByte s1 l x = if pa ≤ x ∧ x < pa + row.bytes then (Bits.bytesOf row.bytes (new old)).getD (x - pa) 0
          else viewByte s l x) ∧ (l.bind (getL s) ≠ none → s1.hbm = s.hbm) ∧ s1.host = s.host ∧ here s1 = n)

/-- R262, R280, R443: ATOM in its pair form is held in flight as it fires; OPERATION_COMPLETE applies each valid pair of its COORD
head in order to the words of the context's owner range and gives the indices with the old values to D; an index past the range is
a fault. It completes. -/
def Obligations.PairAtomics : Prop :=
  (∀ (t : BitVec 6) (d : BitVec 5) (a : BitVec 3) (b : BitVec 5) (z : BitVec 2) (s : State) (x : Token),
    let i := Instr.atomPair t d a b z
    let n := here s
    let check := pairCheck z.toNat (ownerRange n z.toNat).1 (ownerRange n z.toNat).2
      (((List.range 8).filter (maskBit (hMask x.hdr))).map (fun k => (k, (x.pay.get k).toNat, (x.pay.get (k + 8)).toNat)))
    Issues i s → headOf n (16 + a.toNat) = some x → (∀ y, check = some y → exec i s = .next (faultHere s y)) ∧
    (check = none → ∀ r e c k, s.agent = .elem r e c k →
      exec i s = .next (bkHere (setHere s { n with flight := some ⟨k, fireRegs n.regs, none⟩ })))) ∧
  (∀ (t : BitVec 6) (d : BitVec 5) (a : BitVec 3) (b : BitVec 5) (z : BitVec 2) (s0 : State) (r e c : Nat) (fl : Flight) (x : Token),
    let i := Instr.atomPair t d a b z
    let n0 := getN s0 r e c
    let n := { n0 with flight := none }
    let s := setN { s0 with agent := .elem r e c fl.slot } r e c n
    let done := Instr.operationComplete r e c
    let ends := fun (u : State) => complete u (wordOf i) (elemTrig (getE u r e) n0 t.toNat).1 none
    let sp := z.toNat
    let lo := (ownerRange n sp).1
    let hi := (ownerRange n sp).2
    let mem := (getBuf (getR s r) sp).mem
    let ps := ((List.range 8).filter (maskBit (hMask x.hdr))).map (fun k => (k, (x.pay.get k).toNat, (x.pay.get (k + 8)).toNat))
    let go := ps.foldl (fun (mo : Mem × List (Nat × Nat)) p =>
      let ad := lo + 4 * p.2.1
      (memPutNat mo.1 ad 4 (atomSpec b.toNat (BitVec.ofNat 32 (memNat mo.1 ad 4)) (BitVec.ofNat 32 p.2.2)).toNat,
        (p.1, memNat mo.1 ad 4) :: mo.2)) (mem, [])
    let old := fun k => match go.2.find? (fun y => y.1 == k) with | some y => BitVec.ofNat 32 y.2 | none => (0 : W32)
    let tok : Token := { hdr := hSetMask x.hdr (laneMask x.hdr),
                         pay := Lanes.ofFn (fun k => if k < 8 then x.pay.get k else old (k - 8)) }
    s.memOk → e < 256 → n0.flight = some fl → slotWord n0 fl.slot = wordOf i → cycleRuns s0 r = true →
    ebbSaved s0 r (getE s0 r e).saved = false → ¬ ((getE s0 r e).fired = true ∧ (getE s0 r e).lastCtx = c) →
    sp < 3 → headOf n (16 + a.toNat) = some x → pairCheck sp lo hi ps = none → (getR s r).journal.length + 8 ≤ 512 →
    (∀ p ∈ ps, bufReadTest s r sp [(0, lo + 4 * p.2.1)] = none ∧ quiet s sp r (lo + 4 * p.2.1) 4) →
    ((∀ p ∈ ps, lo + 4 * p.2.1 < hi) →
      ∃ s1, (getBuf (getR s1 r) sp).mem = go.1 ∧ here s1 = n ∧ s1.hbm = s.hbm ∧ s1.host = s.host ∧ elsewhere s s1 r ∧
        (classOf d.toNat = 16 → exec done s0 = .next (ends (emitDone s1))) ∧
        (classOf d.toNat = 8 → ∀ n', commitFire (here (emitDone s1)) (fireTok n.regs (d.toNat - 24) tok true) = .ok n' →
          exec done s0 = .next (ends (setHere (emitDone s1) n')))) ∧
    (∀ k j v qs, ps = (k, j, v) :: qs → hi ≤ lo + 4 * j → exec done s0 = .next (elemFault (bankLeave s) s.agent (mkTrap 0x49 0 j))))

/-- R180, R281: WAITNE completes with its word in D as soon as the word differs from the low 32 bits of B; else it is armed
at the node, and completes once it has been released, with the value that released it. One that found no free place compares again
once a place has freed. -/
def Obligations.WaitNotEqual : Prop :=
  ∀ (t : BitVec 6) (d a b : BitVec 5) (z : BitVec 3) (s : State) (ad : Nat),
    let i := Instr.waitne t d a b z
    let sp := z.toNat / 2
    let r := hereR s
    let n := here s
    let x : W64 := ((srcVal n b.toNat).setWidth 32 : W32).setWidth 64
    let gives := fun (m u : State) (v : W64) => exec i s = .next u ∧ sameBytes m u ∧ elsewhere s u r ∧
      (here u).regs = regsAfter i s (putScalar n d.toNat v).regs
    Issues i s → addrOf n a.toNat 28 sp = .ok ad → (if sp = 3 then alignCheck ad 4 else bufCheck sp ad 4) = none →
    (∀ m v, myArm s (wordOf i) = some m → m.released = some v → ∃ u, gives s u v ∧ u.arms = s.arms.erase m) ∧
    (∀ m, myArm s (wordOf i) = some m → m.released = none → m.more = [] ∨ placeFree s sp r m.addr = false →
      ∃ u, exec i s = .next u ∧ u.arms = s.arms ∧ sameBytes s u ∧ (here u).regs = n.regs) ∧
    (sp < 3 → bufHolds s = false → bufReadTest s r sp [(0, ad)] = none →
      let v := (bword s r sp ad).setWidth 64
      (myArm s (wordOf i) = none → (v ≠ x → ∃ u, gives s u v) ∧
        (v = x → placeFree s sp r ad = true → ∃ u, exec i s = .next u ∧ armed s u .waitNe sp ad x) ∧
        (v = x → placeFree s sp r ad = false → ∃ u m, exec i s = .next u ∧ u.arms = s.arms ++ [m] ∧ m.who = s.agent ∧
          m.word = wordOf i ∧ m.more ≠ [] ∧ m.released = none ∧ sameBytes s u ∧ (here u).regs = n.regs)) ∧
      (∀ m, myArm s (wordOf i) = some m → m.released = none → m.more ≠ [] → m.addr = ad → placeFree s sp r ad = true →
        v ≠ x → ∃ u, gives s u v ∧ u.arms = s.arms.erase m)) ∧
    (myArm s (wordOf i) = none → sp = 3 → engineHolds s = false → ∀ pa e, xlate s (partOf s r) ad 0 = .ok (pa, e) → populated pa = true →
      let l := viewOf s r (z.toNat % 2 == 1)
      readPoison s l pa = false →
      let m := touch (engineGo s s.agent) (partOf s r) ad pa e
      let v : W64 := BitVec.ofNat 64 (viewNat s l pa 4)
      let here' := leafFE e = false ∨ viewFull s l pa = true
      (here' → v ≠ x → ∃ u, gives m u v) ∧
      (¬ here' ∨ v = x → placeFree s 3 r pa = true → ∃ u, exec i s = .next u ∧ armed m u .waitNe 3 pa x))

/-- R95, R146, R332, R333: FSIG raises a fence to the greater of its count and B, with a fence log entry of the launch's
TAG; FWAIT completes with the count in D once it has reached B, and is armed at the base die until then. -/
def Obligations.FenceInstructions : Prop :=
  ∀ (s : State) (t : BitVec 6) (d a b : BitVec 5) (pa : Nat) (e : W64),
    let r := hereR s
    let n := here s
    let va := (srcVal n a.toNat).toNat % 2 ^ 57
    let x := srcVal n b.toNat
    let part := partOf s r
    let fsig := Instr.fsig t a b
    let fwait := Instr.fwait t d a b
    let log := areaOf (getP s part) 0
    let at' := log.2.1 + 32 * ((getP s part).fenceW % log.2.2)
    alignCheck va 8 = none → populated pa = true → poisoned s (pa / 64) = false →
    (isHelm s = true → Issues fsig s → engineHolds s = true ∨ (∃ k, xlate s part va 2 = .error k) → requestHeld s fsig) ∧
    (Issues fsig s → engineHolds s = false → xlate s part va 2 = .ok (pa, e) → exec fsig s =
      .next (after fsig s (fenceRaise (engineGo s s.agent) part va pa e x.toNat
        (match launchOf s r with | some (_, l) => l.ltag | none => 0)))) ∧
    (Issues fsig s → engineHolds s = false → memWf s.hbm = true → xlate s part va 2 = .ok (pa, e) → leafMig e = false →
      quiet s 3 0 pa 8 → quiet s 3 0 at' 32 → offCons s pa 8 → 0 < log.2.2 → (pa + 8 ≤ at' ∨ at' + 32 ≤ pa) → s.hostWaits = [] →
      let v := max (memNat s.hbm pa 8) x.toNat
      ∃ u, exec fsig s = .next u ∧ memNat u.hbm pa 8 = v ∧
        memNat u.hbm at' 32 = s.now % 2 ^ 64 + (match launchOf s r with | some (_, l) => l.ltag.toNat | none => 0) * 2 ^ 64 +
          va * 2 ^ 128 + v * 2 ^ 192 ∧
        (∀ y, (y < pa ∨ pa + 8 ≤ y) → (y < at' ∨ at' + 32 ≤ y) → memRead u.hbm y = memRead s.hbm y) ∧
        u.host = s.host ∧ elsewhere s u r ∧ (here u).regs = regsAfter fsig s n.regs) ∧
    (Issues fwait s → isHelm s = true → engineHolds s = false → myArm s (wordOf fwait) = none → xlate s part va 0 = .ok (pa, e) →
      let m := touch (engineGo s s.agent) part va pa e
      let v := memNat m.hbm pa 8
      (x.toNat ≤ v → ∃ u, exec fwait s = .next u ∧ sameBytes m u ∧ elsewhere s u r ∧
        (here u).regs = regsAfter fwait s (putScalar n d.toNat (BitVec.ofNat 64 v)).regs) ∧
      (v < x.toNat → placeFree m 3 r pa = true → ∃ u, exec fwait s = .next u ∧ armed m u .fence 3 pa x)) ∧
    (Issues fwait s → isHelm s = true → ∀ m v, myArm s (wordOf fwait) = some m → m.released = some v →
      ∃ u, exec fwait s = .next u ∧ u.arms = s.arms.erase m ∧ sameBytes s u ∧
        (here u).regs = regsAfter fwait s (putScalar n d.toNat v).regs)

/-- R144, R145, R285: BARI sets a barrier up, BARA arrives, BARX sets what it expects, each with the flip test; BART reads
whether the phase differs from B's parity, and BARW completes once it differs from A's. Each completes. -/
def Obligations.BarrierResults : Prop :=
  ∀ (s : State) (r : Nat) (t : BitVec 6) (d a b : BitVec 5) (z : BitVec 2) (pend expect arrive : Nat) (phase : Bool),
    s.agent = .helm r → s.memOk →
    let sp := z.toNat
    let n := here s
    let x := srcVal n a.toNat
    let sets := fun (i : Instr) (off : Nat) (o : Nat × Bool × Nat × Nat) => ∃ u, exec i s = .next u ∧ barIs u r sp off o ∧
      (∃ bs, bs.length = 16 ∧ stored s u r sp off bs) ∧ (here u).regs = regsAfter i s n.regs ∧ (getH u r).pc = (getH s r).pc + 4
    let ready := fun (off : Nat) => sp < 3 ∧ bufHolds s = false ∧ bufCheck sp off 16 = none ∧ bufReadTest s r sp [(0, off)] = none ∧
      (journalLine (getR s r) sp (off / 64)).isSome = true ∧ quiet s sp r off 16 ∧ barIs s r sp off (pend, phase, expect, arrive)
    let od := barOff s d.toNat
    let oa := barOff s a.toNat
    (Issues (.bari t d a z) s → ready od → 0 < x.toNat → x.toNat < 2 ^ 32 → pend = 0 →
      sets (.bari t d a z) od (0, false, x.toNat, 0)) ∧
    (Issues (.bari t d a z) s → ready od → (x.toNat = 0 ∨ 2 ^ 32 ≤ x.toNat) →
      exec (.bari t d a z) s = .next (faultHere s (mkTrap 0x21 3 od))) ∧
    (Issues (.bari t d a z) s → ready od → 0 < x.toNat → x.toNat < 2 ^ 32 → pend ≠ 0 →
      exec (.bari t d a z) s = .next (faultHere s (mkTrap 0x21 4 od))) ∧
    (Issues (.bara t d z) s → ready od → sets (.bara t d z) od (flipped (pend, phase, expect, (arrive + 1) % 2 ^ 32))) ∧
    (Issues (.barx t d a z) s → ready od → 0 < x.toNat → x.toNat < 2 ^ 32 → arrive ≤ x.toNat →
      sets (.barx t d a z) od (flipped (pend, phase, x.toNat, arrive))) ∧
    (Issues (.bart t d a b z) s → ready oa → ∃ u, exec (.bart t d a b z) s = .next u ∧ sameBytes s u ∧
      (here u).regs = regsAfter (.bart t d a b z) s
        (putScalar n d.toNat (if phase != (srcVal n b.toNat).getLsbD 0 then 1 else 0)).regs) ∧
    (Issues (.barw t d a z) s → ready od → myArm s (wordOf (.barw t d a z)) = none →
      (phase ≠ x.getLsbD 0 → ∃ u, exec (.barw t d a z) s = .next u ∧ sameBytes s u ∧ elsewhere s u r ∧
        (here u).regs = regsAfter (.barw t d a z) s n.regs ∧ (getH u r).pc = (getH s r).pc + 4) ∧
      (phase = x.getLsbD 0 → placeFree s sp r od = true →
        ∃ u, exec (.barw t d a z) s = .next u ∧ armed s u .barrier sp od x))

/-- R145, R175, R283, R284: CPY, CPYS and CPYQ put a copy in flight, its bytes added to its barrier's PEND, and complete;
COPY_COMPLETE writes the bytes of the source to the destination, line by line, and takes them off PEND; after its core has saved
for a cut it keeps them there till the cut is complete. That CPYQ wants addresses aligned to 4 in a buffer and to nothing in
memory (log 18), and that a copy waits in flight for its core's own deferred reads (log 92), are the model's readings. -/
def Obligations.CopyResults : Prop :=
  (∀ (s : State) (r : Nat) (t : BitVec 6) (d a b : BitVec 5) (z : BitVec 2) (pend expect arrive : Nat) (phase : Bool),
    s.agent = .helm r → s.memOk →
    let n := here s
    let bar := srcVal n b.toNat
    let sp := locSpace bar
    let off := locOff bar
    let issues := fun (i : Instr) (k : Copy) => Issues i s → copyPasses z.toNat k → bufCheck sp off 16 = none →
      (getH s r).copies.length + ((getH s r).outstanding.filter copyHeld).length < 2048 → bufHolds s = false → bufReadTest s r sp [(0, off)] = none →
      (journalLine (getR s r) sp (off / 64)).isSome = true → quiet s sp r off 16 → barIs s r sp off (pend, phase, expect, arrive) →
      pend + k.bytes < 2 ^ 56 → ∃ u, exec i s = .next u ∧ (getH u r).copies = (getH s r).copies ++ [{ k with waits := ownReads s r k }] ∧
        barIs u r sp off (flipped (pend + k.bytes, phase, expect, arrive)) ∧ (here u).regs = regsAfter i s n.regs ∧
        u.hbm = s.hbm ∧ u.host = s.host ∧ elsewhere s u r ∧ (getH u r).pc = (getH s r).pc + 4
    let op := fun (o : Byte) (x y : Lanes) (v : W64) (len : Nat) =>
      ({ a := x, d := y, dval := v, bar := bar, op := o, sz := BitVec.ofNat 3 (2 * z.toNat), bytes := len, waits := [],
         done := false } : Copy)
    let xa := srcLanes n a.toNat
    let va := srcVal n a.toNat
    issues (.cpy t d a b z) (op 0xAF xa 0 (srcVal n d.toNat) (spbElems xa * 2 ^ spbEsz xa)) ∧
    issues (.cpys t d a b z) (op 0xB0 xa (srcLanes n d.toNat) 0 (spbElems xa * 2 ^ spbEsz xa)) ∧
    issues (.cpyq t d a b z) (op 0xB1 (va.setWidth 512) 0 (srcVal n d.toNat) (Bits.nat va 52 32))) ∧
  (∀ (s : State) (r k n : Nat) (c : Copy) (bs : List Byte) (s1 s2 : State), (getH s r).copies[k]? = some c →
    graphRuns s r = true → ebbSaved s r (getH s r).saved = false → (∀ w ∈ ownReads s r c, w ∉ c.waits) →
    let who := copyAgent r k
    let m := { setR s r { getR s r with bankHeld := (getR s r).bankHeld.filter (fun x => x.1 != who) } with agent := who }
    let sp := c.sz.toNat / 2
    let ps := copyPieces c bs
    let served := fun (t : State) => (if c.op = 0xB1 then rowsOf (cpyqSource c).1 (cpyqSource c).2.1 (cpyqSource c).2.2 else
      []).foldl (fun t w => bankServed t r (bankOf w.1 w.2)) (copyTouch { t with agent := .helm r } r c)
    let taken := fun (t : State) => (c.bytes ≠ 0 → barUpdate t r (locSpace c.bar) (locOff c.bar)
      (fun x => if barPend x < c.bytes then .error (barTrap 1 (locOff c.bar))
        else .ok (barMake (barPend x - c.bytes) (barPhase x) (barExpect x) (barArrive x))) = .ok s2) ∧ (c.bytes = 0 → s2 = t)
    let ends := ∃ u, exec (.copyComplete r k) s = .next u ∧ (getH u r).copies = (getH s2 r).copies.eraseIdx k ∧
      u.hbm = s2.hbm ∧ u.host = s2.host ∧ ∀ q j, getBuf (getR u q) j = getBuf (getR s2 q) j
    (c.done = true → (getH s r).saved = none → taken { s with agent := who } → ends) ∧
    (c.done = false → wakeHold { s with agent := who } r (copyRows c) = none → copyAbsent m r c = none →
      copyRead m r c = .ok bs → (sp = 3 → firstXlate m (partOf s r) 1 (ps.map (·.1)) = none) →
      copyPut (fun s w => if sp = 3 then gWrite { s with agent := who } r w.1 false w.2 else bufStore s r sp w.1 w.2 false)
        (fun s w => if sp = 3 then keptBytes s r w else 0) ps (engineReads m who) none 0 = ((.ok s1, none), n) →
      ((getH (served s1) r).saved = none → taken (served s1) → ends) ∧
      ((getH (served s1) r).saved ≠ none → exec (.copyComplete r k) s = .next (setH (served s1) r { getH (served s1) r with
        copies := (getH (served s1) r).copies.set k { c with done := true } }))))

/-- R129 to R131, R277, R278: SRD binds its port to a block; SWR and SSCAT store each valid lane or pair to the element it
names, in order; SGATH gathers the elements of its indices into D; SCLS closes a bound stream; each completes. A block
that R131 refuses, or a second binding, traps. A helm core's stores behind a translation fault are held, and the core goes on
(log 32). The CTX of a closing end with nothing pending is a free value (log 16). -/
def Obligations.StreamResults : Prop :=
  ∀ (s : State) (t : BitVec 6) (d a b : BitVec 5) (pas : Nat → Nat) (es : Nat → W64),
    let r := hereR s
    let n := here s
    let k := d.toNat - 24
    let p := nodePort n k
    let xa := srcLanes n a.toNat
    let xb := srcLanes n b.toNat
    let srd := Instr.srd t d a
    let refused := fun (x : Lanes) (j : Nat) => faultHere s (mkTrap 0x1E j (Bits.nat x 31 0))
    let stores := fun (i : Instr) (items : List (Nat × W32)) =>
      (∀ y ∈ items, y.1 < spbElems xb ∧ spbAddr xb y.1 % 2 ^ spbEsz xb = 0) →
      (engineHolds s = false → (∀ y ∈ items, ∃ pe, xlate s (partOf s r) (spbAddr xb y.1) 1 = .ok pe) →
        ∀ s', storeMany (fun s w => gWrite s r w.1 false w.2)
          (items.map (fun y => (spbAddr xb y.1, Bits.bytesOf 4 y.2.toNat))) s none = (.ok s', none) →
        exec i s = .next (after i s (emitDone s'))) ∧
      (isHelm s = true → engineHolds s = true ∨ (∃ y ∈ items, ∃ k, xlate s (partOf s r) (spbAddr xb y.1) 1 = .error k) →
        requestHeld s i)
    (Issues srd s → (∀ j, spbBad xa true false true p.tstep = some j → exec srd s = .next (refused xa j)) ∧
      (spbBad xa true false true p.tstep = none → p.spb ≠ none → exec srd s = .next (refused xa 8)) ∧
      (spbBad xa true false true p.tstep = none → p.spb = none →
        let owes := isHelm s = false ∧ ∃ j < 4, (nodePort n j).role = 1
        ∃ n', exec srd s = .next (retire srd s n') ∧ (nodePort n' k).spb = some xa ∧ n'.regs = n.regs ∧
          (owes → n'.owed = n.owed + 1 ∧ (nodePort n' k).debt = some (nodeHere s)) ∧
          (¬ owes → n'.owed = n.owed ∧ (nodePort n' k).debt = none))) ∧
    (Issues (.swr t a b) s → spbBad xb true true true (srcStep n a.toNat) = none → ∀ h, headOf n a.toNat = some h →
      stores (.swr t a b) (((List.range 16).filter (maskBit (hMask h.hdr))).filterMap (fun k =>
        (spbElem xb (hT h.hdr + k * srcStep n a.toNat)).map (fun j => (j, h.pay.get k))))) ∧
    (Issues (.sscat t a b) s → spbBad xb false (xb.getLsbD 254) true 0 = none →
      stores (.sscat t a b) (((List.range 8).filter (maskBit (srcMask n a.toNat))).map (fun k =>
        ((xa.get k).toNat, xa.get (k + 8))))) ∧
    (Issues (.sgath t d a b) s → spbBad xb false (xb.getLsbD 254) true 0 = none → myArm s (wordOf (.sgath t d a b)) = none →
      outFull s = false → engineHolds s = false →
      let ks := (List.range 16).filter (maskBit (srcMask n a.toNat))
      let va := fun k => spbAddr xb (xa.get k).toNat
      let l := viewOf s r false
      (∀ k ∈ ks, (xa.get k).toNat < spbElems xb ∧ va k % 2 ^ spbEsz xb = 0 ∧ xlate s (partOf s r) (va k) 0 = .ok (pas k, es k) ∧
        populated (pas k) = true ∧ readPoison s l (pas k) = false ∧ (leafFE (es k) = true → viewFull s l (pas k) = true)) →
      let m := ks.foldl (fun m k => touch m (partOf s r) (va k) (pas k) (es k)) (engineGo s s.agent)
      ∃ (word : Nat → W32) (m' : State),
        (∀ k ∈ ks, mayRead s 3 (leafFE (es k)) (pas k) (BitVec.ofNat 32 (viewNat s l (pas k) 4)) (word k)) ∧
        sameBytes m m' ∧ here m' = n ∧ m'.agent = s.agent ∧
        (classOf d.toNat ≠ 8 → ∃ u, exec (.sgath t d a b) s = .next u ∧ sameBytes m u ∧ elsewhere s u r ∧
          (here u).regs = regsAfter (.sgath t d a b) s (loaded n.regs d.toNat (srcMask n a.toNat) word)) ∧
        (classOf d.toNat = 8 → ∀ n',
          let hdr := match headOf n a.toNat with
            | some h => mkHdr 0 (spbFmt xb) (hEnd h.hdr) (hCtx h.hdr) (srcMask n a.toNat) (hT h.hdr)
            | none => mkHdr 0 (spbFmt xb) 0 0 (srcMask n a.toNat) 0
          commitFire n (fireTok n.regs k ⟨hdr, Lanes.ofFn (fun j => if ks.contains j then word j else 0)⟩ true) = .ok n' →
          exec (.sgath t d a b) s = .next (after (.sgath t d a b) s (emitDone (setHere m' n'))))) ∧
    (Issues (.scls t d) s → (p.spb = none → exec (.scls t d) s = .next (after (.scls t d) s (emitDone s))) ∧
      (p.spb ≠ none → ∀ p', firePort { p with pending := [] } ⟨k, closeTok p s.fresh, true, none, none⟩ = .ok p' →
        ∃ u, exec (.scls t d) s = .next u ∧ (nodePort (here u) k).spb = none ∧ (here u).regs = regsAfter (.scls t d) s n.regs ∧
          sameBytes s u ∧ elsewhere s u r))

/-- R65, R130, R277: the reads of a bound port's next token complete: the token carries the words of the elements its
times map to, the entry has been served up to the last of them, and the binding ends with the stream. Where a token ends (log
39), and T of an end that has no lane (log 89), are the model's readings. -/
def Obligations.StreamReads : Prop :=
  ∀ (s : State) (y : At) (x : Lanes) (v : Ival) (vs : List Ival) (pas : Nat → Nat) (es : Nat → W64),
    let n := getN s y.r y.e y.c
    let p := nodePort n y.n
    let l := viewOf s y.r false
    let part := partOf s y.r
    p.spb = some x → p.pending = v :: vs → portFree p = true → graphRuns s y.r = true → p.cutHold = false → p.post = none →
    (getR s y.r).hung = false → (getR s y.r).frozen = false → ebbSaved s y.r (savedAt s y.r y.e) = false →
    let ls := (sourceLanes x v).1
    let en := (sourceLanes x v).2.1
    let upto := (sourceLanes x v).2.2
    (∀ q ∈ ls, spbAddr x q.2.2 % 2 ^ spbEsz x = 0 ∧ xlate s part (spbAddr x q.2.2) 0 = .ok (pas q.1, es q.1) ∧
      populated (pas q.1) = true ∧ readPoison s l (pas q.1) = false ∧
      (leafFE (es q.1) = true → viewFull s l (pas q.1) = true)) →
    let m := ls.foldl (fun m q => touch m part (spbAddr x q.2.2) (pas q.1) (es q.1)) (engineReads (engineGo s (portAgent s y)) (portAgent s y))
    let has := fun k => ls.any (fun q => q.1 == k)
    let ts := max 1 (spbTstep x)
    let tok : Token := { hdr := mkHdr 0 (spbFmt x) en v.ctx (maskOf has) (if spbLast x < v.lo then (v.lo + (16 * ts - 1)) / (16 * ts) * (16 * ts) else v.lo / (16 * ts) * (16 * ts)),
                         pay := Lanes.ofFn (fun k => if has k then BitVec.ofNat 32 (viewNat m l (pas k) 4) else 0) }
    let rest := { v with lo := if upto = streamEnd then v.hi else ivFrom v (upto + 1) }
    let p1 := { p with pending := if ivEmpty rest then vs else rest :: vs }
    (dropped tok = true → exec (.streamReadComplete y) s = .next (setN m y.r y.e y.c (setPort n y.n p1))) ∧
    (dropped tok = false → ∀ p2, firePort p1 ⟨y.n, tok, true, none, none⟩ = .ok p2 →
      let ends := en == 7 && !p2.queue.any (fun o => hEnd o.tok.hdr == 7)
      exec (.streamReadComplete y) s = .next (setN m y.r y.e y.c
        (if ends then endBinding (setPort n y.n p2) y.n else setPort n y.n p2)))

/-- R44 to R50, R53 to R57, R61, R270 to R272: DMD and DMDR enter a demand at a sink or a HELM input, DMDK forwards one and
retires the oldest open one, RTFW writes a descriptor; each completes, and what they may not name is BADDMD. A range is mapped,
reduced by the served and pending sets, forwarded to the outputs that feed the input and united with its pending set, or held where
no entry is free. A demand arrives at a node output, joins its set and asks the node's inputs; held pieces are forwarded once one
fits. The order of a node's channels there is the model's (log 35), and so is that a restart from a checkpoint gives up the times
served of the range it computes anew (log 103). -/
def Obligations.DemandResults : Prop :=
  (∀ (s : State) (t : BitVec 6) (d a b : BitVec 5) (sel : W64) (e c : Nat),
    let r := hereR s
    let n := here s
    let ch := chanOf d.toNat
    let p := nodePair (getN s r e c) ch
    let bad := fun (k : Nat) => faultHere s ⟨0x1F, k, sel, 0⟩
    let v := (demandOf (srcLanes n a.toNat)).1
    let ext := (srcLanes n a.toNat).getLsbD 41
    let enters := fun (i : Instr) (v : Ival) (ext : Bool) (f : State → State) => let w := { v with hi := min v.hi streamEnd }
      (ivEmpty w = true → exec i s = .next (after i s (f s))) ∧
      (ivEmpty w = false → nodeHolds (getN s r e c) = false →
        ∃ u, asks s u r e c ch w ext ∧ exec i s = .next (after i s (f u)))
    (Issues (.dmd t d a b) s → e = (agentAt s.agent).2.1 → c = (agentAt s.agent).2.2.1 → sel = BitVec.ofNat 64 (e + 512 * c) →
      (dmdLegal s e c ch = false → exec (.dmd t d a b) s = .next (bad 1)) ∧
      (dmdLegal s e c ch = true → enters (.dmd t d a b) ⟨(srcVal n a.toNat).toNat, (srcVal n b.toNat).toNat, 1, 0⟩ false id)) ∧
    (Issues (.dmdr t d a b) s → dmdTarget s b.toNat = .ok (sel, e, c) →
      (dmdLegal s e c ch = false → exec (.dmdr t d a b) s = .next (bad 1)) ∧
      (dmdLegal s e c ch = true → v.step = 0 → exec (.dmdr t d a b) s = .next (bad 3)) ∧
      (dmdLegal s e c ch = true → v.step ≠ 0 → enters (.dmdr t d a b) v ext id)) ∧
    (Issues (.dmdk t d a b) s → dmdTarget s b.toNat = .ok (sel, e, c) → dmdLegal s e c ch = true →
      (a = 28 → p.asked = [] → exec (.dmdk t d a b) s = .next (bad 4)) ∧
      (a = 28 → p.asked ≠ [] → exec (.dmdk t d a b) s = .next (after (.dmdk t d a b) s (retireAsked s r e c ch))) ∧
      (a ≠ 28 → v.step ≠ 0 → p.asked ≠ [] → enters (.dmdk t d a b) v ext (fun u => retireAsked u r e c ch))) ∧
    (Issues (.rtfw t d a b) s → dmdTarget s b.toNat = .ok (sel, e, c) →
      let x : BitVec 128 := (srcLanes n a.toNat).setWidth 128
      (256 < e ∨ 12 ≤ c ∨ p.ctxset = 0 → exec (.rtfw t d a b) s = .next (bad 6)) ∧
      (e ≤ 256 → c < 12 → p.ctxset ≠ 0 → rtfBad x = true → exec (.rtfw t d a b) s = .next (bad 5)) ∧
      (e ≤ 256 → c < 12 → p.ctxset ≠ 0 → rtfBad x = false → ∃ u, exec (.rtfw t d a b) s = .next u ∧
        (let q := (nodePair (getN u r e c) ch).rtf
         q.extractLsb' 124 4 = x.extractLsb' 124 4 ∧ q.extractLsb' 122 2 = 0 ∧ q.extractLsb' 58 64 = x.extractLsb' 58 64 ∧
         q.extractLsb' 0 50 = 0 ∧ q.extractLsb' 50 8 = if rtfKind x = 2 then x.extractLsb' 50 8 else 0) ∧
        sameBytes s u ∧ elsewhere s u r ∧ (here u).regs = regsAfter (.rtfw t d a b) s n.regs))) ∧
  (∀ (x : BitVec 128) (h : Nat) (d : Ival), rtfBad x = false → d.lo < d.hi → d.hi ≤ streamEnd →
    let top := fun (hi : Nat) => if d.hi = streamEnd then streamEnd else min hi streamEnd
    let range := fun (lo hi step : Nat) => if lo < hi then some { d with lo := lo, hi := hi, step := step } else none
    let m := Bits.nat x 121 106
    let q := Bits.nat x 105 90
    let pre := Bits.nat x 89 74 + h
    let post := Bits.nat x 73 58
    rtfMap x h d = match rtfKind x with
      | 0 => range (d.lo - h) d.hi (if h = 0 then d.step else 1)
      | 1 => range (d.lo * m / q - pre) (top ((d.hi - 1) * m / q + 1 + post))
          (if d.step * m % q = 0 ∧ 1 ≤ d.step * m / q ∧ d.step * m / q ≤ 255 ∧ pre = 0 ∧ post = 0 then d.step * m / q else 1)
      | 2 => range (Bits.nat x 121 86) (Bits.nat x 85 50) 1
      | 3 => range 0 streamEnd 1
      | _ => none) ∧
  (∀ (p : Pair) (h : Nat) (w : Ival) (t : Nat), 0 < w.step → w.lo < w.hi →
    let left := ivReduce (p.served ++ p.pending) [w]
    left.any (fun v => ivHas v w.ctx t) =
      (ivHas w w.ctx t && !(p.served ++ p.pending).any (fun e => ivReduces e w && decide (e.lo ≤ t) && decide (t < e.hi))) ∧
    (h = 0 ∨ 1 < rtfKind p.rtf → reduceAt p h w = ivSort left) ∧
    (0 < h → rtfKind p.rtf ≤ 1 → ∀ v vs, ivSort left = v :: vs →
      let low := max (v.lo - h) w.lo
      let last := (List.range (v.lo - low)).map (fun k => v.lo - 1 - k)
      ((aGet [] p.recent w.ctx).take last.length = last → reduceAt p h w = v :: vs) ∧
      ((aGet [] p.recent w.ctx).take last.length ≠ last → reduceAt p h w = { v with lo := low } :: vs))) ∧
  (∀ (l : List Ival) (v : Ival) (c t : Nat), (∀ e ∈ v :: l, 0 < e.step) →
    (ivAdd l v).any (fun e => ivHas e c t) = (l.any (fun e => ivHas e c t) || ivHas v c t)) ∧
  (∀ (s : State) (r e c ch : Nat) (hdr : W64) (t : Nat), ch < 4 →
    let p := nodePair (getN s r e c) ch
    let q := nodePair (getN (serveTime s r e c ch hdr t) r e c) ch
    (∀ v ∈ p.served ++ p.pending, 0 < v.step) → p.served.length + max 1 p.pending.length ≤ 8 →
    (∀ v, v ∈ q.pending ↔ v.lo < v.hi ∧ ∃ w ∈ p.pending,
      v = if w.ctx = hCtx hdr ∧ w.lo ≤ t ∧ t < w.hi then { w with lo := ivFrom w (t + 1) } else w) ∧
    ∀ k j, q.served.any (fun v => ivHas v k j) = (p.served.any (fun v => ivHas v k j) || (k == hCtx hdr && j == t))) ∧
  (∀ (s : State) (y : At) (x : DLink), y.n < 4 → s.dlinks.find? (fun x => x.dst == y) = some x →
    let d := linkIval x
    let n := getN s y.r y.e y.c
    let p := nodePort n y.n
    let cls := classExtend n (getBuf (getR s y.r) 1).mem (p.dset.getD x.slot []) d
    let joins := fun (f : State → State → Prop) => ∃ m u, exec (.demandArrival y) s = .next u ∧ m.dlinks = s.dlinks.erase x ∧
      (nodePort (getN m y.r y.e y.c) y.n).dset.getD x.slot [] = ivAdd (p.dset.getD x.slot []) d ∧
      (nodePort (getN m y.r y.e y.c) y.n).pending =
        (if isSource s y.r y.e y.c y.n = true ∧ p.ended = false then ivAdd p.pending d else p.pending) ∧
      (∀ ch, nodePair (getN m y.r y.e y.c) ch = nodePair n ch) ∧ sameBytes s m ∧ elsewhere s m y.r ∧ f m u
    (demandStalls s x = true → exec (.demandArrival y) s = .next s) ∧
    (demandStalls s x = false → graphMoves s y.r = true →
      (p.spb ≠ none ∨ p.ended = true → joins (fun m u => u = m)) ∧
      (p.spb = none → p.ended = false →
        (cls = .ok none → joins (fun m u => u = m)) ∧
        (∀ tr, cls = .error tr → (getR s y.r).obsctl.getLsbD 1 = false →
          exec (.demandArrival y) s = .next (elemFault s (.elem y.r y.e y.c 0) tr)) ∧
        (∀ v ext at0, cls = .ok (some (v, ext, at0)) → joins (fun m u =>
          let ex := ext || x.dem.ext
          let tok : Demand := { lo := v.lo, hi := v.hi, step := v.step, ctx := v.ctx, inp := x.dem.inp, ext := ex }
          let m0 := match at0 with
            | some c0 => setN m y.r y.e y.c { getN m y.r y.e y.c with ports := (getN m y.r y.e y.c).ports.map (fun p =>
                { p with dset := p.dset.map (fun l => l.flatMap (ivCut ⟨c0, d.lo, 1, d.ctx⟩)) }) }
            | none => m
          ∃ m1 m2 m3 m4, inputTakes m0 m1 y 0 tok v ex at0 ∧ inputTakes m1 m2 y 1 tok v ex at0 ∧
            inputTakes m2 m3 y 2 tok v ex at0 ∧ inputTakes m3 m4 y 3 tok v ex at0 ∧ u = postAsked m4 y.r))))) ∧
  (∀ (s : State) (y : At) (d : Demand) (ds : List Demand), (nodePair (getN s y.r y.e y.c) y.n).held = d :: ds →
    (ivAdd (nodePair (getN s y.r y.e y.c) y.n).pending ⟨d.lo, d.hi, d.step, d.ctx⟩).length ≤ 8 →
    (∀ ch < 4, ch < y.n → (nodePair (getN s y.r y.e y.c) ch).held = []) →
    ∃ u, exec (.demandHeldRelease y) s = .next u ∧
      forwardsAll y.r y.e y.c ((List.range 4).flatMap (fun ch => ((nodePair (getN s y.r y.e y.c) ch).held).map
          (fun d => (ch, (⟨d.lo, d.hi, d.step, d.ctx⟩ : Ival), d.ext))))
        ([0, 1, 2, 3].foldl (fun s ch => withPair s y.r y.e y.c ch (fun p => { p with held := [] })) s) u)

/-- R290 to R294, R296: MMCMD, ACCRD and ACCCLR fire their commands, MXMODE switches the mode of a drained or quiet region;
the node executes the command at the head of its queue: MMA updates each accumulator of the tile step by step, ACCRD drains and
answers, ACCCLR clears; a refused command is a fault. -/
def Obligations.MatrixResults : Prop :=
  (∀ (s : State) (t : BitVec 6) (d a b : BitVec 5) (n' : Node),
    let n := here s
    let r := hereR s
    let x := srcVal n a.toNat
    let fires := fun (i : Instr) (tok : Token) => Issues i s →
      commitFire n (if classOf d.toNat = 8 then fireTok n.regs (d.toNat - 24) tok true else fireRegs n.regs) = .ok n' →
      exec i s = .next (retire i s n')
    let acc := fun (op : Nat) => (⟨mkHdr 1 7 0 0 0x0007 0,
      Lanes.ofList [BitVec.ofNat 32 (op * 2 ^ 28 + x.toNat % 2 ^ 28), BitVec.ofNat 32 (Bits.nat x 47 32)]⟩ : Token)
    fires (.mmcmd t d a b) ⟨match headOf n a.toNat with
        | some h => mkHdr 1 7 0 (hCtx h.hdr) 0x0007 (hT h.hdr)
        | none => mkHdr 1 7 0 0 0x0007 0,
      Lanes.ofList [BitVec.ofNat 32 (2 ^ 28 + (srcVal n b.toNat).toNat % 2 ^ 28), (srcLanes n a.toNat).get 0,
        (srcLanes n a.toNat).get 1 - (srcLanes n a.toNat).get 0]⟩ ∧
    fires (.accrd t d a) (acc 2) ∧ fires (.accclr t d a) (acc 3) ∧
    (Issues (.mxmodeLeave t) s → (getR s r).mxmode = false → exec (.mxmodeLeave t) s = .next (retire (.mxmodeLeave t) s n)) ∧
    (Issues (.mxmodeLeave t) s → (getR s r).mxmode = true → matrixDrained (getR s r) = true →
      ∃ u, exec (.mxmodeLeave t) s = .next u ∧ (getR u r).mxmode = false ∧ sameBytes s u ∧ elsewhere s u r ∧
        (here u).regs = regsAfter (.mxmodeLeave t) s n.regs) ∧
    (Issues (.mxmodeEnter t) s → (getR s r).mxmode = true → exec (.mxmodeEnter t) s = .next (retire (.mxmodeEnter t) s n)) ∧
    (Issues (.mxmodeEnter t) s → (getR s r).mxmode = false → regionQuiet s r = true →
      ∃ u, exec (.mxmodeEnter t) s = .next u ∧ (getR u r).mxmode = true ∧ sameBytes s u ∧ elsewhere s u r ∧
        (here u).regs = regsAfter (.mxmodeEnter t) s n.regs)) ∧
  (∀ (s : State) (r : Nat) (c : Token) (q : List Token),
    let g := getR s r
    let m := { s with agent := mmAgent r }
    let cell := fun (u : State) (i j : Nat) => accGet (getR u r) i j
    let inTile := fun (i j : Nat) => i < mmM c ∧ j < mmN c
    let step := fun (i j : Nat) => mmAccum g c i j g.mmAt (accGet g i j).toNat
    g.mmq = c :: q → mmActs s r = true → hKind c.hdr = 1 → (g.mmAt = 0 → mmRefused g (mmWide s r) c = none) →
    (mmOp c = 1 → mmSteps c ≠ 0 → mmReadTest m r (mmStepReads g c) = none → ∃ u, exec (.matrixMma r) s = .next u ∧
      sameBytes s u ∧ elsewhere s u r ∧ (getR u r).helm = g.helm ∧
      (getR u r).sticky = (mmCells c).foldl (fun fl x => fl ||| (step x.1 x.2).2) g.sticky ∧
      (g.mmAt + 1 < mmSteps c → (getR u r).mmq = c :: q ∧ (getR u r).mmAt = g.mmAt + 1 ∧ (getR u r).mmaCount = g.mmaCount) ∧
      (mmSteps c ≤ g.mmAt + 1 → (getR u r).mmq = q ∧ (getR u r).mmAt = 0 ∧ (getR u r).mmaCount = g.mmaCount + 1) ∧
      ∀ i j, j < 256 → (inTile i j → cell u i j = BitVec.ofNat 32 (step i j).1) ∧ (¬ inTile i j → cell u i j = accGet g i j)) ∧
    (mmOp c = 1 → mmSteps c = 0 → ∃ u, exec (.matrixMma r) s = .next u ∧ (getR u r).mmq = q ∧
      (getR u r).mmaCount = g.mmaCount + 1 ∧ (getR u r).sticky = g.sticky ∧ sameBytes s u ∧ elsewhere s u r ∧
      ∀ i j, j < 256 → (inTile i j ∧ mmAcc c = false → cell u i j = 0) ∧
        (¬ (inTile i j ∧ mmAcc c = false) → cell u i j = accGet g i j)) ∧
    (mmRefused g (mmWide s r) c = none → mmOp c = 2 → g.mmDrain = none → wakeHold m r ((rangeLines (mmDrains g c)).map (fun x => (2, x.2.2))) = none → ∀ s1,
      storeMany (fun s w => bufStore s r 2 w.1 w.2 false) ((drainRows g c).flatMap (fun x => splitLines x.1 x.2)) m none =
        (.ok s1, none) →
      ∃ u tok, exec (.matrixAccrd r) s = .next u ∧ (getR u r).mmq = q ∧ (getR u r).mmDrain = some tok ∧
        hKind tok.hdr = 1 ∧ hMask tok.hdr = 0x0007 ∧ tok.pay.get 0 = BitVec.ofNat 32 (mmK0 c) ∧
        tok.pay.get 1 = g.sticky.setWidth 32 ∧ tok.pay.get 2 = g.mmaCount ∧ (getR u r).sticky = 0 ∧ (getR u r).mmaCount = 0 ∧
        (∀ k, getBuf (getR u r) k = getBuf (getR s1 r) k) ∧ u.hbm = s1.hbm ∧ u.host = s1.host ∧
        ∀ i j, j < 256 → (mmAcc c = true ∧ inTile i j → cell u i j = 0) ∧
          (¬ (mmAcc c = true ∧ inTile i j) → cell u i j = accGet (getR s1 r) i j)) ∧
    (mmRefused g (mmWide s r) c = none → mmOp c = 3 → ∃ u, exec (.matrixAccclr r) s = .next u ∧ (getR u r).mmq = q ∧ (getR u r).sticky = 0 ∧ sameBytes s u ∧
      elsewhere s u r ∧ ∀ i j, j < 256 → (inTile i j → cell u i j = 0) ∧ (¬ inTile i j → cell u i j = accGet g i j))) ∧
  (∀ (s : State) (r : Nat) (t : Token), (getR s r).mmDrain = some t → ∃ u, exec (.accrdResponse r) s = .next u ∧
    (getR u r).mmDrain = none ∧ sameBytes s u ∧ elsewhere s u r ∧ (getR u r).mmOut =
      if (getR s r).mmResp.getLsbD 44 then (getR s r).mmOut ++ [⟨t, [((getR s r).mmResp, t)], 0, false⟩] else (getR s r).mmOut) ∧
  (∀ (s : State) (r k : Nat) (c : Token) (q : List Token), (getR s r).mmq = c :: q → mmActs s r = true → hKind c.hdr = 1 →
    mmOp c ≠ 2 → mmOp c ≠ 3 → (getR s r).mmAt = 0 → mmRefused (getR s r) (mmWide s r) c = some k →
    exec (.matrixMma r) s = .next (elemFault { s with agent := mmAgent r } (mmAgent r)
      ⟨0x25, k, (c.pay.get 0).setWidth 64, c.hdr⟩))

/-- R163, R298 to R302: SPHDR loads a header slot and gives its status, CUT in each mode and CUTR make one cut, CUTB reads a
bound register. Each completes; a request that R299 refuses is CUTREF. That a request which the cutter cannot serve at once is
held and the core goes on where nothing but the request would be withheld, else stands (log 21), and that a refusal is CUTREF at
the request's own instruction, with the value of SPHDR's B (log 42), are the model's readings. -/
def Obligations.CutterResults : Prop :=
  ∀ (s : State) (t : BitVec 6) (d a b : BitVec 5) (z : BitVec 13),
    let r := hereR s
    let n := here s
    let g := getR s r
    let ad := (srcVal n a.toNat).toNat % 2 ^ 57
    let x := srcVal n b.toNat
    let cutAt := fun (i : Instr) (m : Nat) => Issues i s →
      (unitFree s r 0 → cuts s i d m (srcVal n a.toNat) x) ∧
      (isHelm s = true → engineHolds s = true ∨ unitAhead s r 0 = true → heldOrStands s i)
    cutAt (.cutRows t d a b) 0 ∧ cutAt (.cutCols t d a b) 1 ∧ cutAt (.cutContract t d a b) 2 ∧
    (Issues (.cutr t d a) s → isHelm s = true → engineHolds s = true ∨ unitAhead s r 0 = true → heldOrStands s (.cutr t d a)) ∧
    (Issues (.sphdr t d a b) s → isHelm s = true →
      engineHolds s = true ∨ ((x = 0 ∨ x = 1) ∧ ad % 64 = 0 ∧ unitAhead s r 0 = true) → heldOrStands s (.sphdr t d a b)) ∧
    (Issues (.cutr t d a) s → unitFree s r 0 →
      (g.cont = none → let bad := a ≠ 28 ∧ (Bits.nat (srcVal n a.toNat) 31 24 ≠ 0 ∨ Bits.nat (srcVal n a.toNat) 63 56 ≠ 0)
        (bad → exec (.cutr t d a) s = .next (faultHere (unitLeave s r 0) ⟨0x23, 1, 0, 0⟩)) ∧
        (¬ bad → exec (.cutr t d a) s = .next (faultHere (unitLeave s r 0) ⟨0x23, 8, 0, 0⟩))) ∧
      ∀ c, g.cont = some c → cuts s (.cutr t d a) d c.mode (if a = 28 then c.budgets else srcVal n a.toNat) c.cursor) ∧
    (Issues (.cutb t d z) s →
      (cutPending s = false → unitAhead s r 0 = false → exec (.cutb t d z) s = .next (after (.cutb t d z) s (unitLeave
        (setHere s { n with regs := setS n.regs (d.toNat - 8) (vGet 0 g.bounds z.toNat) }) r 0))) ∧
      (cutPending s = true ∨ unitAhead s r 0 = true → ∃ u, exec (.cutb t d z) s = .next u ∧ (here u).regs = n.regs ∧ sameBytes s u)) ∧
    (Issues (.sphdr t d a b) s → engineHolds s = false → (x ≠ 0 → x ≠ 1 → exec (.sphdr t d a b) s = .next (faultHere s ⟨0x23, 9, x, 0⟩)) ∧
      ((x = 0 ∨ x = 1) → ad % 64 ≠ 0 → exec (.sphdr t d a b) s = .next (faultHere s ⟨0x23, 10, x, 0⟩)) ∧
      ((x = 0 ∨ x = 1) → ad % 64 = 0 → unitFree s r 0 → ∀ v, unitRead s r ad 64 = .ok v → let h : Lanes := BitVec.ofNat 512 v
        ∃ u, exec (.sphdr t d a b) s = .next u ∧ (here u).regs = regsAfter (.sphdr t d a b) s
            (putScalar n d.toNat (BitVec.ofNat 64 (mhStatus h))).regs ∧ (getR u r).cont = none ∧
          u.host = s.host ∧ elsewhere s u r ∧ (∀ k, getBuf (getR u r) k = getBuf g k) ∧
          (x = 0 → (getR u r).haValid = (mhStatus h == 0) ∧ (getR u r).ha = (if mhStatus h = 0 then h else g.ha) ∧
            (getR u r).hb = g.hb ∧ (getR u r).hbValid = g.hbValid) ∧
          (x = 1 → (getR u r).hbValid = (mhStatus h == 0) ∧ (getR u r).hb = (if mhStatus h = 0 then h else g.hb) ∧
            (getR u r).ha = g.ha ∧ (getR u r).haValid = g.haValid)))

/-- R149 to R160, R304 to R313: each KV request completes with its stores made as one and its result in D: the position
appended, the index sealed, the copies made, the mask, the old parent, a slot record or a block record; RETSPAN stands at the unit
between its two passes; RING fires, forwards or ends a ring token. That a request which the unit cannot serve at once is held or
stands, and that the passes are two steps (log 21), and the corners of a fork's pool, of the tail and of REWIND (log 20), are the
model's readings. -/
def Obligations.KvResults : Prop :=
  ∀ (s : State) (t : BitVec 6) (d a b : BitVec 5) (g : BitVec 3),
    let r := hereR s
    let n := here s
    let ad := (srcVal n a.toNat).toNat % 2 ^ 57
    let dd := (srcVal n d.toNat).toNat % 2 ^ 57
    let bd := (srcVal n b.toNat).toNat % 2 ^ 57
    let x := srcVal n b.toNat
    let none' : BitVec 5 := 28
    (∀ h, kvOpen s r ad = .ok h → let q := (kvHome s r (shHome h)).getD r
      ((isHelm s = true → engineHolds s = true ∨ unitAhead s q 1 = true → ∀ i ∈ [Instr.kvapp t d a, .kvseal t d a, .kvmask t d a b,
        .kvpar t d a b, .kvlook t d a b, .kvnext t d a b], Issues i s → heldOrStands s i)) ∧
      (unitFree s q 1 →
      (Issues (.kvapp t d a) s → classOf d.toNat ≠ 1 → ∀ ws i e, kvAppend s r ad h = .ok (ws, i, e) →
        kvGives s (.kvapp t d a) d ws (BitVec.ofNat 64 (shNext h)) 0) ∧
      (Issues (.kvapp t d a) s → classOf d.toNat = 1 → ∀ ws i e, kvAppend s r ad h = .ok (ws, i, e) →
        ∀ s1, kvStore s r ws = .done s1 → ∃ u lane, exec (.kvapp t d a) s = .next u ∧ u.host = s1.host ∧
          (here u).regs = regsAfter (.kvapp t d a) s
            (setV (here s1).regs d.toNat (slotRecord (shNext h) lane (some (i, e))))) ∧
      (Issues (.kvseal t d a) s → ∀ bs, kvBlocks s r ad h = .ok bs →
        (openTail bs = none → kvReads s (.kvseal t d a) d 0xFFFFFFFF 0) ∧
        (∀ i e, openTail bs = some (i, e) → kvGives s (.kvseal t d a) d (kvTable h i [beSeal e]) (BitVec.ofNat 64 i) 0)) ∧
      (Issues (.kvfork t d a b) s → (bd % 64 = 0 ∨ ad % 64 ≠ 0) → ∀ c ws k, kvHeader s r bd = .ok c →
        kvFork s r ad bd h c = .ok (ws, k) → kvGives s (.kvfork t d a b) d ws (BitVec.ofNat 64 k) 0) ∧
      (Issues (.kvmask t d a b) s → ∀ m, kvMask s r ad h (Bits.nat x 31 0) (Bits.nat x 47 32) (Bits.nat x 63 48) = .ok m →
        kvReads s (.kvmask t d a b) d (m.setWidth 64) (Lanes.ofFn (fun k => if maskBit m k then 0xFFFFFFFF else 0))) ∧
      (Issues (.kvpar t d a b) s → ∀ old, kvParOld s r ad h (Bits.nat x 15 0) (Bits.nat x 31 16) = .ok old →
        kvGives s (.kvpar t d a b) d [(shPtab h + 4 * Bits.nat x 15 0, 4, Bits.nat x 31 16 + Bits.nat x 32 32 * 2 ^ 31)]
          (BitVec.ofNat 64 old) 0) ∧
      (Issues (.kvlook t d a b) s → ∀ v, kvLook s r ad h (Bits.nat x 31 0) = .ok v → kvReads s (.kvlook t d a b) d 0 v) ∧
      (Issues (.kvnext t d a b) s → ∀ v, kvNextRec s r ad h (Bits.nat x 15 0) = .ok v → kvReads s (.kvnext t d a b) d 0 v))) ∧
    (∀ h, kvOpen s r dd = .ok h → let q := (kvHome s r (shHome h)).getD r
      unitFree s q 1 →
      let retires := fun (i : Instr) (rewind : Bool) => Issues i s →
        ((getR s q).kvPass ≠ some s.agent →
          (kvRetire s r dd g.toNat rewind false h = .ok ([], []) → kvGives s i none' [] 0 0) ∧
          (∀ ws fs, kvRetire s r dd g.toNat rewind false h = .ok (ws, fs) → ws ≠ [] →
            ∃ u, exec i s = .next u ∧ (getR u q).kvPass = some s.agent ∧ sameBytes s u)) ∧
        ((getR s q).kvPass = some s.agent → ∀ ws, kvRetire s r dd g.toNat rewind true h = .ok (ws, []) → kvGives s i none' ws 0 0)
      (Issues (.kvtag t d g) s → ∀ bs, kvBlocks s r dd h = .ok bs →
        kvGives s (.kvtag t d g) none' ((match openTail bs with
          | some (i, e) => if beTag e ≠ g.toNat then kvTable h i [beSeal e] else []
          | none => []) ++ [(dd, 64, (shSet h (shNext h) (shHwm h) (shNblk h) (shNox h) g.toNat).toNat)]) 0 0) ∧
      retires (.retspanKeep t d g) false ∧ retires (.retspanRewind t d g) true) ∧
    (Issues (.ring t d a) s → let lid : W32 := BitVec.ofNat 32 (getH s r).lid
      (headOf n a.toNat = none → ∀ n', commitFire n (fireTok n.regs (d.toNat - 24)
          ⟨mkHdr 1 7 0 0 0x0003 0, Lanes.ofList [lid, (srcVal n a.toNat).setWidth 32]⟩ true) = .ok n' →
        exec (.ring t d a) s = .next (retire (.ring t d a) s n')) ∧
      (∀ h, headOf n a.toNat = some h → hKind h.hdr = 1 →
        (h.pay.get 0 = lid → exec (.ring t d a) s = .next (retire (.ring t d a) s (putP n (n.regs.p ||| 0x80)))) ∧
        (h.pay.get 0 ≠ lid → ∀ n', commitFire n (fireTok { n.regs with p := n.regs.p &&& 0x7F } (d.toNat - 24) h true) = .ok n' →
          exec (.ring t d a) s = .next (retire (.ring t d a) s n'))))

/-- R93, R94, R96, R104, R112, R113, R116, R117, R329, R331: LAUNCH queues a record or answers with its status, CFGLD loads a
section and gives its status; a dispatched launch takes its placement and loads, its helm cores start at HENTRY with
ARGS; it ends, is pre-empted, asked to migrate, and restored, each as its event says. That an unmapped SIGADDR is left alone at the
end (log 60), and that a load that fails ends the launch with FAILED (log 61), are the model's readings. -/
def Obligations.LaunchResults : Prop :=
  (∀ (s : State) (r : Nat) (t : BitVec 6) (d a b : BitVec 5) (rc : List Byte), s.agent = .helm r →
    let h := getH s r
    let va := (srcVal h.node a.toNat).toNat % 2 ^ 57
    let e := engineGo s s.agent
    let m := setH e r { getH e r with launches := h.launches + 1 }
    let ltag : W64 := BitVec.ofNat 64 (2 ^ 63 + h.lid % 256 * 2 ^ 32 + (h.launches + 1).toNat)
    let st := recordStatus m (partOf s r) rc
    let gives := fun (i : Instr) (u : State) (v : W64) => exec i s = .next u ∧
      (here u).regs = regsAfter i s (putScalar h.node d.toNat v).regs ∧ (getH u r).pc = h.pc + 4
    (Issues (.launch t d a) s → alignCheck va 64 = none → viewRead s r va 256 = .ok rc →
      (∀ l x, launchOf m r = some (l, x) → x.taken.find? (fun k => k.1 == ltag) = none) →
      (∀ k, st = some k → ∃ u, gives (.launch t d a) u (BitVec.ofNat 64 k) ∧ u.nextLaunch = s.nextLaunch) ∧
      (st = none → ∃ u, gives (.launch t d a) u ltag ∧ u.nextLaunch = s.nextLaunch + 1 ∧
        (getH u r).launches = h.launches + 1 ∧ launchIs u s.nextLaunch (fun y => y.record = rc ∧ y.part = partOf s r ∧
          y.ltag = ltag ∧ y.phase = .waiting))) ∧
    (Issues (.cfgld t d a b) s → va % 32 = 0 → cfgQuiet s r = true → ∀ tb bs, viewRead s r va 32 = .ok tb →
      let at' := (srcVal h.node b.toNat).toNat % 2 ^ 57 + (secOf tb).off
      viewRead s r at' (secOf tb).len = .ok bs →
      let good := fun (u : State × Nat) =>
        exec (.cfgld t d a b) s = .next (after (.cfgld t d a b) s (putD u.1 d.toNat (BitVec.ofNat 64 u.2)))
      (∀ u, cfgLoad e r (secOf tb) at' bs = .ok u → u.2 ≠ 0 → good u) ∧
      (∀ u v, cfgLoad e r (secOf tb) at' bs = .ok u → u.2 = 0 → cfgLoad (intervalEnd e r 0) r (secOf tb) at' bs = .ok v → good v))) ∧
  (∀ (s : State) (l o : Nat) (x : Launch) (i : Img) (es : List SecEnt), pickLaunch s = some (l, x, o, i, es) →
    (x.phase = .waiting → ∃ u, exec .launchDispatch s = .next u ∧
      launchIs u l (fun y => y.phase = .loading ∧ y.place = (sectPos i es).map (placeOf o) ∧ y.origin = o ∧
        ∀ r ∈ y.place, (getR u r).launch = some l)) ∧
    (x.phase = .preempted → let m := takePlace s l x o i es
      (slotPoison m x (restoreSlot m x) = none → ∀ t, loadGraph m l x.phys = .ok t → ∃ u, exec (.launchRestore l) s = .next u ∧
        launchIs u l (fun y => (y.phase = .rolling ∧ ∃ k < 16, crosses y k = true ∧ (aGet EthPort.reset s.ports k).up = false) ∨
          ((y.phase = .running ∨ y.phase = .rerun) ∧ ∀ c, x.snap = some c → (y.phase = .rerun ↔ c.rerun = true)))) ∧
      (slotPoison m x (restoreSlot m x) = none → ∀ t, loadGraph m l x.phys = .error t →
        exec (.launchRestore l) s = .next (launchOver t l 6 0)))) ∧
  (∀ (s : State) (l : Nat) (x : Launch), getL s l = some x →
    (x.phase = .loading → (∀ t, loadGraph s l [] = .error t → exec (.helmStart l) s = .next (launchOver t l 6 0)) ∧
      (∀ t, loadGraph s l [] = .ok t → ∃ m, exec (.helmStart l) s = .next (chainsDown (virtBlock m x.part (saveAddr x.record) 4096 []) l) ∧
        launchIs m l (fun y => y.phase = .running) ∧ ∀ r ∈ x.place, (getH t r).running = true →
          (getH m r).pc = BitVec.ofNat 20 (rcHentry x.record) ∧
          getS (getH m r).node.regs 0 = BitVec.ofNat 64 (rcArgs x.record))) ∧
    (x.ending = true → x.commits = [] → x.phase = .running →
      let va := rcSigaddr x.record
      exec (.launchEnd l) s = .next (launchOver (match xlate s x.part (va % 2 ^ 57) 3 with
        | .ok (pa, e) => if va = 0 then s else fenceRaise s x.part va pa e (rcSigval x.record) x.ltag
        | .error _ => s) l 0 (rcSigval x.record))) ∧
    (rcPersist x.record = true → x.wantEbb = true → x.migPosted = none → launchMoves x = true →
      ∃ u, exec (.migrationRequest l) s = .next u ∧ launchIs u l (fun y => y.migPosted = some s.now) ∧
        ∀ r ∈ x.place, (getH u r).migPosted = true) ∧
    (x.migPosted ≠ none → x.wantEbb = true → launchMoves x = true → x.cut = none → allParked s x = true →
      ∃ u, exec (.migrationCut l) s = .next u ∧ launchIs u l (fun y => ∃ c, y.cut = some c ∧ c.kind = 2 ∧
        c.seq = x.cutSeq + 1 ∧ c.closing = false)) ∧
    (∀ t0, x.migPosted = some t0 → t0 + 1000000 ≤ s.now → allParked s x = false →
      (∀ c, x.cut = some c → c.kind ≠ 2) → ∃ u, exec (.migrationTimeout l) s = .next u ∧
        launchIs u l (fun y => y.migPosted = none ∧ y.wantEbb = false ∧ y.declined = x.declined ++ x.forHead.toList)) ∧
    (∀ t0, x.quietSince = some t0 → t0 + 100000 ≤ s.now → launchMoves x = true → x.cut = none → x.engines ≠ [] →
      cuttable x = true → (getP s x.part).preempting = none →
      ∀ k, stuckHead s x.part = some k → x.declined.contains k.1 = false → ∃ u, exec (.quiescentPreempt l) s = .next u ∧ launchIs u l (fun y => y.wantEbb = true) ∧
        (getP u x.part).preempting = some l)) ∧
  (∀ (s : State) (p : BitVec 5) (k : Nat × Launch) (v : Nat × Launch), (getP s p.toNat).preempting = none →
    stuckHead s p.toNat = some k → victimOf s p.toNat k.1 k.2.prio = some v →
    ∃ u, exec (.preempt p) s = .next u ∧ (getP u p.toNat).preempting = some v.1 ∧ launchIs u v.1 (fun y => y.wantEbb = true))

/-- R108 to R112, R133, R297, R358 to R361, R379: a cut is posted when it is due; a bound source injects its marker and
then emits nothing; an element, a helm core and a matrix node save once their markers have come; a complete cut names
its slot and commits its window; a base die applies a committed window; a save that meets an error is dropped. That an engine
stays still behind its marker (log 24), that later markers of one cut at the matrix node are dropped (log 44), and the order in which
windows are applied (log 66) are the model's. -/
def Obligations.CutResults : Prop :=
  (∀ (s : State) (l : Nat) (x : Launch), getL s l = some x →
    (launchMoves x = true → x.cut = none → x.ending = false →
      (allHalted s x = true → ∃ u, exec (.snapCutPost l) s = .next u ∧ launchIs u l (fun y => y.cutSeq = x.cutSeq + 1 ∧
        ∃ c, y.cut = some c ∧ c.kind = 1 ∧ c.seq = x.cutSeq + 1 ∧ c.closing = true)) ∧
      (allHalted s x = false → snapDue s x = true → ∃ u, exec (.snapCutPost l) s = .next u ∧ launchIs u l (fun y =>
        y.cutSeq = x.cutSeq + 1 ∧ ∃ c, y.cut = some c ∧ c.kind = 1 ∧ c.seq = x.cutSeq + 1 ∧ c.closing = false)) ∧
      (allHalted s x = false → snapDue s x = false → exec (.snapCutPost l) s = .next s)) ∧
    (∀ c, x.cut = some c → launchMoves x = true → (x.phase = .rerun → x.hits = []) → allSaved s x c.seq = true →
      markersHome s x = true →
      ∃ u, exec (.cutComplete l) s = .next u ∧ ((∀ a ∈ s.arms, a.kind = .atomic → a.space ≠ 3) → launchIs u l (fun y =>
        y.window = x.window + 1 ∧ y.win = [] ∧ y.fills = [] ∧ (c.kind = 2 → y.phase = .preempted) ∧ (c.kind ≠ 2 → y.ending = c.closing) ∧ ∃ p, y.snap = some p ∧ p.kind = c.kind ∧
          p.seq = c.seq ∧ p.window = x.window ∧ p.slot = nextSlot x))) ∧
    (∀ (stack : BitVec 3) c, x.commits.find? (fun c => c.1 == stack.toNat) = some c →
      s.launches.any (fun y => y.2.commits.any (fun d => d.1 == stack.toNat && d.2.2.2 < c.2.2.2)) = false →
      ∃ u, exec (.windowApply stack l) s = .next u ∧
        (s.arms = [] → s.hostWaits = [] → (∀ e ∈ s.parts, let a := areaOf e.2 4
            a.2.2 = 0 ∨ memNat (ovApply s.hbm c.2.1) (a.2.1 + 8) 8 = memNat s.hbm (a.2.1 + 8) 8) → u.hbm = ovApply s.hbm c.2.1 ∧ u.host = s.host ∧
          (∀ w ∈ c.2.2.1, setHas u.full w = true) ∧ launchIs u l (fun y => y.commits = x.commits.erase c))) ∧
    (∀ c (pa : BitVec 40), x.cut = some c → 1 ≤ x.aborts → exec (.saveAbort l pa) s =
      .next (graphFatal (launchRec s l 8 2 ⟨0x0B, 1, pa.setWidth 64, 0⟩) (x.place.headD 0) 0x0B)) ∧
    (∀ c (pa : BitVec 40), x.cut = some c → x.aborts = 0 → ∃ u, exec (.saveAbort l pa) s = .next u ∧
      launchIs u l (fun y => y.aborts = 1 ∧ (c.kind = 2 → y.cut = none ∧ y.wantEbb = false ∧ y.declined = x.declined ++ x.forHead.toList)))) ∧
  (∀ (s : State) (y : At) (l : Nat) (x : Launch) (t : Token), y.n < 4 → launchOf s y.r = some (l, x) → launchMoves x = true →
    let n := getN s y.r y.e y.c
    let p := nodePort n y.n
    let mk := { t with hdr := hSetT t.hdr (portNext s y p) }
    p.post = some t → hasEngine p = true → midToken s x y = false → ∃ u, exec (.sourceMarkerInject y) s = .next u ∧ sameBytes s u ∧
      let q := nodePort (getN u y.r y.e y.c) y.n
      q.post = none ∧ q.cutHold = true ∧ q.spb = p.spb ∧ q.queue = p.queue ++ [⟨mk, (portDests n y.n).map (fun d => (d, mk)), 0, false⟩]) ∧
  (∀ (s : State) (r e l : Nat) (c : Cut), cutOf s r = some (l, c) → regionCuts s r = true →
    (e < 256 → (getE s r e).ctxs ≠ [] → (getE s r e).saved = none → elemReadyToSave s r e = true →
      ∃ u, exec (.elementSave r e) s = .next u ∧ (getE u r e).saved = some c.seq ∧
        launchIs u l (fun y => ∃ k g, y.cut = some k ∧ aFind k.image r = some g ∧
          aGet Elem.reset g.elems e = { getE s r e with ctxs := aMap (fun _ n => nodeImage n) (getE s r e).ctxs, saved := none })) ∧
    ((getH s r).saved = none → helmReadyToSave s r = true → ∃ u, exec (.helmSave r) s = .next u ∧
      (getH u r).saved = some c.seq) ∧
    (∀ t q, (getR s r).mmq = t :: q → isCutMarker t = true → (getR s r).mmDrain = none → ∃ u,
      exec (.matrixMarkerSave r) s = .next u ∧ (getR u r).mmq = q ∧ sameBytes s u ∧
      ((getR s r).mmSaved ≠ some c.seq → (getR u r).mmSaved = some c.seq ∧ u.links = s.links ++
        (if (getR s r).mmResp.getLsbD 44 then [⟨⟨r, 257, 0, 0⟩, destAt s r (getR s r).mmResp, t⟩] else [])) ∧
      ((getR s r).mmSaved = some c.seq → u.links = s.links)))

/-- R15, R16, R18 to R21, R24, R28, R438: what becomes of a packet or message before its row's own effect: discarded and
counted, or its connection closed; a repeated SEQ writes its completion once more, a full ring holds it, on ROD no later one
passes a held one, a bad header is BADMSG, a wrong endpoint or partition DENIED, a feature not accepted NOFEAT. HELLO sets a
connection up and returns entries; a connection that fails keeps its completions for its endpoint's partition. The order of BADMSG,
DENIED and NOFEAT (log 76), what a held message bars on ROD, the PART of a refused completion and that nothing is kept for
management (log 52), and a first HELLO with a wrong PART (log 79) are the model's. -/
def Obligations.ConnectionMessages : Prop :=
  (∀ (s : State) (m : Msg) (k : BitVec 4), let p := aGet EthPort.reset s.ports k.toNat
    exec (.packetDiscard k) s = .next { s with ports := aSet s.ports k.toNat { p with errors := p.errors + 1 } } ∧
    exec (.packetTrim k) s = .next s ∧
    (arrives s m = true → endpointOf s m.dest = none → exec (.messageNoEndpoint m) s = .next { s with
      ports := aSet s.ports m.port.toNat { aGet EthPort.reset s.ports m.port.toNat with
        errors := (aGet EthPort.reset s.ports m.port.toNat).errors + 1 } }) ∧
    (arrives s m = true → msgRow s m = .notHello → ∃ u, exec (.firstMessageNotHello m) s = .next u ∧
      (getC u m.conn).closed = true ∧
      (aGet EthPort.reset u.ports m.port.toNat).errors = (aGet EthPort.reset s.ports m.port.toNat).errors + 1 ∧
      u.host = s.host ∧ u.regions = s.regions)) ∧
  (∀ (s : State) (m : Msg) (row : Row) (ep : Option Nat) (i : Instr), isMsg row m i → let c := getC s m.conn
    (row ∉ [.noEndpoint, .notHello] → arrives s m = true → msgRow s m = row →
      (behindHeld c row m = true → exec i s = .next s) ∧
      (behindHeld c row m = false → ringHolds c row = true → exec i s = .next (holdMsg s m)) ∧
      (behindHeld c row m = false → ringHolds c row = false → c.held ≠ some (mSeq m) →
        ∀ d, mSeq m ∈ c.seqs → c.done.find? (fun d => d.seq == mSeq m) = some d → exec i s = .next (complWrite s m.conn d))) ∧
    (gatedRow row → carried s m row ep → fallback s = false →
      let gives := fun (st : Nat) => ∃ u, exec i s = .next u ∧ answered s u m ep st 0 ∧ u.regions = s.regions
      let badPart := ∃ p, ep = some p ∧ mPart m ≠ p
      let badPlace := ((gateOf row).1 = .partition ∧ ep = none) ∨ ((gateOf row).1 = .management ∧ ep ≠ none)
      (hdrBad m = true → gives 1) ∧ (hdrBad m = false → badPart ∨ badPlace → gives 3) ∧
      (hdrBad m = false → ¬ badPart → ¬ badPlace → ∀ b, (gateOf row).2 = some b → c.features.getLsbD b = false → gives 2)) ∧
    (carried s m .unknown ep → fallback s = false → answers s (.unknownMessageType m) m ep 1 0 (fun u => u.hbm = s.hbm))) ∧
  (∀ (s : State) (m : Msg) (ep : Option Nat), let c := getC s m.conn
    let v := accepted m
    let n := pay m 319 288
    let set := fun (u : State) => let x := getC u m.conn
      x.hello = true ∧ x.closed = false ∧ x.features = v ∧ x.ring = BitVec.ofNat 64 (pay m 383 320) ∧ x.count = n ∧
      x.data = BitVec.ofNat 64 (pay m 255 192) ∧ x.dlen = pay m 191 160 ∧ x.free = n - 1 - c.withheld.length ∧
      (memWf s.host = true → BitVec.ofNat 256 (memNat u.host (pay m 383 320) 32) = recordBits (compOf m ep 0 v.toNat) 0)
    (carried s m .helloSetup ep → c.hello = false → c.withheld = [] →
      (ringOk m = false → ∃ u, exec (.helloSetup m) s = .next u ∧ (getC u m.conn).closed = true ∧ u.host = s.host) ∧
      (ringOk m = true → setupStatus m ep true = 0 → (∀ p, ep = some p → (getP s p).kept = []) →
        ∃ u, exec (.helloSetup m) s = .next u ∧ set u) ∧
      (ringOk m = true → setupStatus m ep true ≠ 0 → ∃ u, exec (.helloSetup m) s = .next u ∧ (getC u m.conn).closed = true)) ∧
    (carried s m .helloSetup ep → c.hello = true → ringOk m = true → setupBad m = false → setupStatus m ep false = 0 →
      v = c.features ∨ ep = none → ∃ u, exec (.helloSetup m) s = .next u ∧ set u) ∧
    (carried s m .helloCredit ep → c.hello = true → hdrBad m = false → mLen m = 64 → pay m 511 288 = 0 → pay m 255 1 = 0 →
      (∀ p, ep = some p → mPart m = p) →
      let f := c.free + min (pay m 287 256) (c.count - c.free)
      ∃ u, exec (.helloCredit m) s = .next u ∧ (getC u m.conn).withheld = c.withheld.drop f ∧
        (getC u m.conn).free = f - c.withheld.length ∧ (getC u m.conn).written = c.written + min f c.withheld.length)) ∧
  (∀ (s : State) (k : Nat), aFind s.conns k ≠ none → ∃ u, exec (.connectionFailure k) s = .next u ∧
    (getC u k).closed = true ∧ (getC u k).withheld = [] ∧
    (∀ p, endpointOf s (getC s k).dest = some (some p) → (getP s p).kept.length + (getC s k).withheld.length ≤ 1024 →
      (getP u p).kept = (getP s p).kept ++ (getC s k).withheld) ∧
    (endpointOf s (getC s k).dest = some none → u.parts = s.parts))

/-- R30, R31, R32, R63, R64, R90, R95, R128, R440: each message of a partition has its effect and completes with its value:
a fence read, raised or waited for; pages mapped, unmapped, pinned and unpinned; the threshold; a launch queued, or
refused with its status; demand entered at a sink. What a poisoned line stops is FAILED with its address (R410). A REQUEST held until
its graph runs, and its VALUE (log 75), the fields that a MAP form does not use and what a change of a leaf waits for (log 78), and
the end of a host wait (log 52) are the model's. -/
def Obligations.HostMessages : Prop :=
  (∀ (s : State) (m : Msg) (p pa : Nat) (leaf : W64), let ep := some p
    let va := pay m 255 192
    let x := pay m 191 128
    let v := memNat s.hbm pa 8
    let log := areaOf (getP s p) 0
    let at' := log.2.1 + 32 * ((getP s p).fenceW % log.2.2)
    let ok := fun (op : Nat) => m.payload.length = 32 ∧ pay m 127 120 = op ∧ pay m 119 0 = 0 ∧ va % 8 = 0 ∧ va < 2 ^ 57
    xlate s p va 3 = .ok (pa, leaf) → leafMig leaf = false → poisoned s (pa / 64) = false →
    (taken s m .fenceRead ep → ok 0 → x = 0 → answers s (.fenceRead m) m ep 0 v (fun u => u.hbm = s.hbm)) ∧
    (taken s m .fenceRaise ep → ok 1 → memWf s.hbm = true → s.hostWaits = [] → quiet s 3 0 pa 8 → offCons s pa 8 → 0 < log.2.2 →
      (pa + 8 ≤ at' ∨ at' + 32 ≤ pa) → answers s (.fenceRaise m) m ep 0 (max v x) (fun u => memNat u.hbm pa 8 = max v x ∧
        memNat u.hbm at' 32 = s.now % 2 ^ 64 + (mTag m).toNat * 2 ^ 64 + va * 2 ^ 128 + max v x * 2 ^ 192 ∧
        ∀ y, (y < pa ∨ pa + 8 ≤ y) → (y < at' ∨ at' + 32 ≤ y) → memRead u.hbm y = memRead s.hbm y)) ∧
    (taken s m .fenceWait ep → ok 2 →
      (x ≤ v → answers s (.fenceWait m) m ep 0 v (fun u => u.hbm = s.hbm)) ∧
      (v < x → placeFree s 3 0 pa = true → ∃ u w, exec (.fenceWait m) s = .next u ∧ u.hostWaits = s.hostWaits ++ [w] ∧
        w.conn = m.conn ∧ w.seq = mSeq m ∧ w.tag = mTag m ∧ w.addr = pa ∧ w.value.toNat = x ∧ u.hbm = s.hbm ∧ u.host = s.host))) ∧
  (∀ (s : State) (m : Msg) (p : Nat) (ps : List Nat), let ep := some p
    let ok := fun (op : Nat) => m.payload.length = 32 ∧ pay m 127 120 = op ∧ pay m 119 0 = 0 ∧ pay m 191 128 ≠ 0
    pagesOf s p (pay m 255 192) (pay m 191 128) = some ps →
    (taken s m .pin ep → ok 0 → (∀ q ∈ ps, pinCount s p q < 65535) → answers s (.pin m) m ep 0 ps.length (fun u =>
      u.hbm = s.hbm ∧ ∀ q, pinCount u p q = pinCount s p q + ps.count q)) ∧
    (taken s m .pin ep → ok 0 → (∃ q ∈ ps, pinCount s p q = 65535) → answers s (.pin m) m ep 5 0 (fun u => u.pins = s.pins)) ∧
    (taken s m .unpin ep → ok 1 → (∀ q ∈ ps, pinCount s p q ≠ 0) → answers s (.unpin m) m ep 0 ps.length (fun u =>
      u.hbm = s.hbm ∧ ∀ q, pinCount u p q = pinCount s p q - ps.count q)) ∧
    (taken s m .unpin ep → ok 1 → (∃ q ∈ ps, pinCount s p q = 0) → answers s (.unpin m) m ep 3 0 (fun u => u.pins = s.pins))) ∧
  (∀ (s : State) (m : Msg) (p : Nat), let ep := some p
    let va := pay m 511 448
    let pa := pay m 447 408
    let n := pay m 407 376
    let typ := pay m 375 374
    let sz := 2 ^ pageBits typ
    let stack := va / 2 ^ 54
    let attrs := packFields [(0, 1, pay m 369 369), (1, 1, pay m 370 370), (2, 1, pay m 371 371), (3, 1, pay m 372 372),
      (4, 1, pay m 373 373)]
    let root := fun k => (getP s p).roots.getD k 0
    m.payload.length = 64 → pay m 350 0 = 0 → (n ≠ 0 → tablesPoison s p va n typ = none) →
    (taken s m .mapThreshold ep → pay m 511 374 = 0 → answers s (.mapThreshold m) m ep 0 0 (fun u => u.hbm = s.hbm ∧
      (getP u p).thresh.toNat = pay m 366 351)) ∧
    (n ≠ 0 → typ ≠ 0 → va % sz = 0 →
      (taken s m .mapPages ep → pay m 368 367 = 0 → pa % sz = 0 → stack < 8 → (va + n * sz - 1) / 2 ^ 54 = stack →
        pa / 2 ^ 37 = stack → (pa + n * sz - 1) / 2 ^ 37 = stack → (∀ k < n,
          insideRanges (getP s p).ranges (pa + k * sz) sz = true ∧ pageOffline s (pa + k * sz) sz = false ∧
          touchesPin s p (va + k * sz) sz = false) →
        let go := (List.range n).foldl (fun (acc : Option State) k => acc.bind
          (mapLeaf p (va + k * sz) typ (leafEntry p typ attrs (pa + k * sz)) walkLevels (root stack))) (some (noted s m .mapPages))
        (go = none → answers s (.mapPages m) m ep 5 0 (fun u => u.hbm = s.hbm)) ∧
        (∀ t, go = some t → oldUsed s p va (n * sz) = true → exec (.mapPages m) s = .next (holdMsg s m)) ∧
        (∀ t, go = some t → oldUsed s p va (n * sz) = false → answers s (.mapPages m) m ep 0 n (fun u =>
          (pay m 372 372 = 0 → u.hbm = t.hbm) ∧
          (pay m 372 372 = 1 → u.hbm = t.hbm.filter (fun c => !(pa ≤ c.1 && c.1 < pa + n * sz))) ∧
          (pay m 371 371 = 1 → ∀ w, pa ≤ w → w < pa + n * sz → setHas u.full w = false) ∧
          ∀ k ∈ u.tcache, ¬ (k.2.1 = p ∧ va ≤ k.2.2 ∧ k.2.2 < va + n * sz)))) ∧
      (taken s m .mapUnmap ep → n = 1 → va + sz ≤ 2 ^ 57 →
        (findLeaf s.hbm va typ walkLevels (root (va / 2 ^ 54 % 8)) = .ok none →
          answers s (.mapUnmap m) m ep 0 0 (fun u => u.hbm = s.hbm)) ∧
        (∀ a e, findLeaf s.hbm va typ walkLevels (root (va / 2 ^ 54 % 8)) = .ok (some (a, e)) →
          touchesPin s p va sz = false → memWf s.hbm = true → oldUsed s p va sz = false → answers s (.mapUnmap m) m ep 0 1 (fun u =>
            memNat u.hbm a 8 % 2 = 0 ∧ (∀ y, (y < a ∨ a + 8 ≤ y) → memRead u.hbm y = memRead s.hbm y) ∧
            ∀ k ∈ u.tcache, ¬ (k.2.1 = p ∧ va ≤ k.2.2 ∧ k.2.2 < va + sz)))))) ∧
  (∀ (s : State) (m : Msg) (p : Nat), let ep := some p
    taken s m .launch ep → m.payload.length = 256 → usesInred s p m.payload = false →
    let bad := rcPoison s p m.payload ((getC s m.conn).features.getLsbD 10)
    (∀ a, bad = some a → ctlOk m.payload = true → levelsOk (rcLevels m.payload) none = true →
      answers s (.launchMessage m) m ep 6 a (fun u => u.nextLaunch = s.nextLaunch)) ∧
    (bad = none → ∀ k, recordStatus s p m.payload = some k → answers s (.launchMessage m) m ep k 0 (fun u => u.nextLaunch = s.nextLaunch)) ∧
    (bad = none → recordStatus s p m.payload = none → ∃ u, exec (.launchMessage m) s = .next u ∧ u.nextLaunch = s.nextLaunch + 1 ∧
      u.host = s.host ∧ u.hbm = s.hbm ∧ launchIs u s.nextLaunch (fun y => y.record = m.payload ∧ y.part = p ∧ y.ltag = mTag m ∧
        y.conn = some (m.conn, mSeq m, mTag m) ∧ y.place = [] ∧
        ((getC s m.conn).features.getLsbD 10 = false → y.phase = .waiting)))) ∧
  (∀ (s : State) (m : Msg) (p : Nat), let ep := some p
    let live := s.launches.filter (fun e => e.2.part == p && isLive s e.2 && e.2.ltag == BitVec.ofNat 64 (pay m 255 192))
    let v : Ival := { lo := pay m 159 124, hi := pay m 123 88, step := pay m 87 80, ctx := pay m 79 76 }
    taken s m .request ep → m.payload.length = 32 → v.step ≠ 0 → pay m 75 0 = 0 →
    (live = [] → answers s (.request m) m ep 5 0 (fun u => u.hbm = s.hbm)) ∧
    (∀ l x, live = [(l, x)] → (launchMoves x = false → ivEmpty v = false → exec (.request m) s = .next (holdMsg s m)) ∧
      (launchMoves x = false → ivEmpty v = true → answers s (.request m) m ep 0 v.lo (fun u => u.hbm = s.hbm)) ∧
      (launchMoves x = true → ∀ a, sinkOf s x (pay m 191 160) = some a →
        let q := nodePair (getN s a.r a.e a.c) a.n
        (ivEmpty v = true → answers s (.request m) m ep 0 v.lo (fun u => u.hbm = s.hbm)) ∧
        (ivEmpty v = false → nodeHolds (getN s a.r a.e a.c) = true → exec (.request m) s = .next (holdMsg s m)) ∧
        (ivEmpty v = false → nodeHolds (getN s a.r a.e a.c) = false → ∃ rq : Req, rq.conn = m.conn ∧ rq.seq = mSeq m ∧ rq.tag = mTag m ∧
          rq.part.toNat = p % 32 ∧ rq.launch = l ∧ rq.sink = a ∧ rq.iv = v ∧ rq.left = ivReduce q.served [v] ∧
          exec (.request m) s = .next (serveReqs (enterInput { noted s m .request with reqs := s.reqs ++ [rq] } a.r a.e a.c a.n v false))))))

/-- R24 to R26, R29, R33, R426 to R428, R432, R435 to R437, R441: DUMPREAD sends the cleartext, the decrypted body, the
sediment record or a frozen ring to host memory, or frees an entry; RESYNC sends the summary; ATTEST writes a report that
begins with its nonce; UPDATE fills the idle slot, verifies it and drops it; the switch runs the verified image. That an opened update
or an abort makes the slot invalid, that an abort with no update open is OK, that a commit completes at its verification, FAILED where
that fails, and the statuses of a DUMPREAD are the model's (log 77); so is that a report may fail to be signed (log 9). -/
def Obligations.EvidenceMessages : Prop :=
  (∀ (s : State) (m : Msg) (ep : Option Nat), let part := pay m 87 83
    let len := pay m 191 160
    let sends := fun (i : Instr) (row : Row) (obj : List Byte) => taken s m row ep → dumpreadOk m = true →
      (∀ p, ep = some p → part = p) →
      let bs := (obj.drop (pay m 159 96)).take len
      answers s i m ep 0 bs.length (fun u => u.hbm = s.hbm ∧ sentTo s u m (pay m 255 192) bs)
    let sel := pay m 95 88
    let none' := fun (i : Instr) (row : Row) => taken s m row ep → dumpreadOk m = true → (∀ p, ep = some p → part = p) →
      answers s i m ep 5 0 (fun u => u.hbm = s.hbm)
    (∀ d, entryOf s part sel = some d → let pa := (areaOf (getP s part) 5).2.1 + d.off
      (linePoison s pa 1024 = none → sends (.dumpreadCleartext m) .dumpCleartext (memReadN s.hbm pa 1024)) ∧
      (linePoison s pa d.len = none → ep ≠ none → ∀ b, Config.decrypt part (memNat s.hbm (pa + 0x4C) 4) (memNat s.hbm (pa + 0x40) 8)
          (memReadN s.hbm pa 64) (memReadN s.hbm (pa + 0x400) (d.len - 0x400)) (BitVec.ofNat 128 (memNat s.hbm (pa + 0x50) 16)) = some b →
        memNat s.hbm (pa + 0x4C) 4 = (getP s part).keygen →
        sends (.dumpreadBody m) .dumpBody ((b ++ List.replicate (d.len - 0x400) 0).take (d.len - 0x400))) ∧
      (taken s m .dumpRelease ep → dumpreadOk m = true → (∀ p, ep = some p → part = p) → memWf s.hbm = true →
        answers s (.dumpreadRelease m) m ep 0 0 (fun u => (getP u part).dumps = (getP s part).dumps.erase d ∧
          memNat u.hbm ((areaOf (getP s part) 5).2.1 + 64 * sel) 64 = 0))) ∧
    (entryOf s part sel = none → none' (.dumpreadCleartext m) .dumpCleartext ∧ none' (.dumpreadRelease m) .dumpRelease ∧
      (ep ≠ none → none' (.dumpreadBody m) .dumpBody)) ∧
    sends (.dumpreadSediment m) .dumpSediment
      (blockBytes 0x40000 (s.sediment.map (fun e => (32 * (Bits.nat e 63 32 % 8192), 32, (sedimentView ep e).toNat)))) ∧
    (ep ≠ none → (∀ g, frozenRing s part sel = some g →
        sends (.dumpreadWakeRing m) .dumpRing (blockBytes 0x10000 (g.ring.map (fun e => (16 * e.1, 16, e.2.toNat))))) ∧
      (frozenRing s part sel = none → none' (.dumpreadWakeRing m) .dumpRing))) ∧
  (∀ (s : State) (m : Msg) (ep : Option Nat), let c := getC s m.conn
    let n := 0x1100 + 32 * (seenLaunches s ep).length
    let a := c.data.toNat + c.dnext
    m.payload.length = 32 →
    (taken s m .resync ep → pay m 159 0 = 0 →
      (pay m 191 160 < n → answers s (.resync m) m ep 5 n (fun u => u.hbm = s.hbm)) ∧
      (n ≤ pay m 191 160 → answers s (.resync m) m ep 0 n (fun u => u.hbm = s.hbm ∧
        sentTo s u m (pay m 255 192) (blockBytes n (summary s m.conn ep))))) ∧
    let report := blockBytes 0x400 (reportFields (noted s m .attest) (payNat m))
    let sig := Config.sign (Bits.bytesOf 64 (Config.sha512 report).toNat)
    (taken s m .attest ep → sig = none → answers s (.attest m) m ep 6 0 (fun u => u.hbm = s.hbm)) ∧
    (taken s m .attest ep → 2048 ≤ c.dlen → sig ≠ none → answers s (.attest m) m ep 0 a (fun u => u.hbm = s.hbm ∧
      (getC u m.conn).dnext = (c.dnext + 2048) % c.dlen ∧
      (memWf s.host = true → (entryAt c + 32 ≤ a ∨ a + 1536 ≤ entryAt c) → memReadN u.host a 32 = m.payload))) ∧
    (taken s m .attest ep → c.dlen < 2048 → answers s (.attest m) m ep 6 0 (fun u => u.hbm = s.hbm))) ∧
  (∀ (s : State) (m : Msg), let k := idleSlot s
    let off := pay m 255 192
    let data := m.payload.drop 32
    let slot := fun (u : State) => vGet Slot.reset u.fw k
    (taken s m .updatePiece none → 32 ≤ m.payload.length → pay m 159 152 = 0 → pay m 151 0 = 0 → pay m 191 160 ≤ 67108864 →
      off + data.length ≤ pay m 191 160 → s.pendingSwitch = false → s.update = none →
      answers s (.updatePiece m) m none 0 data.length (fun u => memReadN (slot u).image off data.length = data ∧
        (slot u).valid = false ∧ (slot u).len = pay m 191 160 ∧ ∃ x, u.update = some x ∧ x.total = pay m 191 160)) ∧
    (taken s m .updateCommit none → m.payload.length = 32 → pay m 151 0 = 0 → s.pendingSwitch = false →
      ∀ x, s.update = some x → (x.got.length ≠ x.total → answers s (.updateCommit m) m none 1 0 (fun u => u.update = s.update)) ∧
      (x.got.length = x.total → let ok := Config.fwVerify (memReadN (slot s).image 0 (slot s).len)
        answers s (.updateCommit m) m none (if ok then 0 else 6) 0 (fun u => u.update = none ∧ (slot u).valid = ok ∧
          u.pendingSwitch = ok ∧ u.running = s.running))) ∧
    (taken s m .updateAbort none → m.payload.length = 32 → pay m 151 0 = 0 → s.pendingSwitch = false →
      answers s (.updateAbort m) m none 0 0 (fun u => u.update = none ∧ (slot u).valid = false)) ∧
    (s.pendingSwitch = true → ∃ u e, exec .firmwareSwitch s = .next u ∧ u.running = !s.running ∧ u.pendingSwitch = false ∧
      u.sediment.getLast? = some e ∧ e.extractLsb' 24 8 = 0x89#8) ∧
    (s.pendingSwitch = false → exec .firmwareSwitch s = .next s))

/-- R22, R23, R27, R34, R381: PARTCTL creates a partition with cleared regions and a new dump key, changes its regions and
ranges, deletes one that has no live launch, resets one, and moves a region that holds no graph onto a spare. The statuses
that refuse an offline region or memory in use, and the wait of a spare remap (log 56), what a reset waits for and how it queues again
(log 71), and that payload fields which an operation does not use are not looked at (log 78) are the model's. -/
def Obligations.PartitionMessages : Prop :=
  ∀ (s : State) (m : Msg), let p := pay m 12 8
    let q := getP s p
    let rs := pcRanges m
    let new := pcRegions m
    let inside := fun (k : Nat) (x : Nat × Nat × Nat) => insideRanges rs x.2.1 (up64K (areaLen k x.2.2))
    let done := fun (i : Instr) (st : Nat) (f : State → Prop) => ∃ u, exec i s = .next u ∧ answered s u m none st 0 ∧ f u
    let cleared := fun (u : State) (r : Nat) => getR u r = clearedRegion (getR s r)
    (partTaken s m .partCreate 0 → (∀ x ∈ rs, rangeOk x = true) → (∀ x ∈ (List.range 8).zip (pcPools m), poolOk rs x.1 x.2 = true) →
      (∀ x ∈ (List.range 6).zip (pcAreas m), areaOk x.1 x.2 = true ∧ inside x.1 x.2 = true) →
      (∀ k < 6, payAt m (0x158 + 32 * k) 8 = 0) → q.present = false →
      (∀ r ∈ regionList new, takenBy s p r = false ∧ (getR s r).offline = false) → (∀ x ∈ rs, rangeTaken s p x = false) →
      (∀ d ∈ pcEndpoints m, endpointOf s d = none) →
      (createPart (noted s m .partCreate) m p = none → done (.partctlCreate m) 5 (fun u => u.regions = s.regions ∧ u.hbm = s.hbm)) ∧
      (∀ t, createPart (noted s m .partCreate) m p = some t → done (.partctlCreate m) 0 (fun u => (getP u p).present = true ∧
        (getP u p).regions = new ∧ (getP u p).ranges = rs ∧ (getP u p).endpoints = pcEndpoints m ∧
        (getP u p).keygen = q.keygen + 1 ∧ (∀ r ∈ regionList new, cleared u r) ∧
        ∀ r, r ∉ regionList new → getR u r = getR s r))) ∧
    (partTaken s m .partCreate 0 → (∀ x ∈ rs, rangeOk x = true) → (∀ x ∈ (List.range 8).zip (pcPools m), poolOk rs x.1 x.2 = true) →
      (∀ x ∈ (List.range 6).zip (pcAreas m), areaOk x.1 x.2 = true) → (∀ k < 6, payAt m (0x158 + 32 * k) 8 = 0) →
      q.present = true → done (.partctlCreate m) 3 (fun u => u.regions = s.regions ∧ u.hbm = s.hbm)) ∧
    (partTaken s m .partResize 1 → (∀ x ∈ rs, rangeOk x = true) → payAt m 0xC0 384 = 0 → q.present = true →
      let added := (regionList new).filter (fun r => !q.regions.getLsbD r)
      let gone := (regionList q.regions).filter (fun r => !new.getLsbD r)
      (∀ r ∈ added, takenBy s p r = false ∧ (getR s r).offline = false) → (∀ x ∈ rs, rangeTaken s p x = false) →
      ((∃ r ∈ gone, (getR s r).launch ≠ none) → done (.partctlResize m) 4 (fun u => u.regions = s.regions)) ∧
      ((∀ r ∈ gone, (getR s r).launch = none) → (∀ x ∈ pagesMapped s p, insideRanges rs x.1 x.2 = true) →
        (∀ x ∈ q.pools, insideRanges rs x.1 x.2.1 = true) → done (.partctlResize m) 0 (fun u => (getP u p).regions = new ∧
          (getP u p).ranges = rs ∧ (∀ r ∈ added ++ gone, cleared u r) ∧ ∀ r, r ∉ added ++ gone → getR u r = getR s r))) ∧
    (partTaken s m .partDelete 2 → q.present = true →
      (anyLive s p = true → done (.partctlDelete m) 4 (fun u => u.regions = s.regions)) ∧
      (anyLive s p = false → s.hostWaits = [] → done (.partctlDelete m) 0 (fun u => (getP u p).present = false ∧
        (getP u p).keygen = q.keygen ∧ (∀ r ∈ regionList q.regions, cleared u r) ∧
        (∀ r, r ∉ regionList q.regions → getR u r = getR s r) ∧ ∀ k ∈ u.tcache, k.2.1 ≠ p))) ∧
    (partTaken s m .partReset 3 → q.present = true →
      (resetReady s p = false → exec (.partctlReset m) s = .next (holdMsg (resetWaits s p) m)) ∧
      (resetReady s p = true → ∃ u, exec (.partctlReset m) s = .next u ∧ (getP u p).preempting = none ∧
        compOf m none 0 0 ∈ (getC u m.conn).done ∧ (∀ w ∈ u.hostWaits, w.part.toNat ≠ p) ∧
        ∀ l x, getL s l = some x → x.part = p → isLive s x = true → launchIs u l (fun y => y.phase = .waiting ∧ y.place = [] ∧
          y.window = 0 ∧ y.snap = none ∧ y.rollbacks = 0 ∧ y.record = x.record))) ∧
    (partTaken s m .partSpare 4 → q.present = true → let r := pay m 23 16
      q.regions.getLsbD r = true →
      (4 ≤ sparesUsed s r → done (.partctlSpareRemap m) 5 (fun u => u.regions = s.regions)) ∧
      (sparesUsed s r < 4 → (getR s r).launch = none → done (.partctlSpareRemap m) 0 (fun u =>
        u.spares = (r, sparesUsed s r) :: s.spares ∧ cleared u r)) ∧
      (sparesUsed s r < 4 → (getR s r).launch ≠ none →
        exec (.partctlSpareRemap m) s = .next (holdMsg (askAway s r) m)))

/-- R137, R370 to R376, R381, R397 to R403, R408, R414, R421 to R426: a graph that has faulted returns to its last cut with its
buffers as the journal has them, and re-runs; the ninth rollback ends it. The fault that recurs stops its region and traps.
A fatal end freezes the rings and allocates an image, which is then written, or is over at once. A hang freezes its region and traps;
one that is not cleared resets the partition; a send ring aborts a SENDM; a configuration error freezes a region until it has
reloaded. What a rollback keeps of a region (log 65), the order of a re-run's events (log 66), the poison of a restored row (log 67),
an image's place and unnamed bytes (log 68), the fields of region events (log 69), traps that cannot be taken (log 70), a reset's waits
(log 71) and what a reload puts right (log 72) are the model's. -/
def Obligations.RecoveryResults : Prop :=
  (∀ (s : State) (l : Nat) (x : Launch) (c : Snap), getL s l = some x → x.phase = .rolling → x.snap = some c →
    (∀ r ∈ x.place, (getR s r).faultNow = false) → x.place.Nodup →
    let first := (x.fault = some 0x63 ∨ x.fault = some 0x64) ∧ x.overflow = false
    (8 ≤ x.rollbacks → exec (.rollback l) s = .next (graphFatal (launchRec s l 8 2 ⟨0x0A, x.fault.getD 0, 0, 0⟩) (x.place.headD 0) 0x0A)) ∧
    (x.rollbacks < 8 → c.kind ≠ 0 → ∀ pa, slotPoison s x (restoreSlot s x) = some pa → exec (.rollback l) s =
      .next (graphFatal (launchRec s l 8 2 ⟨0x0B, 2, BitVec.ofNat 64 pa, 0⟩) (x.place.headD 0) 0x0B)) ∧
    (x.rollbacks < 8 → (c.kind = 0 ∨ slotPoison s x (restoreSlot s x) = none) → ∀ r off, journalError s (byLid s x) = some (r, off) →
      exec (.rollback l) s = .next (graphFatal (placeRec (bufErr s r 0x69) r 0x1FF 0 0 0 8 2 ⟨0x69, 3, BitVec.ofNat 64 off, 0⟩) r 0x69)) ∧
    (x.rollbacks < 8 → (c.kind = 0 ∨ slotPoison s x (restoreSlot s x) = none) → journalError s (byLid s x) = none → c.arms = [] →
      ∃ u, exec (.rollback l) s = .next u ∧
      u.hbm = ((hitsInOrder s x).foldl (rollNote c) s).hbm ∧ u.host = s.host ∧
      launchIs u l (fun y => y.rollbacks = x.rollbacks + 1 ∧ y.win = [] ∧ y.fills = [] ∧ y.hits = [] ∧ y.snap = x.snap ∧
        (first → y.phase = .running ∧ y.overflow = true) ∧ (¬ first → y.phase = .rerun ∧ y.fault = x.fault)) ∧
      ∀ r ∈ x.place, (getR u r).journal = [] ∧ (getR u r).hung = false ∧
        (∀ k, k ≠ 1 ∨ (∀ e ∈ (getR u r).elems, ∀ n ∈ e.2.ctxs, ∀ q ∈ n.2.classes, q.2.cls ≠ 3) →
          getBuf (getR u r) k = getBuf (unjournal (getR s r)) k) ∧
        ∀ j, (getR s r).journal = [j] → (getR s r).scratch = [] → (getR s r).bgate = 0 → j.space = 0 ∨ j.space = 2 →
          memWf (getBuf (getR s r) j.space).mem = true →
          memReadN (getBuf (getR u r) j.space).mem (64 * j.line) j.old.length = j.old)) ∧
  (∀ (s : State) (l r : Nat) (x : Launch) (h : Agent × Trap), getL s l = some x → x.phase = .rerun →
    x.hits.find? (fun h => agentR h.1 == r) = some h → (∀ k ∈ x.hits, (getH s r).lid ≤ (getH s (agentR k.1)).lid) → canTake (getH s r) →
    ∃ u d, exec (.rerunFaultStop l r) s = .next u ∧ launchIs u l (fun y => y.recurred = true ∧ y.hits = x.hits.erase h) ∧
      (getH u r).delivered = (getH s r).delivered ++ [d] ∧ d.cls = 1 ∧ d.code = h.2.cause ∧ d.arg = h.2.arg ∧
      d.tval = stopTval (nodeNum s r (agentAt h.1).2.1 (agentAt h.1).2.2.1 (agentAt h.1).2.2.2) (recElem (agentAt h.1).2.1)
        (agentAt h.1).2.2.1 (agentAt h.1).2.2.2 0) ∧
  (∀ (s : State) (r l code : Nat) (x : Launch), launchOf s r = some (l, x) → x.phase ≠ .dredging → let u := graphFatal s r code
    launchIs u l (fun y => y.phase = .dredging ∧ y.fault = some code) ∧ u.dredges = s.dredges ++ [l] ∧
    (∀ q, (getR s q).launch = some l → (getR u q).ringFrozen = true) ∧
    (rcDump x.record = 0 → u.hbm = s.hbm ∧ u.parts = s.parts) ∧
    (rcDump x.record ≠ 0 → dumpOf s l x = none →
      let free := (List.range 64).find? (fun k => k != 0 && !(getP s x.part).dumps.any (fun d => d.num == k))
      let fit := dumpFit (dumpGaps (areaOf (getP s x.part) 5).2.2 (getP s x.part).dumps) (rcDump x.record) x.place.length
      (∀ k off n, free = some k → fit = some (off, n) → ∃ d, dumpOf u l x = some d ∧ d.num = k ∧ d.off = off ∧ d.state = 1 ∧
        d.hold = (rcDump x.record == 3)) ∧
      (free = none ∨ fit = none → dumpOf u l x = none))) ∧
  (∀ (s : State) (l : Nat) (x : Launch), getL s l = some x → x.phase = .dredging → x.commits = [] →
    (dumpOf s l x = none → ∃ u, exec (.fatalEnd l) s = .next u ∧ overOf s u l) ∧
    (∀ d, dumpOf s l x = some d → s.dredges.head? = some l → ∃ u, exec (.dredgeComplete l) s = .next u ∧ overOf s u l ∧
      (d.state = 1 → (getP u x.part).dumpNext = (getP s x.part).dumpNext + 1 ∧
        ∃ e ∈ (getP u x.part).dumps, e.num = d.num ∧ e.launch = l ∧ e.off = d.off ∧ e.len = d.len ∧ e.state = 2))) ∧
  (∀ (s : State) (r : Nat), let g := getR s r
    let part := partOf s r
    let maps := areaOf (getP s part) 3
    (g.launch ≠ none → stillHeld s r g = false → g.helm.stillLimit.toNat ≤ g.still → ∃ u, exec (.stillwaterHang r) s = .next u ∧
      (getR u r).hung = true ∧ (getR u r).hungAt = s.now ∧ (g.hangs = 0 → canTake g.helm → g.helm.running = true →
        (getR u r).hangs = 1 ∧ ∃ d, (getH u r).delivered = g.helm.delivered ++ [d] ∧ d.cls = 1 ∧ d.code = 0x4A ∧
          (maps.2.2 ≠ 0 → d.tval = BitVec.ofNat 64 (maps.1 + 32768 * ((getP s part).mapNext % maps.2.2)))) ∧
      (g.hangs ≠ 0 → (getR u r).hangs = 2 ∧ (getH u r).delivered = g.helm.delivered)) ∧
    (g.launch ≠ none → ∀ k m, escDue s r = some (k, m) → (resetReady s part = false → exec (.hangesc r) s = .next (resetWaits s part)) ∧
      (resetReady s part = true → ∃ u, exec (.hangesc r) s = .next u ∧ ∀ l x, getL s l = some x → x.part = part → isLive s x = true →
        launchIs u l (fun y => y.phase = .waiting ∧ y.place = [] ∧ y.record = x.record))) ∧
    (∀ seen q, sendChain s r = (seen, some q) → let c := ringFrom s (seen.dropWhile (· != q))
      let low := c.headD r
      (getH s r).waitSince + 100000 ≤ s.now → seen.any (sendStays s) = false → (getH s low).delivered.any (fun d => d.rank == 1) = false →
      graphMoves s r = true → canTake (getH s low) → ∃ u map d, exec (.sendring r) s = .next u ∧
        ((getH s low).sendAbort = none → (getH u low).sendAbort = some (s.now, map)) ∧
        (∀ a, (getH s low).sendAbort = some a → s.now < a.1 + 20000000 → (getH u low).sendAbort = some a) ∧
        (getH u low).delivered = (getH s low).delivered ++ [d] ∧ d.cls = 1 ∧
        d.code = 0x4B ∧ d.arg = c.length ∧ d.tval = BitVec.ofNat 64 map)) ∧
  (∀ (s : State) (r : Nat) (off : W64), let g := getR s r
    (g.launch ≠ none → exec (.cfgStoreError r true off) s = .next (placeRec s r 0x1FF 0 0 0 7 0 ⟨0x4E, 0, off, 0⟩)) ∧
    (g.launch ≠ none → g.frozen = false → ∃ u, exec (.cfgStoreError r false off) s = .next u ∧ (getR u r).frozen = true ∧
      (getR u r).cfgErr = some off ∧ sameBytes s u ∧ elsewhere s u r) ∧
    (g.cfgErr = some off → let b := reloadBytes s r
      (sigOf b = g.cfgFrom.2.2 → b.length = g.cfgFrom.2.1 → ∃ u, exec (.cfgReloadComplete r) s = .next u ∧ (getR u r).frozen = false ∧
        (getR u r).cfgErr = none ∧ (getR u r).cfgErrTimes = g.cfgErrTimes ++ [s.now] ∧ (getR u r).bufs = g.bufs ∧
        (getR u r).helm = g.helm ∧ elsewhere s u r) ∧
      (¬ (sigOf b = g.cfgFrom.2.2 ∧ b.length = g.cfgFrom.2.1) → ∀ l x, launchOf s r = some (l, x) → x.phase ≠ .dredging →
        ∃ u, exec (.cfgReloadComplete r) s = .next u ∧ u.dredges = s.dredges ++ [l] ∧
          launchIs u l (fun y => y.phase = .dredging ∧ y.fault = some 0x4D))))

/-- R68 to R71, R81, R99, R103, R201: an output queue sends the first copy that has credit; a token that arrives joins the pair
that holds its CTX, is sent to its converter, or is a fault and not stored; a converted token takes its old place; a chain
hop adds its oldest matching partials and passes the sum on. That a converted token keeps its KIND (log 53), and that tokens on their
way arrive at a frozen region (log 80), are the model's readings. -/
def Obligations.FabricEvents : Prop :=
  (∀ (s : State) (y : At) (i j : Nat) (d : At) (t : Token), y.e ≠ 257 → y.n < 4 → regionSends s y.r = true →
    ebbSaved s y.r (savedAt s y.r y.e) = false → let p := nodePort (getN s y.r y.e y.c) y.n
    p.debt = none → (p.sent = true → 256 ≤ y.e) → pickCopy s y (copyList s y.r p.queue) [] = some (i, j, d, t) → ∃ u, exec (.tokenSend y) s = .next u ∧
      u.links = s.links ++ [⟨y, d, t⟩] ∧ (nodePort (getN u y.r y.e y.c) y.n).queue = takeCopy p.queue i j ∧
      (here u).regs = (here s).regs ∧ sameBytes s u ∧ elsewhere s u y.r) ∧
  (∀ (s : State) (y : At) (l : Link), linkOf s y = some l → graphMoves s l.dst.r = true →
    let t := l.tok
    let r := l.dst.r
    let e := l.dst.e
    let ch := l.dst.n
    let gone := s.links.erase l
    (e = 257 → isCutMarker t = false → ∃ u, exec (.tokenArrival y) s = .next u ∧ u.links = gone ∧
      (getR u r).mmq = (getR s r).mmq ++ [t] ∧ sameBytes s u ∧ elsewhere s u r) ∧
    (e ≤ 256 → ch < 4 → isCutMarker t = false →
      (pairOf s r e ch (hCtx t.hdr) = none →
        exec (.tokenArrival y) s = .next (serveReqs (elemFault s (.elem r e 0 0) ⟨0x43, ch, 0, t.hdr⟩))) ∧
      (∀ c, pairOf s r e ch (hCtx t.hdr) = some c → let p := nodePair (getN s r e c) ch
        isReturn p r l.src = false → reloadFor p t = none →
        (wrongFmt p t = true → p.conv = none →
          exec (.tokenArrival y) s = .next (serveReqs (elemFault s (.elem r e c 0) ⟨0x44, 0, BitVec.ofNat 64 (pairNo s r e c ch), t.hdr⟩))) ∧
        (wrongFmt p t = true → p.catching = false → p.marker = none → ∀ ce cc, p.conv = some (ce, cc) →
          ∃ u, exec (.tokenArrival y) s = .next u ∧ u.links = gone ++ [⟨⟨r, e, c, ch⟩, ⟨r, ce, 0, cc⟩, t⟩] ∧
            (nodePair (getN u r e c) ch).queue = p.queue ++ [⟨t, true, false, decide (e < 256)⟩]) ∧
        (wrongFmt p t = false → p.catching = false → p.marker = none → ∃ u, exec (.tokenArrival y) s = .next u ∧
          u.links = gone ∧ (nodePair (getN u r e c) ch).queue = p.queue ++ [⟨t, false, false, decide (e < 256)⟩])))) ∧
  (∀ (s : State) (y : At) (l : Link), let p := nodePair (getN s y.r y.e y.c) y.n
    y.n < 4 → graphRuns s y.r = true → s.links.find? (fun l => l.dst.r == y.r && l.dst.e == y.e && l.dst.n == y.n &&
      !isCutMarker l.tok && isReturn p y.r l.src && pairOf s y.r y.e y.n (hCtx l.tok.hdr) == some y.c) = some l →
    (wrongFmt p l.tok = true → exec (.conversionReturn y) s = .next (elemFault s (.elem y.r y.e y.c 0)
      ⟨0x44, 1, BitVec.ofNat 64 (pairNo s y.r y.e y.c y.n), l.tok.hdr⟩)) ∧
    (wrongFmt p l.tok = false → ∃ u, exec (.conversionReturn y) s = .next u ∧ u.links = s.links.erase l ∧
      (p.queue.any (·.away) = true → (nodePair (getN u y.r y.e y.c) y.n).queue = convPut (decide (y.e < 256)) p.queue l.tok) ∧
      (p.queue.any (·.away) = false → (nodePair (getN u y.r y.e y.c) y.n).behind = convPut (decide (y.e < 256)) p.behind l.tok) ∧ sameBytes s u ∧ elsewhere s u y.r)) ∧
  (∀ (s : State) (l chain hop : Nat) (x : Launch), getL s l = some x → launchMoves x = true →
    let ch := x.chains.getD chain 0
    let side := fun (b : Bool) => aheadOf [] (x.partials.filter (fun p => p.1 == chain && p.2.1 == hop && p.2.2.1 == b))
    let goesOn := fun (used : List Partial) (t : Token) => hop + 1 < chainHops ch ∨
      sendRoom s ⟨x.origin, 258, chain, hop⟩ (destAt s x.origin (chainOut ch)) t = true → ∃ u, exec (.chainHopAdd l chain hop) s = .next u ∧
      (chainHops ch ≤ hop + 1 → u.links = s.links ++ [⟨⟨x.origin, 258, chain, hop⟩, destAt s x.origin (chainOut ch), t⟩] ∧
        launchIs u l (fun y => y.partials = used.foldl List.erase x.partials)) ∧
      (hop + 1 < chainHops ch → hopGidx (chainHop ch (hop + 1)) = launchGidx x → u.links = s.links ∧ launchIs u l (fun y =>
        y.partials = used.foldl List.erase x.partials ++ [(chain, hop + 1, true, ⟨x.origin, 258, chain, hop⟩, t)]))
    hopUp s (chainHop ch hop) = true → hopGidx (chainHop ch hop) = launchGidx x →
    (hop = 0 → ∀ p ps, side false = p :: ps → goesOn [p] p.2.2.2.2) ∧
    (hop ≠ 0 → ∀ a as b, side true = a :: as → (side false).find? (chainPairs a) = some b →
      goesOn [a, b] (chainSum a.2.2.2.2 b.2.2.2.2)))

/-- R10, R24, R26, R27, R106, R107, R123, R142, R143, R210, R211, R336, R380, R402 to R404, R410 to R412, R420, R431, R439: what the
device does of itself: power and firmware, ports and chains, heat and the clock, retired regions, poisoned lines and spared
memory, a bank that wakes, the notice queue, a stop, a sample, a new wheel and the timer of a helm core. The corners of retirement,
clock and heat (log 72), which partition is told of an error of memory (log 74), that both images are verified at power-on (log 97), and
the rows and banks of memory (log 29) are the model's. -/
def Obligations.DeviceEvents : Prop :=
  (∀ (s : State) (r : Nat) (bank : Nat) (n : BitVec 5) (v : W64), let g := getR s r
    let h := getH s r
    let ar := areaOf (getP s n.toNat) 4
    let cons := memNat s.hbm (ar.2.1 + 8) 8
    (h.armed = true → h.timer = 0 → ∃ u, exec (.helmTimerExpiry r) s = .next u ∧ (getH u r).armed = false ∧
      (getH u r).status.getLsbD 9 = true ∧ (∀ k, k ≠ 9 → (getH u r).status.getLsbD k = h.status.getLsbD k) ∧
      (getH u r).node = h.node ∧ (getH u r).pc = h.pc ∧ sameBytes s u ∧ elsewhere s u r) ∧
    (¬ (h.armed = true ∧ h.timer = 0) → exec (.helmTimerExpiry r) s = .next s) ∧
    (bank < 48 → g.waking.getLsbD bank = true → ∀ ok, ∃ u, exec (.bankWakeEnd r bank ok) s = .next u ∧
      (getR u r).waking.getLsbD bank = false ∧ (∀ k, k ≠ bank → (getR u r).waking.getLsbD k = g.waking.getLsbD k) ∧
      (∀ k < 48, (getR u r).bgate.getLsbD k = (g.bgate.getLsbD k || (!ok && k == bank))) ∧ sameBytes s u ∧ elsewhere s u r) ∧
    (g.rwoff = false → 4096 ≤ g.sinceWheel → ∃ u, exec (.wheelRewrite r) s = .next u ∧
      (getR u r).nextWheel = some (wheelFor g g.weights) ∧ (getR u r).weights = [] ∧ (getR u r).sinceWheel = 0 ∧
      (getR u r).wheel = g.wheel ∧ sameBytes s u ∧ elsewhere s u r) ∧
    (Bits.nat g.obsctl 39 32 ≠ 0 → 2 ^ Bits.nat g.obsctl 39 32 ≤ g.sinceSample → ∃ u, exec (.sample r) s = .next u ∧
      (getR u r).sampleElem = (g.sampleElem + 1) % 256 ∧ (getR u r).sinceSample = 0 ∧ sameBytes s u ∧ elsewhere s u r ∧
      (g.ringFrozen = false → (getR u r).ringNext = (g.ringNext + 1) % 4096 ∧
        (aGet 0 (getR u r).ring g.ringNext).extractLsb' 124 4 = 6#4)) ∧
    (ar.2.2 ≠ 0 → v.toNat ≠ cons → v.toNat < cons ∨ memNat s.hbm ar.2.1 8 < v.toNat → exec (.noticeConsWrite n v) s =
      .next (partRec s n.toNat 0 0 3 (ar.2.1 / 2 ^ 37) 0 (mkTrap 0x6D 0 v.toNat))) ∧
    (ar.2.2 ≠ 0 → cons ≤ v.toNat → v.toNat ≤ memNat s.hbm ar.2.1 8 → memWf s.hbm = true → ∃ u,
      exec (.noticeConsWrite n v) s = .next u ∧ memNat u.hbm (ar.2.1 + 8) 8 = v.toNat ∧ u.regions = s.regions ∧
      (∀ y, (y < ar.2.1 + 8 ∨ ar.2.1 + 16 ≤ y) → memRead u.hbm y = memRead s.hbm y) ∧
      (v.toNat ≠ cons → (getP u n.toNat).nqFull = false))) ∧
  (∀ (s : State) (r : Nat) (src : BitVec 3) (arg : BitVec 13) (e c k : Nat), (src.toNat, arg.toNat, e, c, k) ∈ (getR s r).stopReq →
    cycleFresh (getR s r) = true → (e < 256 → (getN s r e c).flight = none ∧ (getN s r e c).held = none) → ∃ u, exec (.regionStop r src arg e c k) s = .next u ∧ (getR u r).obsctl.getLsbD 1 = true ∧
      (getR u r).stopReq = (getR s r).stopReq.erase (src.toNat, arg.toNat, e, c, k) ∧
      (e ≠ 256 → canTake (getH s r) → ∃ d, (getH u r).delivered = (getH s r).delivered ++ [d] ∧ d.cls = 0 ∧ d.code = 0x02 ∧
        d.arg = arg.toNat ∧ d.tval = stopTval (nodeNum s r e c k) e c k src.toNat)) ∧
  (∀ (s : State) (k : BitVec 2) (pa : BitVec 40) (n : BitVec 3) (pc : BitVec 7), populated pa.toNat = true →
    let hit := fun (l : Nat) => if k = 0 then l == pa.toNat / 64 else l / 64 == pa.toNat / 4096
    (k ≠ 3 → ∃ u, exec (.hbmue k pa) s = .next u ∧ u.regions = s.regions ∧
      ∀ l, setHas u.poison l = (setHas s.poison l || hit l)) ∧
    exec (.hbmScrub pa true) s = .next { s with hbmErrs := s.hbmErrs ++ [⟨pa.toNat, true, s.now, false⟩] } ∧
    exec (.hbmScrub pa false) s = exec (.hbmue 0 pa) s ∧
    (rowDue s (rowAt pa.toNat) = true → rowLeft s (rowAt pa.toNat) = true → ∃ u, exec (.rowspare pa) s = .next u ∧
      u.rowspares = s.rowspares ++ [rowAt pa.toNat] ∧ u.poison = s.poison ∧ rowDue u (rowAt pa.toNat) = false) ∧
    (rowDue s (rowAt pa.toNat) = false → exec (.rowspare pa) s = .next s) ∧ (pcDue s n.toNat pc.toNat = false → exec (.pcspare n pc) s = .next s) ∧
    (pcDue s n.toNat pc.toNat = true → (∀ x ∈ s.pcs, ¬ (x.1 = n.toNat ∧ x.2.1 = pc.toNat ∧ x.2.2 = true)) → ∃ u, exec (.pcspare n pc) s = .next u ∧
      u.pcs = s.pcs ++ [(n.toNat, pc.toNat, decide (2 ≤ (s.pcs.filter (fun x => x.1 == n.toNat && !x.2.2)).length))])) ∧
  (∀ (s : State), (s.booted = true → exec .powerOn s = .next s) ∧
    (s.booted = false → ∃ u, exec .powerOn s = .next u ∧ u.booted = true ∧
      u.running = (!Config.fwVerify (Config.romImage false) && Config.fwVerify (Config.romImage true)) ∧
      (vGet Slot.reset u.fw 0).valid = Config.fwVerify (Config.romImage false) ∧
      (vGet Slot.reset u.fw 1).valid = Config.fwVerify (Config.romImage true) ∧ u.hbm = s.hbm ∧ u.regions = s.regions) ∧
    (∃ u, exec .powerwarn s = .next u ∧ u.nvNext = !s.nvNext ∧ let c := fun (t : State) k => vGet NvCopy.reset t.nvram k
      (c u (if s.nvNext then 1 else 0)).entries = u.sediment ∧ copyOk (c u (if s.nvNext then 1 else 0)) = true ∧
      c u (if s.nvNext then 0 else 1) = c s (if s.nvNext then 0 else 1))) ∧
  (∀ (s : State) (k : BitVec 4) (l : Nat) (x : Launch), let p := aGet EthPort.reset s.ports k.toNat
    let up := fun (u : State) => (aGet EthPort.reset u.ports k.toNat).up
    (p.up = true → ∃ u, exec (.linkdown k) s = .next u ∧ up u = false ∧ (aGet EthPort.reset u.ports k.toNat).downSince = s.now ∧
      (crossing s k.toNat = [l] → getL s l = some x → launchMoves x = true →
        launchIs u l (fun y => y.phase = .rolling ∧ y.fault = some 0x50))) ∧
    (p.up = false → exec (.linkdown k) s = .next s ∧ (p.disabled = true → exec (.linkup k) s = .next s) ∧
      (p.disabled = false → ∃ u, exec (.linkup k) s = .next u ∧ up u = true ∧ (getL s l = some x →
        getL u l = some { x with chainSince := aDel x.chainSince k.toNat }))) ∧
    (∀ t0, getL s l = some x → p.up = false → aFind x.chainSince k.toNat = some t0 → t0 + 100000000 ≤ s.now → isPlaced x = true → crosses x k.toNat = true →
      x.phase ≠ .dredging → exec (.chaindownTimeout k l) s =
        .next (graphFatal (launchRec s l 8 2 ⟨0x50, 1, BitVec.ofNat 64 k.toNat, 0⟩) (x.place.headD 0) 0x50))) ∧
  (∀ (s : State) (r : Nat) (t : Byte), let g := getR s r
    let own := g.govCycles.1
    let bout := g.govCycles.2.1
    let fed := g.govCycles.2.2.1
    let wopd := g.govCycles.2.2.2
    let gov := Instr.governorDecision r bout wopd t
    let starved := fed ≠ 0 ∧ fed ≤ 4 * wopd
    let ahead := own ≠ 0 ∧ own ≤ 2 * bout ∧ (fed = 0 ∨ 10 * wopd < fed)
    let stays := fun (u : State) => (getR u r).temperature = t.toNat ∧ (getR u r).govStart = s.now ∧ sameBytes s u ∧ elsewhere s u r
    (s.now < g.govStart + 50000 → exec gov s = .next s) ∧
    (∀ b w, b ≠ bout ∨ w ≠ wopd → exec (.governorDecision r b w t) s = .next s) ∧
    (g.govStart + 50000 ≤ s.now → t.toNat < 90 → g.gfix = false → isPrec g = false →
      (starved → ∃ u, exec gov s = .next u ∧ stays u ∧ (getR u r).clock.toNat = min 6 (g.clock.toNat + 1)) ∧
      (¬ starved → ahead → ∃ u, exec gov s = .next u ∧ stays u ∧ (getR u r).clock.toNat = g.clock.toNat - 1) ∧
      (¬ starved → ¬ ahead → ∃ u, exec gov s = .next u ∧ stays u ∧ (getR u r).clock = g.clock)) ∧
    (g.govStart + 50000 ≤ s.now → 105 ≤ t.toNat → ∀ l x, launchOf s r = some (l, x) → x.phase ≠ .dredging → ∃ u, exec gov s = .next u ∧
      u.dredges = s.dredges ++ [l] ∧ launchIs u l (fun y => y.phase = .dredging ∧ y.fault = some 0x0D)) ∧
    (∀ l x w, getL s l = some x → x.repost = some w → let repost := Instr.thermalRepost l
      (s.now < w → exec repost s = .next s) ∧
      (w ≤ s.now → (∀ q ∈ x.place, (getR s q).temperature < 95) → ∃ u, exec repost s = .next u ∧ launchIs u l (fun y => y.repost = none)) ∧
      (w ≤ s.now → (∃ q ∈ x.place, 95 ≤ (getR s q).temperature) → coolPlace s l x = true → cuttable x = true →
        ∃ u, exec repost s = .next u ∧ launchIs u l (fun y => y.thermal = true ∧ y.wantEbb = true ∧ y.repost = none)) ∧
      (w ≤ s.now → (∃ q ∈ x.place, 95 ≤ (getR s q).temperature) → coolPlace s l x = false →
        ∃ u, exec repost s = .next u ∧ launchIs u l (fun y => y.repost = some (s.now + 10000000)))) ∧
    (retireDue g = false → exec (.retire r) s = .next s) ∧
    (retireDue g = true → g.offline = false → launchOf s r = none →
      (sparesUsed s r < 4 → ∃ u, exec (.retire r) s = .next u ∧ u.spares = (r, sparesUsed s r) :: s.spares ∧
        getR u r = clearedRegion g) ∧
      (4 ≤ sparesUsed s r → ∃ u, exec (.retire r) s = .next u ∧ u.spares = s.spares ∧ (getR u r).offline = true)))

/-- R67, R78, R101, R188, R209, R325 to R327: at reset every register of a context and every system register of a helm core
holds its reset value, queues and slots are empty, the observation registers are 0, the wheel names no context, and
every memory is in canonical form with nothing listed. The values of hs.epc, hs.tval, hs.trapvec, OBSBK, MXS, the bank
gate mask and the wheel are the model's choice (log 8), as is memory with nothing listed (log 6). -/
def Obligations.ResetState : Prop :=
  let s := State.reset
  (∀ r e c k, let n := getN s r e c
    getV n.regs k = 0 ∧ getS n.regs k = 0 ∧ n.regs.p = 0 ∧ n.regs.fp = 0 ∧ n.rr = 0 ∧ slotWord n k = 0xFFFFFFFF ∧
    (nodePair n k).queue = [] ∧ (nodePort n k).queue = []) ∧
  (∀ r, let h := getH s r
    h.status = 0 ∧ h.cause = 0 ∧ h.epc = 0 ∧ h.tval = 0 ∧ h.trapvec = 0 ∧ h.stillLimit = 0x01000000 ∧ h.armed = false ∧
    h.recv = [] ∧ h.node.regs.fp = 0) ∧
  (∀ r k, let g := getR s r
    g.obsctl = 0 ∧ vGet 0 g.obsbk k = 0 ∧ g.bgate = 0 ∧ g.wheel = 0xFFFFFFFFFFFFFFFF ∧ vGet 0 g.mx k = 0 ∧
    (vGet Buf.reset g.bufs k).full = []) ∧
  s.now = 0 ∧ s.hbm = [] ∧ s.parts = [] ∧ s.launches = [] ∧ s.conns = [] ∧ memoryKept s

/-- Every step keeps every byte memory in canonical form, so that equal memories are equal data: it is the model's own
invariant (log 6). -/
def Obligations.StepKeepsMemory : Prop :=
  ∀ s t : State, memoryKept s → StepsTo s t → memoryKept t

/-- R220 to R230: encoding and decoding are each other's inverse: the word of every well-formed instruction decodes to it,
with every operand, and a word that decodes is the word of what it decodes to, which is well-formed. -/
def Obligations.DecodeEncode : Prop :=
  (∀ (i : Instr) (w : W32), i.wf = true → encode i = some w → decodeWord w = .ok i ∧ decodeTableWord 32 w.toNat = some i) ∧
  (∀ (i : Instr) (w : W32), decodeWord w = .ok i → encode i = some w ∧ i.wf = true)

/-- R79, R85, R315, R319, R383, R388: a turn of a running helm core tries again what the core's engine holds (R377) and carries out the instruction that the word at its PC decodes
to, once the cycle has been counted; a trap that is due, a bad PC and a word without an instruction come to their own
events. An element's turn carries out the word of the slot that it chooses, with that slot's place as the agent. A NOP
completes, and an instruction whose trigger does not hold is passed over. That turns stand in a list and what each is (log 2), that an
engine's requests are tried again first (log 32), and what a cycle is (log 38) are the model's. -/
def Obligations.StepRunsDecoded : Prop :=
  (∀ (s : State) (r : Nat) (ts : List Turn), s.todo = .helm r :: ts → helmRuns s r = true →
    let m := retryReqs { s with todo := ts, agent := .helm r } r
    let h := getH m r
    let u := helmReady m r
    ((∀ o ∈ (getH s r).outstanding, o.queued = false) → (∀ a ∈ s.arms, a.who ≠ .helm r) → m = { s with todo := ts, agent := .helm r }) ∧
    (helmRuns m r = false → step s = .next m) ∧ (helmRuns m r = true →
    (∀ i, trapDue h = false → 512 ≤ h.pc.toNat → h.pc.toNat < h.textEnd → h.pc.toNat % 4 = 0 →
      decodeWord (BitVec.ofNat 32 (memNat h.text h.pc.toNat 4)) = .ok i → step s = exec i u) ∧
    (∀ f, trapDue h = false → pcValid h = true → decodeWord (fetchWord h) = .error f →
      step s = exec (.undefinedWord (fetchWord h)) u) ∧
    (trapDue h = false → (h.pc.toNat < 512 ∨ h.textEnd ≤ h.pc.toNat ∨ h.pc.toNat % 4 ≠ 0) → step s = exec .fetchFault u) ∧
    (trapDue h = true → step s = exec (.trapEntry r) u) ∧
    u.agent = .helm r ∧ (getH u r).node = h.node ∧ (getH u r).pc = h.pc ∧ (getH u r).status = h.status ∧
    (getH u r).cycle = (h.cycle + 1) % 2 ^ 28 ∧ (getH u r).timer = (if h.armed then h.timer - 1 else h.timer) ∧
    sameBytes m u ∧ (∀ q, q ≠ r → getR u q = getR m q))) ∧
  (∀ (s : State) (r : Nat) (ts : List Turn), s.todo = .helm r :: ts → helmRuns s r = false → step s = .next { s with todo := ts }) ∧
  (∀ (s : State) (r e k : Nat) (ts : List Turn), s.todo = .elem r e :: ts → let m := { s with todo := ts }
    let g := getR s r
    let c := wheelCtx g
    let n := getN s r e c
    c < 12 → e < 256 → regionFires s r = true → ebbSaved s r (getE s r e).saved = false → n.held = none →
    (getE s r e).fired = false → isPrec g = false → chooseSlot (getE s r e) n = some k →
      (elemOrdered g (slotWord n k) = true → g.ordNow ≤ e) → ∀ i, decodeWord (slotWord n k) = .ok i →
      step s = exec i (elemReady m r e c k) ∧ (elemReady m r e c k).agent = .elem r e c k ∧
      getN (elemReady m r e c k) r e c = n ∧ (getE (elemReady m r e c k) r e).fired = true) ∧
  (∀ (s : State) (i : Instr) (ts : List Turn), s.todo = .event i :: ts → step s = exec i { s with todo := ts }) ∧
  (∀ (s : State) (i : Instr) (w : W32) (r : Nat), decodeWord w = .ok i → s.agent = .helm r → staticFault true w = none →
    (trigHere s (fieldT w).toNat).2 = false → ∃ u, exec i s = .next u ∧ (getH u r).pc = (getH s r).pc + 4 ∧
      (getH u r).node = (getH s r).node ∧ sysRegs (getH u r) = sysRegs (getH s r) ∧ sameBytes s u ∧ ∀ q, q ≠ r → getR u q = getR s q) ∧
  (∀ (s : State) (t : BitVec 6), Issues (.nop t) s → exec (.nop t) s = .next (after (.nop t) s s))

/-- R220 to R229: words written out field by field from the opcode tables decode to the instructions they stand for; a
reserved field that is not 0, or an opcode without a row, decodes to none. -/
def Obligations.DecodingRight : Prop :=
  decodeWord (fieldsWord 63 0x00 28 28 28 0) = .ok (.nop 63) ∧
  decodeWord (fieldsWord 1 0x04 8 9 10 6) = .ok (.add 1 8 9 10 6) ∧
  decodeWord (fieldsWord 0 0x02 9 31 31 7) = .ok (.movi 0 9 0x1FFF) ∧
  decodeWord (fieldsWord 5 0x30 0 1 2 2) = .ok (.fadd 5 0 1 2 2) ∧
  decodeWord (fieldsWord 0 0x50 3 4 2 0) = .ok (.cvt 0 3 4 2 0) ∧
  decodeWord (fieldsWord 0 0x70 28 0 31 7) = .ok (.pset 0 0xFF) ∧
  decodeWord (fieldsWord 0 0x83 8 20 9 0) = .ok (.hdre 0 8 20 9) ∧
  (∃ f, decodeWord (fieldsWord 0 0x83 8 20 9 1) = .error f) ∧ (∃ f, decodeWord (fieldsWord 0 0x2F 8 9 10 0) = .error f) ∧
  decodeTableWord 32 (fieldsWord 63 0x00 28 28 28 0).toNat = some (.nop 63) ∧ decodeTableWord 16 0 = none

/-- R241, R253 to R256, R258, scalar form, where a scalar stands for every lane and lane 0 is kept (the model's reading, log 11):
the scaled formats, BCAST, PERM, PACK, UNPKL, UNPKH, the reductions, FILTER, MSKG and MSKS give a scalar D their result
and complete; or the trap of R191 is taken. SCAN has no scalar form. -/
def Obligations.LaneScalarResults : Prop :=
  ∀ (t : BitVec 6) (d a b : BitVec 5) (y : BitVec 3) (s : State),
    let n := here s
    let rm := Bits.nat n.regs.fp 7 6
    let v := fun c => (srcVal n c).setWidth 32
    let wide := fun (x : W32) => if y = 0 then x.signExtend 64 else x.setWidth 64
    let gives := fun (i : Instr) (x : W64) (fl : Fl) => Issues i s →
      (fl &&& n.regs.fp.extractLsb' 8 5 = 0 → exec i s = .next (retire i s (putScalar (raise n fl) d.toNat x))) ∧
      (fl &&& n.regs.fp.extractLsb' 8 5 ≠ 0 → exec i s = .next (faultHere s (fpTrap n fl)))
    (isHelm s = true → ∀ row ∈ convertRows.drop 2, isScalarShape [d.toNat, a.toNat, b.toNat] = true →
      let r := row.fn y.toNat 0 rm (v d.toNat) (v a.toNat) (v b.toNat)
      gives (row.term t d a b y) (wide r.1) r.2) ∧
    (∀ (k : Nat) (row : VecRow), k < 8 → vecRows[k]? = some row → (row.long = true → isHelm s = true) → y ≠ 6 →
      isScalarShape [d.toNat, a.toNat, codeB row.hasB b] = true →
      let m : BitVec 16 := if 5 ≤ k then 1 else 0xFFFF
      let r := row.fn y.toNat rm (srcLanes n a.toNat) (srcLanes n (codeB row.hasB b)) m m
      gives (row.term t d a b y) (wide (r.1.get 0)) r.2.2) ∧
    (classOf d.toNat = 2 → ¬ Issues (.scan t d a y) s) ∧
    (y = 6 → isScalarShape [d.toNat, a.toNat, b.toNat] = true →
      gives (.bcast t d a b y) (srcVal n a.toNat) 0 ∧ gives (.perm t d a b y) (srcVal n a.toNat) 0) ∧
    (isScalarShape [d.toNat, a.toNat] = true → gives (.filter t d a y) (wide (v a.toNat)) 0 ∧ gives (.mskg t d a y) 0xFFFF 0) ∧
    (isScalarShape [d.toNat, a.toNat, b.toNat] = true →
      gives (.msks t d a b y) (if (srcVal n b.toNat).getLsbD 0 then wide (v a.toNat) else srcVal n d.toNat) 0)
end

