-- ==== Sys2Proof/Laws/Decode.lean ====
section
/-!
SUPPORT. The fields of a packed word (R220).
-/

namespace Sys2Proof

variable (t : BitVec 6) (o : BitVec 8) (d a b : BitVec 5) (y : BitVec 3)

@[simp] theorem fieldT_pack : fieldT (pack t o d a b y) = t := by
  simp only [fieldT, pack]; ext i h; simp; grind
@[simp] theorem fieldO_pack : fieldO (pack t o d a b y) = o := by
  simp only [fieldO, pack]; ext i h; simp; grind
@[simp] theorem fieldD_pack : fieldD (pack t o d a b y) = d := by
  simp only [fieldD, pack]; ext i h; simp; grind
@[simp] theorem fieldA_pack : fieldA (pack t o d a b y) = a := by
  simp only [fieldA, pack]; ext i h; simp; grind
@[simp] theorem fieldB_pack : fieldB (pack t o d a b y) = b := by
  simp only [fieldB, pack]; ext i h; simp; grind
@[simp] theorem fieldY_pack : fieldY (pack t o d a b y) = y := by
  simp only [fieldY, pack]; ext i h; simp; grind

/-- The six fields make the word again. -/
theorem pack_fields (w : W32) : pack (fieldT w) (fieldO w) (fieldD w) (fieldA w) (fieldB w) (fieldY w) = w := by
  simp only [pack, fieldT, fieldO, fieldD, fieldA, fieldB, fieldY]; ext i h
  all_goals first | grind | (simp; done) | (simp; grind)

/-- Decoding a packed word. -/
theorem decodeWord_pack : decodeWord (pack t o d a b y) =
    (match decodeFields t o d a b y with | some i => .ok i | none => .error (.noInstruction (pack t o d a b y))) := by
  simp only [decodeWord, fieldT_pack, fieldO_pack, fieldD_pack, fieldA_pack, fieldB_pack, fieldY_pack] <;>
    cases decodeFields t o d a b y <;> rfl

@[simp] theorem join8 (i : BitVec 8) : i.extractLsb' 3 5 ++ i.extractLsb' 0 3 = i := by
  ext j h; simp; grind
@[simp] theorem join13 (i : BitVec 13) : i.extractLsb' 8 5 ++ i.extractLsb' 3 5 ++ i.extractLsb' 0 3 = i := by
  ext j h; simp; grind
@[simp] theorem join18 (i : BitVec 18) :
    i.extractLsb' 13 5 ++ i.extractLsb' 8 5 ++ i.extractLsb' 3 5 ++ i.extractLsb' 0 3 = i := by
  ext j h; simp; grind
@[simp] theorem high2 (k : BitVec 2) (c : BitVec 3) : (k ++ c).extractLsb' 3 2 = k := by ext j h; simp; grind
@[simp] theorem low1 (c : BitVec 2) : (c ++ 0#1).extractLsb' 0 1 = 0#1 := by ext j h; simp; grind
@[simp] theorem high21 (c : BitVec 2) (k : BitVec 1) : (c ++ k).extractLsb' 1 2 = c := by ext j h; simp; grind
@[simp] theorem low3 (k : BitVec 2) (c : BitVec 3) : (k ++ c).extractLsb' 0 3 = c := by ext j h; simp; grind

end Sys2Proof
end

