-- ==== Sys2Proof/Laws/Mem.lean ====
section
/-!
SUPPORT. The laws of byte memories, numbered items and register files: a read after a write, what a write leaves alone,
and that every memory operation keeps the canonical form.
-/

namespace Sys2Proof.Machine

/-! ## Canonical form -/

theorem memWf_cons {k : Nat} {b : Byte} {m : Mem} :
    memWf ((k, b) :: m) = true ↔ b ≠ memDefault ∧ memAbove k m = true ∧ memWf m = true := by
  simp [memWf, and_assoc]

theorem memAbove_mono {a k : Nat} {m : Mem} (h : memAbove k m = true) (hk : a ≤ k) : memAbove a m = true := by
  cases m with
  | nil => rfl
  | cons x m => simp only [memAbove, decide_eq_true_eq] at h ⊢; omega

theorem memAbove_write {a k : Nat} {b : Byte} {m : Mem} (w : memWf m = true) (h : memAbove a m = true) (hk : a < k) :
    memAbove a (memWrite m k b) = true := by
  cases m with
  | nil => unfold memWrite; split <;> simp [memAbove, hk]
  | cons x m =>
    obtain ⟨j, c⟩ := x
    have hj : a < j := by simpa [memAbove] using h
    unfold memWrite
    split
    · split
      · exact memAbove_mono (memWf_cons.1 w).2.1 (Nat.le_of_lt hj)
      · simpa [memAbove] using hk
    · split
      · split <;> simp [memAbove, hj, hk]
      · simp [memAbove, hj]

/-- Writing a byte keeps the canonical form. -/
theorem memWf_write {m : Mem} (a : Nat) (b : Byte) (w : memWf m = true) : memWf (memWrite m a b) = true := by
  induction m with
  | nil => unfold memWrite; split <;> simp_all [memWf, memAbove]
  | cons x m ih =>
    obtain ⟨k, c⟩ := x
    have ⟨hc, ha, hm⟩ := memWf_cons.1 w
    unfold memWrite
    split
    · subst_vars; split
      · exact hm
      · exact memWf_cons.2 ⟨‹_›, ha, hm⟩
    · split
      · split
        · exact w
        · exact memWf_cons.2 ⟨‹_›, by simpa [memAbove] using ‹a < k›, w⟩
      · exact memWf_cons.2 ⟨hc, memAbove_write hm ha (by omega), ih hm⟩

/-- Writing bytes keeps the canonical form. -/
theorem memWf_writeN (bs : List Byte) : ∀ {m : Mem} (a : Nat), memWf m = true → memWf (memWriteN m a bs) = true := by
  induction bs with
  | nil => intro m a w; exact w
  | cons b bs ih => intro m a w; exact ih (a + 1) (memWf_write a b w)

/-- Writing a number keeps the canonical form. -/
theorem memWf_putNat {m : Mem} (a n v : Nat) (w : memWf m = true) : memWf (memPutNat m a n v) = true :=
  memWf_writeN _ a w

/-- Applying an overlay keeps the canonical form. -/
theorem memWf_ovApply (o : Mem) : ∀ {m : Mem}, memWf m = true → memWf (ovApply m o) = true := by
  induction o with
  | nil => intro m w; exact w
  | cons x o ih => intro m w; exact ih (memWf_write x.1 x.2 w)

/-! ## Reads after writes -/

theorem memRead_above {a : Nat} {m : Mem} (w : memWf m = true) (h : memAbove a m = true) :
    memRead m a = memDefault := by
  cases m with
  | nil => rfl
  | cons x m =>
    obtain ⟨k, c⟩ := x
    have : a < k := by simpa [memAbove] using h
    simp [memRead, this, Nat.ne_of_lt this]

/-- A byte reads as what was written last. -/
theorem memRead_write_same {m : Mem} (a : Nat) (b : Byte) (w : memWf m = true) : memRead (memWrite m a b) a = b := by
  induction m with
  | nil => unfold memWrite; split <;> simp_all [memRead]
  | cons x m ih =>
    obtain ⟨k, c⟩ := x
    have ⟨hc, ha, hm⟩ := memWf_cons.1 w
    unfold memWrite
    split
    · subst_vars; split
      · rw [memRead_above hm ha]; exact Eq.symm ‹_›
      · simp [memRead]
    · split
      · split
        · simp_all [memRead]
        · simp [memRead]
      · simp only [memRead, ih hm]; rw [if_neg ‹¬a = k›, if_neg ‹¬a < k›]

/-- A write leaves every other byte alone. -/
theorem memRead_write_other {m : Mem} {a x : Nat} (b : Byte) (w : memWf m = true) (h : x ≠ a) :
    memRead (memWrite m a b) x = memRead m x := by
  induction m with
  | nil => unfold memWrite; split <;> simp_all [memRead]
  | cons y m ih =>
    obtain ⟨k, c⟩ := y
    have ⟨hc, ha, hm⟩ := memWf_cons.1 w
    unfold memWrite
    split
    · subst_vars; split
      · simp only [memRead, h, if_false]
        split
        · exact memRead_above hm (memAbove_mono ha (Nat.le_of_lt ‹_›))
        · rfl
      · simp [memRead, h]
    · split
      · split
        · rfl
        · simp only [memRead, h, if_false]
          split
          · rw [if_neg (by omega : ¬x = k), if_pos (by omega : x < k)]
          · rfl
      · simp only [memRead, ih hm]

/-- Bytes written from `a` up leave every byte outside them alone. -/
theorem memRead_writeN_other (bs : List Byte) : ∀ {m : Mem} {a x : Nat}, memWf m = true →
    (x < a ∨ a + bs.length ≤ x) → memRead (memWriteN m a bs) x = memRead m x := by
  induction bs with
  | nil => intro m a x _ _; rfl
  | cons b bs ih =>
    intro m a x w h
    simp only [List.length_cons] at h
    rw [memWriteN, ih (memWf_write a b w) (by omega), memRead_write_other b w (by omega)]

/-- Bytes written from `a` up read as they were written. -/
theorem memRead_writeN_in (bs : List Byte) : ∀ {m : Mem} {a : Nat}, memWf m = true →
    ∀ k (h : k < bs.length), memRead (memWriteN m a bs) (a + k) = bs[k] := by
  induction bs with
  | nil => intro m a _ k h; exact absurd h (by simp)
  | cons b bs ih =>
    intro m a w k h
    cases k with
    | zero =>
      rw [memWriteN, memRead_writeN_other bs (memWf_write a b w) (by omega)]
      simpa using memRead_write_same a b w
    | succ k =>
      have := ih (a := a + 1) (memWf_write a b w) k (by simpa using h)
      simpa [memWriteN, Nat.add_assoc, Nat.add_comm 1 k] using this

/-- Bytes written read back. -/
theorem memReadN_writeN (bs : List Byte) : ∀ {m : Mem} {a : Nat}, memWf m = true →
    memReadN (memWriteN m a bs) a bs.length = bs := by
  induction bs with
  | nil => intro m a _; rfl
  | cons b bs ih =>
    intro m a w
    simp only [List.length_cons, memReadN, memWriteN]
    rw [ih (memWf_write a b w), memRead_writeN_other bs (memWf_write a b w) (by omega), memRead_write_same a b w]

/-- The number of a list of bytes made from a number is the number modulo their range. -/
theorem ofBytes_bytesOf (n : Nat) : ∀ v, Bits.ofBytes (Bits.bytesOf n v) = v % 256 ^ n := by
  induction n with
  | zero => intro v; simp [Bits.bytesOf, Bits.ofBytes, Nat.mod_one]
  | succ n ih =>
    intro v
    simp only [Bits.bytesOf, Bits.ofBytes, ih, BitVec.toNat_ofNat]
    rw [show (2 : Nat) ^ 8 = 256 from rfl, Nat.pow_succ, Nat.mul_comm (256 ^ n) 256, Nat.mod_mul]

theorem bytesOf_length (n : Nat) : ∀ v, (Bits.bytesOf n v).length = n := by
  induction n with
  | zero => intro v; rfl
  | succ n ih => intro v; simp [Bits.bytesOf, ih]

/-- A number written reads back modulo its range (R220). -/
theorem memNat_putNat {m : Mem} (a n v : Nat) (w : memWf m = true) : memNat (memPutNat m a n v) a n = v % 256 ^ n := by
  have := memReadN_writeN (Bits.bytesOf n v) (m := m) (a := a) w
  rw [bytesOf_length] at this
  rw [memNat, memPutNat, this, ofBytes_bytesOf]

/-! ## Items by number and register files -/

section
variable {α : Type}

@[simp] theorem aGet_set_same (d : α) (l : Assoc α) (n : Nat) (y : α) : aGet d (aSet l n y) n = y := by
  induction l with
  | nil => simp [aSet, aGet]
  | cons e l ih =>
    obtain ⟨k, x⟩ := e
    by_cases h : n = k
    · simp [aSet, aGet, h]
    · by_cases h2 : n < k
      · simp [aSet, aGet, h, h2]
      · simp [aSet, aGet, h, h2, ih]

@[simp] theorem aFind_set_same (l : Assoc α) (n : Nat) (y : α) : aFind (aSet l n y) n = some y := by
  induction l with
  | nil => simp [aSet, aFind]
  | cons e l ih =>
    obtain ⟨k, x⟩ := e
    by_cases h : n = k
    · simp [aSet, aFind, h]
    · by_cases h2 : n < k
      · simp [aSet, aFind, h, h2]
      · simp [aSet, aFind, h, h2, ih]

theorem aGet_set_other (d : α) (l : Assoc α) {n m : Nat} (y : α) (h : m ≠ n) : aGet d (aSet l n y) m = aGet d l m := by
  induction l with
  | nil => simp [aSet, aGet, h]
  | cons e l ih =>
    obtain ⟨k, x⟩ := e
    unfold aSet
    split
    · subst_vars; simp [aGet, h]
    · split
      · simp [aGet, h]
      · simp [aGet, ih]

theorem aFind_set_other (l : Assoc α) {n m : Nat} (y : α) (h : m ≠ n) : aFind (aSet l n y) m = aFind l m := by
  induction l with
  | nil => simp [aSet, aFind, h]
  | cons e l ih =>
    obtain ⟨k, x⟩ := e
    unfold aSet
    split
    · subst_vars; simp [aFind, h]
    · split
      · simp [aFind, h]
      · simp [aFind, ih]

@[simp] theorem aSet_set_same (l : Assoc α) (n : Nat) (x y : α) : aSet (aSet l n x) n y = aSet l n y := by
  induction l with
  | nil => simp [aSet]
  | cons e l ih =>
    obtain ⟨k, z⟩ := e
    by_cases h : n = k
    · simp [aSet, h]
    · by_cases h2 : n < k
      · simp [aSet, h, h2]
      · simp [aSet, h, h2, ih]

theorem vGet_set_same {n : Nat} (d : α) (v : Vector α n) {k : Nat} (x : α) (h : k < n) : vGet d (vSet v k x) k = x := by
  simp [vGet, vSet, h]

theorem vGet_set_other {n : Nat} (d : α) (v : Vector α n) {k j : Nat} (x : α) (h : j ≠ k) :
    vGet d (vSet v k x) j = vGet d v j := by
  unfold vGet vSet
  split
  · split
    · exact Vector.getElem_set_ne _ _ (Ne.symm h)
    · rfl
  · rfl

theorem vSet_set_same {n : Nat} (v : Vector α n) (k : Nat) (x y : α) : vSet (vSet v k x) k y = vSet v k y := by
  unfold vSet; split <;> simp

end

end Sys2Proof.Machine
end

