-- ==== Sys2Proof/Laws/State.lean ====
section
/-!
SUPPORT. What each update of a part of the state leaves of every other field, so that no proof unfolds an update.
-/

namespace Sys2Proof.Machine

/-! ### setR -/

@[simp] theorem setR_todo (s : State) (r : Nat) (x : Region) : (setR s r x).todo = s.todo := rfl
@[simp] theorem setR_fresh (s : State) (r : Nat) (x : Region) : (setR s r x).fresh = s.fresh := rfl
@[simp] theorem setR_agent (s : State) (r : Nat) (x : Region) : (setR s r x).agent = s.agent := rfl
@[simp] theorem setR_now (s : State) (r : Nat) (x : Region) : (setR s r x).now = s.now := rfl
@[simp] theorem setR_launches (s : State) (r : Nat) (x : Region) : (setR s r x).launches = s.launches := rfl
@[simp] theorem setR_parts (s : State) (r : Nat) (x : Region) : (setR s r x).parts = s.parts := rfl
@[simp] theorem setR_conns (s : State) (r : Nat) (x : Region) : (setR s r x).conns = s.conns := rfl
@[simp] theorem setR_host (s : State) (r : Nat) (x : Region) : (setR s r x).host = s.host := rfl
@[simp] theorem setR_hbm (s : State) (r : Nat) (x : Region) : (setR s r x).hbm = s.hbm := rfl
@[simp] theorem setR_full (s : State) (r : Nat) (x : Region) : (setR s r x).full = s.full := rfl
@[simp] theorem setR_clen (s : State) (r : Nat) (x : Region) : (setR s r x).clen = s.clen := rfl
@[simp] theorem setR_comps (s : State) (r : Nat) (x : Region) : (setR s r x).comps = s.comps := rfl
@[simp] theorem setR_poison (s : State) (r : Nat) (x : Region) : (setR s r x).poison = s.poison := rfl
@[simp] theorem setR_granules (s : State) (r : Nat) (x : Region) : (setR s r x).granules = s.granules := rfl
@[simp] theorem setR_arms (s : State) (r : Nat) (x : Region) : (setR s r x).arms = s.arms := rfl
@[simp] theorem setR_links (s : State) (r : Nat) (x : Region) : (setR s r x).links = s.links := rfl
@[simp] theorem setR_dlinks (s : State) (r : Nat) (x : Region) : (setR s r x).dlinks = s.dlinks := rfl
@[simp] theorem setR_tcache (s : State) (r : Nat) (x : Region) : (setR s r x).tcache = s.tcache := rfl
@[simp] theorem setR_pins (s : State) (r : Nat) (x : Region) : (setR s r x).pins = s.pins := rfl
@[simp] theorem setR_reqs (s : State) (r : Nat) (x : Region) : (setR s r x).reqs = s.reqs := rfl
@[simp] theorem setR_hostWaits (s : State) (r : Nat) (x : Region) : (setR s r x).hostWaits = s.hostWaits := rfl
@[simp] theorem setR_ports (s : State) (r : Nat) (x : Region) : (setR s r x).ports = s.ports := rfl
@[simp] theorem setR_booted (s : State) (r : Nat) (x : Region) : (setR s r x).booted = s.booted := rfl
@[simp] theorem setR_fw (s : State) (r : Nat) (x : Region) : (setR s r x).fw = s.fw := rfl
@[simp] theorem setR_running (s : State) (r : Nat) (x : Region) : (setR s r x).running = s.running := rfl
@[simp] theorem setR_update (s : State) (r : Nat) (x : Region) : (setR s r x).update = s.update := rfl
@[simp] theorem setR_pendingSwitch (s : State) (r : Nat) (x : Region) : (setR s r x).pendingSwitch = s.pendingSwitch := rfl
@[simp] theorem setR_sediment (s : State) (r : Nat) (x : Region) : (setR s r x).sediment = s.sediment := rfl
@[simp] theorem setR_sedSeq (s : State) (r : Nat) (x : Region) : (setR s r x).sedSeq = s.sedSeq := rfl
@[simp] theorem setR_nvram (s : State) (r : Nat) (x : Region) : (setR s r x).nvram = s.nvram := rfl
@[simp] theorem setR_nvNext (s : State) (r : Nat) (x : Region) : (setR s r x).nvNext = s.nvNext := rfl
@[simp] theorem setR_spares (s : State) (r : Nat) (x : Region) : (setR s r x).spares = s.spares := rfl
@[simp] theorem setR_pcs (s : State) (r : Nat) (x : Region) : (setR s r x).pcs = s.pcs := rfl
@[simp] theorem setR_rowspares (s : State) (r : Nat) (x : Region) : (setR s r x).rowspares = s.rowspares := rfl
@[simp] theorem setR_hbmErrs (s : State) (r : Nat) (x : Region) : (setR s r x).hbmErrs = s.hbmErrs := rfl
@[simp] theorem setR_lastPart (s : State) (r : Nat) (x : Region) : (setR s r x).lastPart = s.lastPart := rfl
@[simp] theorem setR_order (s : State) (r : Nat) (x : Region) : (setR s r x).order = s.order := rfl
@[simp] theorem setR_nextLaunch (s : State) (r : Nat) (x : Region) : (setR s r x).nextLaunch = s.nextLaunch := rfl
@[simp] theorem setR_cutOrder (s : State) (r : Nat) (x : Region) : (setR s r x).cutOrder = s.cutOrder := rfl
@[simp] theorem setR_dredges (s : State) (r : Nat) (x : Region) : (setR s r x).dredges = s.dredges := rfl
@[simp] theorem setR_primes (s : State) (r : Nat) (x : Region) : (setR s r x).primes = s.primes := rfl

/-! ### setH -/

@[simp] theorem setH_todo (s : State) (r : Nat) (h : Helm) : (setH s r h).todo = s.todo := rfl
@[simp] theorem setH_fresh (s : State) (r : Nat) (h : Helm) : (setH s r h).fresh = s.fresh := rfl
@[simp] theorem setH_agent (s : State) (r : Nat) (h : Helm) : (setH s r h).agent = s.agent := rfl
@[simp] theorem setH_now (s : State) (r : Nat) (h : Helm) : (setH s r h).now = s.now := rfl
@[simp] theorem setH_launches (s : State) (r : Nat) (h : Helm) : (setH s r h).launches = s.launches := rfl
@[simp] theorem setH_parts (s : State) (r : Nat) (h : Helm) : (setH s r h).parts = s.parts := rfl
@[simp] theorem setH_conns (s : State) (r : Nat) (h : Helm) : (setH s r h).conns = s.conns := rfl
@[simp] theorem setH_host (s : State) (r : Nat) (h : Helm) : (setH s r h).host = s.host := rfl
@[simp] theorem setH_hbm (s : State) (r : Nat) (h : Helm) : (setH s r h).hbm = s.hbm := rfl
@[simp] theorem setH_full (s : State) (r : Nat) (h : Helm) : (setH s r h).full = s.full := rfl
@[simp] theorem setH_clen (s : State) (r : Nat) (h : Helm) : (setH s r h).clen = s.clen := rfl
@[simp] theorem setH_comps (s : State) (r : Nat) (h : Helm) : (setH s r h).comps = s.comps := rfl
@[simp] theorem setH_poison (s : State) (r : Nat) (h : Helm) : (setH s r h).poison = s.poison := rfl
@[simp] theorem setH_granules (s : State) (r : Nat) (h : Helm) : (setH s r h).granules = s.granules := rfl
@[simp] theorem setH_arms (s : State) (r : Nat) (h : Helm) : (setH s r h).arms = s.arms := rfl
@[simp] theorem setH_links (s : State) (r : Nat) (h : Helm) : (setH s r h).links = s.links := rfl
@[simp] theorem setH_dlinks (s : State) (r : Nat) (h : Helm) : (setH s r h).dlinks = s.dlinks := rfl
@[simp] theorem setH_tcache (s : State) (r : Nat) (h : Helm) : (setH s r h).tcache = s.tcache := rfl
@[simp] theorem setH_pins (s : State) (r : Nat) (h : Helm) : (setH s r h).pins = s.pins := rfl
@[simp] theorem setH_reqs (s : State) (r : Nat) (h : Helm) : (setH s r h).reqs = s.reqs := rfl
@[simp] theorem setH_hostWaits (s : State) (r : Nat) (h : Helm) : (setH s r h).hostWaits = s.hostWaits := rfl
@[simp] theorem setH_ports (s : State) (r : Nat) (h : Helm) : (setH s r h).ports = s.ports := rfl
@[simp] theorem setH_booted (s : State) (r : Nat) (h : Helm) : (setH s r h).booted = s.booted := rfl
@[simp] theorem setH_fw (s : State) (r : Nat) (h : Helm) : (setH s r h).fw = s.fw := rfl
@[simp] theorem setH_running (s : State) (r : Nat) (h : Helm) : (setH s r h).running = s.running := rfl
@[simp] theorem setH_update (s : State) (r : Nat) (h : Helm) : (setH s r h).update = s.update := rfl
@[simp] theorem setH_pendingSwitch (s : State) (r : Nat) (h : Helm) : (setH s r h).pendingSwitch = s.pendingSwitch := rfl
@[simp] theorem setH_sediment (s : State) (r : Nat) (h : Helm) : (setH s r h).sediment = s.sediment := rfl
@[simp] theorem setH_sedSeq (s : State) (r : Nat) (h : Helm) : (setH s r h).sedSeq = s.sedSeq := rfl
@[simp] theorem setH_nvram (s : State) (r : Nat) (h : Helm) : (setH s r h).nvram = s.nvram := rfl
@[simp] theorem setH_nvNext (s : State) (r : Nat) (h : Helm) : (setH s r h).nvNext = s.nvNext := rfl
@[simp] theorem setH_spares (s : State) (r : Nat) (h : Helm) : (setH s r h).spares = s.spares := rfl
@[simp] theorem setH_pcs (s : State) (r : Nat) (h : Helm) : (setH s r h).pcs = s.pcs := rfl
@[simp] theorem setH_rowspares (s : State) (r : Nat) (h : Helm) : (setH s r h).rowspares = s.rowspares := rfl
@[simp] theorem setH_hbmErrs (s : State) (r : Nat) (h : Helm) : (setH s r h).hbmErrs = s.hbmErrs := rfl
@[simp] theorem setH_lastPart (s : State) (r : Nat) (h : Helm) : (setH s r h).lastPart = s.lastPart := rfl
@[simp] theorem setH_order (s : State) (r : Nat) (h : Helm) : (setH s r h).order = s.order := rfl
@[simp] theorem setH_nextLaunch (s : State) (r : Nat) (h : Helm) : (setH s r h).nextLaunch = s.nextLaunch := rfl
@[simp] theorem setH_cutOrder (s : State) (r : Nat) (h : Helm) : (setH s r h).cutOrder = s.cutOrder := rfl
@[simp] theorem setH_dredges (s : State) (r : Nat) (h : Helm) : (setH s r h).dredges = s.dredges := rfl
@[simp] theorem setH_primes (s : State) (r : Nat) (h : Helm) : (setH s r h).primes = s.primes := rfl

/-! ### setE -/

@[simp] theorem setE_todo (s : State) (r e : Nat) (x : Elem) : (setE s r e x).todo = s.todo := rfl
@[simp] theorem setE_fresh (s : State) (r e : Nat) (x : Elem) : (setE s r e x).fresh = s.fresh := rfl
@[simp] theorem setE_agent (s : State) (r e : Nat) (x : Elem) : (setE s r e x).agent = s.agent := rfl
@[simp] theorem setE_now (s : State) (r e : Nat) (x : Elem) : (setE s r e x).now = s.now := rfl
@[simp] theorem setE_launches (s : State) (r e : Nat) (x : Elem) : (setE s r e x).launches = s.launches := rfl
@[simp] theorem setE_parts (s : State) (r e : Nat) (x : Elem) : (setE s r e x).parts = s.parts := rfl
@[simp] theorem setE_conns (s : State) (r e : Nat) (x : Elem) : (setE s r e x).conns = s.conns := rfl
@[simp] theorem setE_host (s : State) (r e : Nat) (x : Elem) : (setE s r e x).host = s.host := rfl
@[simp] theorem setE_hbm (s : State) (r e : Nat) (x : Elem) : (setE s r e x).hbm = s.hbm := rfl
@[simp] theorem setE_full (s : State) (r e : Nat) (x : Elem) : (setE s r e x).full = s.full := rfl
@[simp] theorem setE_clen (s : State) (r e : Nat) (x : Elem) : (setE s r e x).clen = s.clen := rfl
@[simp] theorem setE_comps (s : State) (r e : Nat) (x : Elem) : (setE s r e x).comps = s.comps := rfl
@[simp] theorem setE_poison (s : State) (r e : Nat) (x : Elem) : (setE s r e x).poison = s.poison := rfl
@[simp] theorem setE_granules (s : State) (r e : Nat) (x : Elem) : (setE s r e x).granules = s.granules := rfl
@[simp] theorem setE_arms (s : State) (r e : Nat) (x : Elem) : (setE s r e x).arms = s.arms := rfl
@[simp] theorem setE_links (s : State) (r e : Nat) (x : Elem) : (setE s r e x).links = s.links := rfl
@[simp] theorem setE_dlinks (s : State) (r e : Nat) (x : Elem) : (setE s r e x).dlinks = s.dlinks := rfl
@[simp] theorem setE_tcache (s : State) (r e : Nat) (x : Elem) : (setE s r e x).tcache = s.tcache := rfl
@[simp] theorem setE_pins (s : State) (r e : Nat) (x : Elem) : (setE s r e x).pins = s.pins := rfl
@[simp] theorem setE_reqs (s : State) (r e : Nat) (x : Elem) : (setE s r e x).reqs = s.reqs := rfl
@[simp] theorem setE_hostWaits (s : State) (r e : Nat) (x : Elem) : (setE s r e x).hostWaits = s.hostWaits := rfl
@[simp] theorem setE_ports (s : State) (r e : Nat) (x : Elem) : (setE s r e x).ports = s.ports := rfl
@[simp] theorem setE_booted (s : State) (r e : Nat) (x : Elem) : (setE s r e x).booted = s.booted := rfl
@[simp] theorem setE_fw (s : State) (r e : Nat) (x : Elem) : (setE s r e x).fw = s.fw := rfl
@[simp] theorem setE_running (s : State) (r e : Nat) (x : Elem) : (setE s r e x).running = s.running := rfl
@[simp] theorem setE_update (s : State) (r e : Nat) (x : Elem) : (setE s r e x).update = s.update := rfl
@[simp] theorem setE_pendingSwitch (s : State) (r e : Nat) (x : Elem) : (setE s r e x).pendingSwitch = s.pendingSwitch := rfl
@[simp] theorem setE_sediment (s : State) (r e : Nat) (x : Elem) : (setE s r e x).sediment = s.sediment := rfl
@[simp] theorem setE_sedSeq (s : State) (r e : Nat) (x : Elem) : (setE s r e x).sedSeq = s.sedSeq := rfl
@[simp] theorem setE_nvram (s : State) (r e : Nat) (x : Elem) : (setE s r e x).nvram = s.nvram := rfl
@[simp] theorem setE_nvNext (s : State) (r e : Nat) (x : Elem) : (setE s r e x).nvNext = s.nvNext := rfl
@[simp] theorem setE_spares (s : State) (r e : Nat) (x : Elem) : (setE s r e x).spares = s.spares := rfl
@[simp] theorem setE_pcs (s : State) (r e : Nat) (x : Elem) : (setE s r e x).pcs = s.pcs := rfl
@[simp] theorem setE_rowspares (s : State) (r e : Nat) (x : Elem) : (setE s r e x).rowspares = s.rowspares := rfl
@[simp] theorem setE_hbmErrs (s : State) (r e : Nat) (x : Elem) : (setE s r e x).hbmErrs = s.hbmErrs := rfl
@[simp] theorem setE_lastPart (s : State) (r e : Nat) (x : Elem) : (setE s r e x).lastPart = s.lastPart := rfl
@[simp] theorem setE_order (s : State) (r e : Nat) (x : Elem) : (setE s r e x).order = s.order := rfl
@[simp] theorem setE_nextLaunch (s : State) (r e : Nat) (x : Elem) : (setE s r e x).nextLaunch = s.nextLaunch := rfl
@[simp] theorem setE_cutOrder (s : State) (r e : Nat) (x : Elem) : (setE s r e x).cutOrder = s.cutOrder := rfl
@[simp] theorem setE_dredges (s : State) (r e : Nat) (x : Elem) : (setE s r e x).dredges = s.dredges := rfl
@[simp] theorem setE_primes (s : State) (r e : Nat) (x : Elem) : (setE s r e x).primes = s.primes := rfl

/-! ### setN -/

@[simp] theorem setN_todo (s : State) (r e c : Nat) (n : Node) : (setN s r e c n).todo = s.todo := by unfold setN; split <;> rfl
@[simp] theorem setN_fresh (s : State) (r e c : Nat) (n : Node) : (setN s r e c n).fresh = s.fresh := by unfold setN; split <;> rfl
@[simp] theorem setN_agent (s : State) (r e c : Nat) (n : Node) : (setN s r e c n).agent = s.agent := by unfold setN; split <;> rfl
@[simp] theorem setN_now (s : State) (r e c : Nat) (n : Node) : (setN s r e c n).now = s.now := by unfold setN; split <;> rfl
@[simp] theorem setN_launches (s : State) (r e c : Nat) (n : Node) : (setN s r e c n).launches = s.launches := by unfold setN; split <;> rfl
@[simp] theorem setN_parts (s : State) (r e c : Nat) (n : Node) : (setN s r e c n).parts = s.parts := by unfold setN; split <;> rfl
@[simp] theorem setN_conns (s : State) (r e c : Nat) (n : Node) : (setN s r e c n).conns = s.conns := by unfold setN; split <;> rfl
@[simp] theorem setN_host (s : State) (r e c : Nat) (n : Node) : (setN s r e c n).host = s.host := by unfold setN; split <;> rfl
@[simp] theorem setN_hbm (s : State) (r e c : Nat) (n : Node) : (setN s r e c n).hbm = s.hbm := by unfold setN; split <;> rfl
@[simp] theorem setN_full (s : State) (r e c : Nat) (n : Node) : (setN s r e c n).full = s.full := by unfold setN; split <;> rfl
@[simp] theorem setN_clen (s : State) (r e c : Nat) (n : Node) : (setN s r e c n).clen = s.clen := by unfold setN; split <;> rfl
@[simp] theorem setN_comps (s : State) (r e c : Nat) (n : Node) : (setN s r e c n).comps = s.comps := by unfold setN; split <;> rfl
@[simp] theorem setN_poison (s : State) (r e c : Nat) (n : Node) : (setN s r e c n).poison = s.poison := by unfold setN; split <;> rfl
@[simp] theorem setN_granules (s : State) (r e c : Nat) (n : Node) : (setN s r e c n).granules = s.granules := by unfold setN; split <;> rfl
@[simp] theorem setN_arms (s : State) (r e c : Nat) (n : Node) : (setN s r e c n).arms = s.arms := by unfold setN; split <;> rfl
@[simp] theorem setN_links (s : State) (r e c : Nat) (n : Node) : (setN s r e c n).links = s.links := by unfold setN; split <;> rfl
@[simp] theorem setN_dlinks (s : State) (r e c : Nat) (n : Node) : (setN s r e c n).dlinks = s.dlinks := by unfold setN; split <;> rfl
@[simp] theorem setN_tcache (s : State) (r e c : Nat) (n : Node) : (setN s r e c n).tcache = s.tcache := by unfold setN; split <;> rfl
@[simp] theorem setN_pins (s : State) (r e c : Nat) (n : Node) : (setN s r e c n).pins = s.pins := by unfold setN; split <;> rfl
@[simp] theorem setN_reqs (s : State) (r e c : Nat) (n : Node) : (setN s r e c n).reqs = s.reqs := by unfold setN; split <;> rfl
@[simp] theorem setN_hostWaits (s : State) (r e c : Nat) (n : Node) : (setN s r e c n).hostWaits = s.hostWaits := by unfold setN; split <;> rfl
@[simp] theorem setN_ports (s : State) (r e c : Nat) (n : Node) : (setN s r e c n).ports = s.ports := by unfold setN; split <;> rfl
@[simp] theorem setN_booted (s : State) (r e c : Nat) (n : Node) : (setN s r e c n).booted = s.booted := by unfold setN; split <;> rfl
@[simp] theorem setN_fw (s : State) (r e c : Nat) (n : Node) : (setN s r e c n).fw = s.fw := by unfold setN; split <;> rfl
@[simp] theorem setN_running (s : State) (r e c : Nat) (n : Node) : (setN s r e c n).running = s.running := by unfold setN; split <;> rfl
@[simp] theorem setN_update (s : State) (r e c : Nat) (n : Node) : (setN s r e c n).update = s.update := by unfold setN; split <;> rfl
@[simp] theorem setN_pendingSwitch (s : State) (r e c : Nat) (n : Node) : (setN s r e c n).pendingSwitch = s.pendingSwitch := by unfold setN; split <;> rfl
@[simp] theorem setN_sediment (s : State) (r e c : Nat) (n : Node) : (setN s r e c n).sediment = s.sediment := by unfold setN; split <;> rfl
@[simp] theorem setN_sedSeq (s : State) (r e c : Nat) (n : Node) : (setN s r e c n).sedSeq = s.sedSeq := by unfold setN; split <;> rfl
@[simp] theorem setN_nvram (s : State) (r e c : Nat) (n : Node) : (setN s r e c n).nvram = s.nvram := by unfold setN; split <;> rfl
@[simp] theorem setN_nvNext (s : State) (r e c : Nat) (n : Node) : (setN s r e c n).nvNext = s.nvNext := by unfold setN; split <;> rfl
@[simp] theorem setN_spares (s : State) (r e c : Nat) (n : Node) : (setN s r e c n).spares = s.spares := by unfold setN; split <;> rfl
@[simp] theorem setN_pcs (s : State) (r e c : Nat) (n : Node) : (setN s r e c n).pcs = s.pcs := by unfold setN; split <;> rfl
@[simp] theorem setN_rowspares (s : State) (r e c : Nat) (n : Node) : (setN s r e c n).rowspares = s.rowspares := by unfold setN; split <;> rfl
@[simp] theorem setN_hbmErrs (s : State) (r e c : Nat) (n : Node) : (setN s r e c n).hbmErrs = s.hbmErrs := by unfold setN; split <;> rfl
@[simp] theorem setN_lastPart (s : State) (r e c : Nat) (n : Node) : (setN s r e c n).lastPart = s.lastPart := by unfold setN; split <;> rfl
@[simp] theorem setN_order (s : State) (r e c : Nat) (n : Node) : (setN s r e c n).order = s.order := by unfold setN; split <;> rfl
@[simp] theorem setN_nextLaunch (s : State) (r e c : Nat) (n : Node) : (setN s r e c n).nextLaunch = s.nextLaunch := by unfold setN; split <;> rfl
@[simp] theorem setN_cutOrder (s : State) (r e c : Nat) (n : Node) : (setN s r e c n).cutOrder = s.cutOrder := by unfold setN; split <;> rfl
@[simp] theorem setN_dredges (s : State) (r e c : Nat) (n : Node) : (setN s r e c n).dredges = s.dredges := by unfold setN; split <;> rfl
@[simp] theorem setN_primes (s : State) (r e c : Nat) (n : Node) : (setN s r e c n).primes = s.primes := by unfold setN; split <;> rfl

/-! ### setHere -/

@[simp] theorem setHere_todo (s : State) (n : Node) : (setHere s n).todo = s.todo := by simp [setHere]
@[simp] theorem setHere_fresh (s : State) (n : Node) : (setHere s n).fresh = s.fresh := by simp [setHere]
@[simp] theorem setHere_agent (s : State) (n : Node) : (setHere s n).agent = s.agent := by simp [setHere]
@[simp] theorem setHere_now (s : State) (n : Node) : (setHere s n).now = s.now := by simp [setHere]
@[simp] theorem setHere_launches (s : State) (n : Node) : (setHere s n).launches = s.launches := by simp [setHere]
@[simp] theorem setHere_parts (s : State) (n : Node) : (setHere s n).parts = s.parts := by simp [setHere]
@[simp] theorem setHere_conns (s : State) (n : Node) : (setHere s n).conns = s.conns := by simp [setHere]
@[simp] theorem setHere_host (s : State) (n : Node) : (setHere s n).host = s.host := by simp [setHere]
@[simp] theorem setHere_hbm (s : State) (n : Node) : (setHere s n).hbm = s.hbm := by simp [setHere]
@[simp] theorem setHere_full (s : State) (n : Node) : (setHere s n).full = s.full := by simp [setHere]
@[simp] theorem setHere_clen (s : State) (n : Node) : (setHere s n).clen = s.clen := by simp [setHere]
@[simp] theorem setHere_comps (s : State) (n : Node) : (setHere s n).comps = s.comps := by simp [setHere]
@[simp] theorem setHere_poison (s : State) (n : Node) : (setHere s n).poison = s.poison := by simp [setHere]
@[simp] theorem setHere_granules (s : State) (n : Node) : (setHere s n).granules = s.granules := by simp [setHere]
@[simp] theorem setHere_arms (s : State) (n : Node) : (setHere s n).arms = s.arms := by simp [setHere]
@[simp] theorem setHere_links (s : State) (n : Node) : (setHere s n).links = s.links := by simp [setHere]
@[simp] theorem setHere_dlinks (s : State) (n : Node) : (setHere s n).dlinks = s.dlinks := by simp [setHere]
@[simp] theorem setHere_tcache (s : State) (n : Node) : (setHere s n).tcache = s.tcache := by simp [setHere]
@[simp] theorem setHere_pins (s : State) (n : Node) : (setHere s n).pins = s.pins := by simp [setHere]
@[simp] theorem setHere_reqs (s : State) (n : Node) : (setHere s n).reqs = s.reqs := by simp [setHere]
@[simp] theorem setHere_hostWaits (s : State) (n : Node) : (setHere s n).hostWaits = s.hostWaits := by simp [setHere]
@[simp] theorem setHere_ports (s : State) (n : Node) : (setHere s n).ports = s.ports := by simp [setHere]
@[simp] theorem setHere_booted (s : State) (n : Node) : (setHere s n).booted = s.booted := by simp [setHere]
@[simp] theorem setHere_fw (s : State) (n : Node) : (setHere s n).fw = s.fw := by simp [setHere]
@[simp] theorem setHere_running (s : State) (n : Node) : (setHere s n).running = s.running := by simp [setHere]
@[simp] theorem setHere_update (s : State) (n : Node) : (setHere s n).update = s.update := by simp [setHere]
@[simp] theorem setHere_pendingSwitch (s : State) (n : Node) : (setHere s n).pendingSwitch = s.pendingSwitch := by simp [setHere]
@[simp] theorem setHere_sediment (s : State) (n : Node) : (setHere s n).sediment = s.sediment := by simp [setHere]
@[simp] theorem setHere_sedSeq (s : State) (n : Node) : (setHere s n).sedSeq = s.sedSeq := by simp [setHere]
@[simp] theorem setHere_nvram (s : State) (n : Node) : (setHere s n).nvram = s.nvram := by simp [setHere]
@[simp] theorem setHere_nvNext (s : State) (n : Node) : (setHere s n).nvNext = s.nvNext := by simp [setHere]
@[simp] theorem setHere_spares (s : State) (n : Node) : (setHere s n).spares = s.spares := by simp [setHere]
@[simp] theorem setHere_pcs (s : State) (n : Node) : (setHere s n).pcs = s.pcs := by simp [setHere]
@[simp] theorem setHere_rowspares (s : State) (n : Node) : (setHere s n).rowspares = s.rowspares := by simp [setHere]
@[simp] theorem setHere_hbmErrs (s : State) (n : Node) : (setHere s n).hbmErrs = s.hbmErrs := by simp [setHere]
@[simp] theorem setHere_lastPart (s : State) (n : Node) : (setHere s n).lastPart = s.lastPart := by simp [setHere]
@[simp] theorem setHere_order (s : State) (n : Node) : (setHere s n).order = s.order := by simp [setHere]
@[simp] theorem setHere_nextLaunch (s : State) (n : Node) : (setHere s n).nextLaunch = s.nextLaunch := by simp [setHere]
@[simp] theorem setHere_cutOrder (s : State) (n : Node) : (setHere s n).cutOrder = s.cutOrder := by simp [setHere]
@[simp] theorem setHere_dredges (s : State) (n : Node) : (setHere s n).dredges = s.dredges := by simp [setHere]
@[simp] theorem setHere_primes (s : State) (n : Node) : (setHere s n).primes = s.primes := by simp [setHere]

/-! ### setL -/

@[simp] theorem setL_todo (s : State) (l : Nat) (x : Launch) : (setL s l x).todo = s.todo := rfl
@[simp] theorem setL_fresh (s : State) (l : Nat) (x : Launch) : (setL s l x).fresh = s.fresh := rfl
@[simp] theorem setL_agent (s : State) (l : Nat) (x : Launch) : (setL s l x).agent = s.agent := rfl
@[simp] theorem setL_now (s : State) (l : Nat) (x : Launch) : (setL s l x).now = s.now := rfl
@[simp] theorem setL_regions (s : State) (l : Nat) (x : Launch) : (setL s l x).regions = s.regions := rfl
@[simp] theorem setL_parts (s : State) (l : Nat) (x : Launch) : (setL s l x).parts = s.parts := rfl
@[simp] theorem setL_conns (s : State) (l : Nat) (x : Launch) : (setL s l x).conns = s.conns := rfl
@[simp] theorem setL_host (s : State) (l : Nat) (x : Launch) : (setL s l x).host = s.host := rfl
@[simp] theorem setL_hbm (s : State) (l : Nat) (x : Launch) : (setL s l x).hbm = s.hbm := rfl
@[simp] theorem setL_full (s : State) (l : Nat) (x : Launch) : (setL s l x).full = s.full := rfl
@[simp] theorem setL_clen (s : State) (l : Nat) (x : Launch) : (setL s l x).clen = s.clen := rfl
@[simp] theorem setL_comps (s : State) (l : Nat) (x : Launch) : (setL s l x).comps = s.comps := rfl
@[simp] theorem setL_poison (s : State) (l : Nat) (x : Launch) : (setL s l x).poison = s.poison := rfl
@[simp] theorem setL_granules (s : State) (l : Nat) (x : Launch) : (setL s l x).granules = s.granules := rfl
@[simp] theorem setL_arms (s : State) (l : Nat) (x : Launch) : (setL s l x).arms = s.arms := rfl
@[simp] theorem setL_links (s : State) (l : Nat) (x : Launch) : (setL s l x).links = s.links := rfl
@[simp] theorem setL_dlinks (s : State) (l : Nat) (x : Launch) : (setL s l x).dlinks = s.dlinks := rfl
@[simp] theorem setL_tcache (s : State) (l : Nat) (x : Launch) : (setL s l x).tcache = s.tcache := rfl
@[simp] theorem setL_pins (s : State) (l : Nat) (x : Launch) : (setL s l x).pins = s.pins := rfl
@[simp] theorem setL_reqs (s : State) (l : Nat) (x : Launch) : (setL s l x).reqs = s.reqs := rfl
@[simp] theorem setL_hostWaits (s : State) (l : Nat) (x : Launch) : (setL s l x).hostWaits = s.hostWaits := rfl
@[simp] theorem setL_ports (s : State) (l : Nat) (x : Launch) : (setL s l x).ports = s.ports := rfl
@[simp] theorem setL_booted (s : State) (l : Nat) (x : Launch) : (setL s l x).booted = s.booted := rfl
@[simp] theorem setL_fw (s : State) (l : Nat) (x : Launch) : (setL s l x).fw = s.fw := rfl
@[simp] theorem setL_running (s : State) (l : Nat) (x : Launch) : (setL s l x).running = s.running := rfl
@[simp] theorem setL_update (s : State) (l : Nat) (x : Launch) : (setL s l x).update = s.update := rfl
@[simp] theorem setL_pendingSwitch (s : State) (l : Nat) (x : Launch) : (setL s l x).pendingSwitch = s.pendingSwitch := rfl
@[simp] theorem setL_sediment (s : State) (l : Nat) (x : Launch) : (setL s l x).sediment = s.sediment := rfl
@[simp] theorem setL_sedSeq (s : State) (l : Nat) (x : Launch) : (setL s l x).sedSeq = s.sedSeq := rfl
@[simp] theorem setL_nvram (s : State) (l : Nat) (x : Launch) : (setL s l x).nvram = s.nvram := rfl
@[simp] theorem setL_nvNext (s : State) (l : Nat) (x : Launch) : (setL s l x).nvNext = s.nvNext := rfl
@[simp] theorem setL_spares (s : State) (l : Nat) (x : Launch) : (setL s l x).spares = s.spares := rfl
@[simp] theorem setL_pcs (s : State) (l : Nat) (x : Launch) : (setL s l x).pcs = s.pcs := rfl
@[simp] theorem setL_rowspares (s : State) (l : Nat) (x : Launch) : (setL s l x).rowspares = s.rowspares := rfl
@[simp] theorem setL_hbmErrs (s : State) (l : Nat) (x : Launch) : (setL s l x).hbmErrs = s.hbmErrs := rfl
@[simp] theorem setL_lastPart (s : State) (l : Nat) (x : Launch) : (setL s l x).lastPart = s.lastPart := rfl
@[simp] theorem setL_order (s : State) (l : Nat) (x : Launch) : (setL s l x).order = s.order := rfl
@[simp] theorem setL_nextLaunch (s : State) (l : Nat) (x : Launch) : (setL s l x).nextLaunch = s.nextLaunch := rfl
@[simp] theorem setL_cutOrder (s : State) (l : Nat) (x : Launch) : (setL s l x).cutOrder = s.cutOrder := rfl
@[simp] theorem setL_dredges (s : State) (l : Nat) (x : Launch) : (setL s l x).dredges = s.dredges := rfl
@[simp] theorem setL_primes (s : State) (l : Nat) (x : Launch) : (setL s l x).primes = s.primes := rfl

/-! ### setP -/

@[simp] theorem setP_todo (s : State) (p : Nat) (x : Partition) : (setP s p x).todo = s.todo := rfl
@[simp] theorem setP_fresh (s : State) (p : Nat) (x : Partition) : (setP s p x).fresh = s.fresh := rfl
@[simp] theorem setP_agent (s : State) (p : Nat) (x : Partition) : (setP s p x).agent = s.agent := rfl
@[simp] theorem setP_now (s : State) (p : Nat) (x : Partition) : (setP s p x).now = s.now := rfl
@[simp] theorem setP_regions (s : State) (p : Nat) (x : Partition) : (setP s p x).regions = s.regions := rfl
@[simp] theorem setP_launches (s : State) (p : Nat) (x : Partition) : (setP s p x).launches = s.launches := rfl
@[simp] theorem setP_conns (s : State) (p : Nat) (x : Partition) : (setP s p x).conns = s.conns := rfl
@[simp] theorem setP_host (s : State) (p : Nat) (x : Partition) : (setP s p x).host = s.host := rfl
@[simp] theorem setP_hbm (s : State) (p : Nat) (x : Partition) : (setP s p x).hbm = s.hbm := rfl
@[simp] theorem setP_full (s : State) (p : Nat) (x : Partition) : (setP s p x).full = s.full := rfl
@[simp] theorem setP_clen (s : State) (p : Nat) (x : Partition) : (setP s p x).clen = s.clen := rfl
@[simp] theorem setP_comps (s : State) (p : Nat) (x : Partition) : (setP s p x).comps = s.comps := rfl
@[simp] theorem setP_poison (s : State) (p : Nat) (x : Partition) : (setP s p x).poison = s.poison := rfl
@[simp] theorem setP_granules (s : State) (p : Nat) (x : Partition) : (setP s p x).granules = s.granules := rfl
@[simp] theorem setP_arms (s : State) (p : Nat) (x : Partition) : (setP s p x).arms = s.arms := rfl
@[simp] theorem setP_links (s : State) (p : Nat) (x : Partition) : (setP s p x).links = s.links := rfl
@[simp] theorem setP_dlinks (s : State) (p : Nat) (x : Partition) : (setP s p x).dlinks = s.dlinks := rfl
@[simp] theorem setP_tcache (s : State) (p : Nat) (x : Partition) : (setP s p x).tcache = s.tcache := rfl
@[simp] theorem setP_pins (s : State) (p : Nat) (x : Partition) : (setP s p x).pins = s.pins := rfl
@[simp] theorem setP_reqs (s : State) (p : Nat) (x : Partition) : (setP s p x).reqs = s.reqs := rfl
@[simp] theorem setP_hostWaits (s : State) (p : Nat) (x : Partition) : (setP s p x).hostWaits = s.hostWaits := rfl
@[simp] theorem setP_ports (s : State) (p : Nat) (x : Partition) : (setP s p x).ports = s.ports := rfl
@[simp] theorem setP_booted (s : State) (p : Nat) (x : Partition) : (setP s p x).booted = s.booted := rfl
@[simp] theorem setP_fw (s : State) (p : Nat) (x : Partition) : (setP s p x).fw = s.fw := rfl
@[simp] theorem setP_running (s : State) (p : Nat) (x : Partition) : (setP s p x).running = s.running := rfl
@[simp] theorem setP_update (s : State) (p : Nat) (x : Partition) : (setP s p x).update = s.update := rfl
@[simp] theorem setP_pendingSwitch (s : State) (p : Nat) (x : Partition) : (setP s p x).pendingSwitch = s.pendingSwitch := rfl
@[simp] theorem setP_sediment (s : State) (p : Nat) (x : Partition) : (setP s p x).sediment = s.sediment := rfl
@[simp] theorem setP_sedSeq (s : State) (p : Nat) (x : Partition) : (setP s p x).sedSeq = s.sedSeq := rfl
@[simp] theorem setP_nvram (s : State) (p : Nat) (x : Partition) : (setP s p x).nvram = s.nvram := rfl
@[simp] theorem setP_nvNext (s : State) (p : Nat) (x : Partition) : (setP s p x).nvNext = s.nvNext := rfl
@[simp] theorem setP_spares (s : State) (p : Nat) (x : Partition) : (setP s p x).spares = s.spares := rfl
@[simp] theorem setP_pcs (s : State) (p : Nat) (x : Partition) : (setP s p x).pcs = s.pcs := rfl
@[simp] theorem setP_rowspares (s : State) (p : Nat) (x : Partition) : (setP s p x).rowspares = s.rowspares := rfl
@[simp] theorem setP_hbmErrs (s : State) (p : Nat) (x : Partition) : (setP s p x).hbmErrs = s.hbmErrs := rfl
@[simp] theorem setP_lastPart (s : State) (p : Nat) (x : Partition) : (setP s p x).lastPart = s.lastPart := rfl
@[simp] theorem setP_order (s : State) (p : Nat) (x : Partition) : (setP s p x).order = s.order := rfl
@[simp] theorem setP_nextLaunch (s : State) (p : Nat) (x : Partition) : (setP s p x).nextLaunch = s.nextLaunch := rfl
@[simp] theorem setP_cutOrder (s : State) (p : Nat) (x : Partition) : (setP s p x).cutOrder = s.cutOrder := rfl
@[simp] theorem setP_dredges (s : State) (p : Nat) (x : Partition) : (setP s p x).dredges = s.dredges := rfl
@[simp] theorem setP_primes (s : State) (p : Nat) (x : Partition) : (setP s p x).primes = s.primes := rfl

/-! ### recode -/

@[simp] theorem recode_todo (s : State) (a n : Nat) : (recode s a n).todo = s.todo := by unfold recode; dsimp only; split <;> rfl
@[simp] theorem recode_fresh (s : State) (a n : Nat) : (recode s a n).fresh = s.fresh := by unfold recode; dsimp only; split <;> rfl
@[simp] theorem recode_agent (s : State) (a n : Nat) : (recode s a n).agent = s.agent := by unfold recode; dsimp only; split <;> rfl
@[simp] theorem recode_now (s : State) (a n : Nat) : (recode s a n).now = s.now := by unfold recode; dsimp only; split <;> rfl
@[simp] theorem recode_regions (s : State) (a n : Nat) : (recode s a n).regions = s.regions := by unfold recode; dsimp only; split <;> rfl
@[simp] theorem recode_launches (s : State) (a n : Nat) : (recode s a n).launches = s.launches := by unfold recode; dsimp only; split <;> rfl
@[simp] theorem recode_parts (s : State) (a n : Nat) : (recode s a n).parts = s.parts := by unfold recode; dsimp only; split <;> rfl
@[simp] theorem recode_conns (s : State) (a n : Nat) : (recode s a n).conns = s.conns := by unfold recode; dsimp only; split <;> rfl
@[simp] theorem recode_host (s : State) (a n : Nat) : (recode s a n).host = s.host := by unfold recode; dsimp only; split <;> rfl
@[simp] theorem recode_hbm (s : State) (a n : Nat) : (recode s a n).hbm = s.hbm := by unfold recode; dsimp only; split <;> rfl
@[simp] theorem recode_full (s : State) (a n : Nat) : (recode s a n).full = s.full := by unfold recode; dsimp only; split <;> rfl
@[simp] theorem recode_comps (s : State) (a n : Nat) : (recode s a n).comps = s.comps := by unfold recode; dsimp only; split <;> rfl
@[simp] theorem recode_poison (s : State) (a n : Nat) : (recode s a n).poison = s.poison := by unfold recode; dsimp only; split <;> rfl
@[simp] theorem recode_granules (s : State) (a n : Nat) : (recode s a n).granules = s.granules := by unfold recode; dsimp only; split <;> rfl
@[simp] theorem recode_arms (s : State) (a n : Nat) : (recode s a n).arms = s.arms := by unfold recode; dsimp only; split <;> rfl
@[simp] theorem recode_links (s : State) (a n : Nat) : (recode s a n).links = s.links := by unfold recode; dsimp only; split <;> rfl
@[simp] theorem recode_dlinks (s : State) (a n : Nat) : (recode s a n).dlinks = s.dlinks := by unfold recode; dsimp only; split <;> rfl
@[simp] theorem recode_tcache (s : State) (a n : Nat) : (recode s a n).tcache = s.tcache := by unfold recode; dsimp only; split <;> rfl
@[simp] theorem recode_pins (s : State) (a n : Nat) : (recode s a n).pins = s.pins := by unfold recode; dsimp only; split <;> rfl
@[simp] theorem recode_reqs (s : State) (a n : Nat) : (recode s a n).reqs = s.reqs := by unfold recode; dsimp only; split <;> rfl
@[simp] theorem recode_hostWaits (s : State) (a n : Nat) : (recode s a n).hostWaits = s.hostWaits := by unfold recode; dsimp only; split <;> rfl
@[simp] theorem recode_ports (s : State) (a n : Nat) : (recode s a n).ports = s.ports := by unfold recode; dsimp only; split <;> rfl
@[simp] theorem recode_booted (s : State) (a n : Nat) : (recode s a n).booted = s.booted := by unfold recode; dsimp only; split <;> rfl
@[simp] theorem recode_fw (s : State) (a n : Nat) : (recode s a n).fw = s.fw := by unfold recode; dsimp only; split <;> rfl
@[simp] theorem recode_running (s : State) (a n : Nat) : (recode s a n).running = s.running := by unfold recode; dsimp only; split <;> rfl
@[simp] theorem recode_update (s : State) (a n : Nat) : (recode s a n).update = s.update := by unfold recode; dsimp only; split <;> rfl
@[simp] theorem recode_pendingSwitch (s : State) (a n : Nat) : (recode s a n).pendingSwitch = s.pendingSwitch := by unfold recode; dsimp only; split <;> rfl
@[simp] theorem recode_sediment (s : State) (a n : Nat) : (recode s a n).sediment = s.sediment := by unfold recode; dsimp only; split <;> rfl
@[simp] theorem recode_sedSeq (s : State) (a n : Nat) : (recode s a n).sedSeq = s.sedSeq := by unfold recode; dsimp only; split <;> rfl
@[simp] theorem recode_nvram (s : State) (a n : Nat) : (recode s a n).nvram = s.nvram := by unfold recode; dsimp only; split <;> rfl
@[simp] theorem recode_nvNext (s : State) (a n : Nat) : (recode s a n).nvNext = s.nvNext := by unfold recode; dsimp only; split <;> rfl
@[simp] theorem recode_spares (s : State) (a n : Nat) : (recode s a n).spares = s.spares := by unfold recode; dsimp only; split <;> rfl
@[simp] theorem recode_pcs (s : State) (a n : Nat) : (recode s a n).pcs = s.pcs := by unfold recode; dsimp only; split <;> rfl
@[simp] theorem recode_rowspares (s : State) (a n : Nat) : (recode s a n).rowspares = s.rowspares := by unfold recode; dsimp only; split <;> rfl
@[simp] theorem recode_hbmErrs (s : State) (a n : Nat) : (recode s a n).hbmErrs = s.hbmErrs := by unfold recode; dsimp only; split <;> rfl
@[simp] theorem recode_lastPart (s : State) (a n : Nat) : (recode s a n).lastPart = s.lastPart := by unfold recode; dsimp only; split <;> rfl
@[simp] theorem recode_order (s : State) (a n : Nat) : (recode s a n).order = s.order := by unfold recode; dsimp only; split <;> rfl
@[simp] theorem recode_nextLaunch (s : State) (a n : Nat) : (recode s a n).nextLaunch = s.nextLaunch := by unfold recode; dsimp only; split <;> rfl
@[simp] theorem recode_cutOrder (s : State) (a n : Nat) : (recode s a n).cutOrder = s.cutOrder := by unfold recode; dsimp only; split <;> rfl
@[simp] theorem recode_dredges (s : State) (a n : Nat) : (recode s a n).dredges = s.dredges := by unfold recode; dsimp only; split <;> rfl
@[simp] theorem recode_primes (s : State) (a n : Nat) : (recode s a n).primes = s.primes := by unfold recode; dsimp only; split <;> rfl

/-! ### nudge -/

@[simp] theorem nudge_todo (s : State) (a n : Nat) : (nudge s a n).todo = s.todo := rfl
@[simp] theorem nudge_fresh (s : State) (a n : Nat) : (nudge s a n).fresh = s.fresh := rfl
@[simp] theorem nudge_agent (s : State) (a n : Nat) : (nudge s a n).agent = s.agent := rfl
@[simp] theorem nudge_now (s : State) (a n : Nat) : (nudge s a n).now = s.now := rfl
@[simp] theorem nudge_regions (s : State) (a n : Nat) : (nudge s a n).regions = s.regions := rfl
@[simp] theorem nudge_launches (s : State) (a n : Nat) : (nudge s a n).launches = s.launches := rfl
@[simp] theorem nudge_parts (s : State) (a n : Nat) : (nudge s a n).parts = s.parts := rfl
@[simp] theorem nudge_conns (s : State) (a n : Nat) : (nudge s a n).conns = s.conns := rfl
@[simp] theorem nudge_host (s : State) (a n : Nat) : (nudge s a n).host = s.host := rfl
@[simp] theorem nudge_hbm (s : State) (a n : Nat) : (nudge s a n).hbm = s.hbm := rfl
@[simp] theorem nudge_full (s : State) (a n : Nat) : (nudge s a n).full = s.full := rfl
@[simp] theorem nudge_clen (s : State) (a n : Nat) : (nudge s a n).clen = s.clen := rfl
@[simp] theorem nudge_comps (s : State) (a n : Nat) : (nudge s a n).comps = s.comps := rfl
@[simp] theorem nudge_poison (s : State) (a n : Nat) : (nudge s a n).poison = s.poison := rfl
@[simp] theorem nudge_granules (s : State) (a n : Nat) : (nudge s a n).granules = s.granules := rfl
@[simp] theorem nudge_links (s : State) (a n : Nat) : (nudge s a n).links = s.links := rfl
@[simp] theorem nudge_dlinks (s : State) (a n : Nat) : (nudge s a n).dlinks = s.dlinks := rfl
@[simp] theorem nudge_tcache (s : State) (a n : Nat) : (nudge s a n).tcache = s.tcache := rfl
@[simp] theorem nudge_pins (s : State) (a n : Nat) : (nudge s a n).pins = s.pins := rfl
@[simp] theorem nudge_reqs (s : State) (a n : Nat) : (nudge s a n).reqs = s.reqs := rfl
@[simp] theorem nudge_hostWaits (s : State) (a n : Nat) : (nudge s a n).hostWaits = s.hostWaits := rfl
@[simp] theorem nudge_ports (s : State) (a n : Nat) : (nudge s a n).ports = s.ports := rfl
@[simp] theorem nudge_booted (s : State) (a n : Nat) : (nudge s a n).booted = s.booted := rfl
@[simp] theorem nudge_fw (s : State) (a n : Nat) : (nudge s a n).fw = s.fw := rfl
@[simp] theorem nudge_running (s : State) (a n : Nat) : (nudge s a n).running = s.running := rfl
@[simp] theorem nudge_update (s : State) (a n : Nat) : (nudge s a n).update = s.update := rfl
@[simp] theorem nudge_pendingSwitch (s : State) (a n : Nat) : (nudge s a n).pendingSwitch = s.pendingSwitch := rfl
@[simp] theorem nudge_sediment (s : State) (a n : Nat) : (nudge s a n).sediment = s.sediment := rfl
@[simp] theorem nudge_sedSeq (s : State) (a n : Nat) : (nudge s a n).sedSeq = s.sedSeq := rfl
@[simp] theorem nudge_nvram (s : State) (a n : Nat) : (nudge s a n).nvram = s.nvram := rfl
@[simp] theorem nudge_nvNext (s : State) (a n : Nat) : (nudge s a n).nvNext = s.nvNext := rfl
@[simp] theorem nudge_spares (s : State) (a n : Nat) : (nudge s a n).spares = s.spares := rfl
@[simp] theorem nudge_pcs (s : State) (a n : Nat) : (nudge s a n).pcs = s.pcs := rfl
@[simp] theorem nudge_rowspares (s : State) (a n : Nat) : (nudge s a n).rowspares = s.rowspares := rfl
@[simp] theorem nudge_hbmErrs (s : State) (a n : Nat) : (nudge s a n).hbmErrs = s.hbmErrs := rfl
@[simp] theorem nudge_lastPart (s : State) (a n : Nat) : (nudge s a n).lastPart = s.lastPart := rfl
@[simp] theorem nudge_order (s : State) (a n : Nat) : (nudge s a n).order = s.order := rfl
@[simp] theorem nudge_nextLaunch (s : State) (a n : Nat) : (nudge s a n).nextLaunch = s.nextLaunch := rfl
@[simp] theorem nudge_cutOrder (s : State) (a n : Nat) : (nudge s a n).cutOrder = s.cutOrder := rfl
@[simp] theorem nudge_dredges (s : State) (a n : Nat) : (nudge s a n).dredges = s.dredges := rfl
@[simp] theorem nudge_primes (s : State) (a n : Nat) : (nudge s a n).primes = s.primes := rfl

/-! ### hbmPut -/

@[simp] theorem hbmPut_todo (s : State) (a : Nat) (bs : List Byte) : (hbmPut s a bs).todo = s.todo := by simp [hbmPut]
@[simp] theorem hbmPut_fresh (s : State) (a : Nat) (bs : List Byte) : (hbmPut s a bs).fresh = s.fresh := by simp [hbmPut]
@[simp] theorem hbmPut_agent (s : State) (a : Nat) (bs : List Byte) : (hbmPut s a bs).agent = s.agent := by simp [hbmPut]
@[simp] theorem hbmPut_now (s : State) (a : Nat) (bs : List Byte) : (hbmPut s a bs).now = s.now := by simp [hbmPut]
@[simp] theorem hbmPut_regions (s : State) (a : Nat) (bs : List Byte) : (hbmPut s a bs).regions = s.regions := by simp [hbmPut]
@[simp] theorem hbmPut_launches (s : State) (a : Nat) (bs : List Byte) : (hbmPut s a bs).launches = s.launches := by simp [hbmPut]
@[simp] theorem hbmPut_parts (s : State) (a : Nat) (bs : List Byte) : (hbmPut s a bs).parts = s.parts := by simp [hbmPut]
@[simp] theorem hbmPut_conns (s : State) (a : Nat) (bs : List Byte) : (hbmPut s a bs).conns = s.conns := by simp [hbmPut]
@[simp] theorem hbmPut_host (s : State) (a : Nat) (bs : List Byte) : (hbmPut s a bs).host = s.host := by simp [hbmPut]
@[simp] theorem hbmPut_full (s : State) (a : Nat) (bs : List Byte) : (hbmPut s a bs).full = s.full := by simp [hbmPut]
@[simp] theorem hbmPut_comps (s : State) (a : Nat) (bs : List Byte) : (hbmPut s a bs).comps = s.comps := by simp [hbmPut]
@[simp] theorem hbmPut_poison (s : State) (a : Nat) (bs : List Byte) : (hbmPut s a bs).poison = s.poison := by simp [hbmPut]
@[simp] theorem hbmPut_granules (s : State) (a : Nat) (bs : List Byte) : (hbmPut s a bs).granules = s.granules := by simp [hbmPut]
@[simp] theorem hbmPut_links (s : State) (a : Nat) (bs : List Byte) : (hbmPut s a bs).links = s.links := by simp [hbmPut]
@[simp] theorem hbmPut_dlinks (s : State) (a : Nat) (bs : List Byte) : (hbmPut s a bs).dlinks = s.dlinks := by simp [hbmPut]
@[simp] theorem hbmPut_tcache (s : State) (a : Nat) (bs : List Byte) : (hbmPut s a bs).tcache = s.tcache := by simp [hbmPut]
@[simp] theorem hbmPut_pins (s : State) (a : Nat) (bs : List Byte) : (hbmPut s a bs).pins = s.pins := by simp [hbmPut]
@[simp] theorem hbmPut_reqs (s : State) (a : Nat) (bs : List Byte) : (hbmPut s a bs).reqs = s.reqs := by simp [hbmPut]
@[simp] theorem hbmPut_hostWaits (s : State) (a : Nat) (bs : List Byte) : (hbmPut s a bs).hostWaits = s.hostWaits := by simp [hbmPut]
@[simp] theorem hbmPut_ports (s : State) (a : Nat) (bs : List Byte) : (hbmPut s a bs).ports = s.ports := by simp [hbmPut]
@[simp] theorem hbmPut_booted (s : State) (a : Nat) (bs : List Byte) : (hbmPut s a bs).booted = s.booted := by simp [hbmPut]
@[simp] theorem hbmPut_fw (s : State) (a : Nat) (bs : List Byte) : (hbmPut s a bs).fw = s.fw := by simp [hbmPut]
@[simp] theorem hbmPut_running (s : State) (a : Nat) (bs : List Byte) : (hbmPut s a bs).running = s.running := by simp [hbmPut]
@[simp] theorem hbmPut_update (s : State) (a : Nat) (bs : List Byte) : (hbmPut s a bs).update = s.update := by simp [hbmPut]
@[simp] theorem hbmPut_pendingSwitch (s : State) (a : Nat) (bs : List Byte) : (hbmPut s a bs).pendingSwitch = s.pendingSwitch := by simp [hbmPut]
@[simp] theorem hbmPut_sediment (s : State) (a : Nat) (bs : List Byte) : (hbmPut s a bs).sediment = s.sediment := by simp [hbmPut]
@[simp] theorem hbmPut_sedSeq (s : State) (a : Nat) (bs : List Byte) : (hbmPut s a bs).sedSeq = s.sedSeq := by simp [hbmPut]
@[simp] theorem hbmPut_nvram (s : State) (a : Nat) (bs : List Byte) : (hbmPut s a bs).nvram = s.nvram := by simp [hbmPut]
@[simp] theorem hbmPut_nvNext (s : State) (a : Nat) (bs : List Byte) : (hbmPut s a bs).nvNext = s.nvNext := by simp [hbmPut]
@[simp] theorem hbmPut_spares (s : State) (a : Nat) (bs : List Byte) : (hbmPut s a bs).spares = s.spares := by simp [hbmPut]
@[simp] theorem hbmPut_pcs (s : State) (a : Nat) (bs : List Byte) : (hbmPut s a bs).pcs = s.pcs := by simp [hbmPut]
@[simp] theorem hbmPut_rowspares (s : State) (a : Nat) (bs : List Byte) : (hbmPut s a bs).rowspares = s.rowspares := by simp [hbmPut]
@[simp] theorem hbmPut_hbmErrs (s : State) (a : Nat) (bs : List Byte) : (hbmPut s a bs).hbmErrs = s.hbmErrs := by simp [hbmPut]
@[simp] theorem hbmPut_lastPart (s : State) (a : Nat) (bs : List Byte) : (hbmPut s a bs).lastPart = s.lastPart := by simp [hbmPut]
@[simp] theorem hbmPut_order (s : State) (a : Nat) (bs : List Byte) : (hbmPut s a bs).order = s.order := by simp [hbmPut]
@[simp] theorem hbmPut_nextLaunch (s : State) (a : Nat) (bs : List Byte) : (hbmPut s a bs).nextLaunch = s.nextLaunch := by simp [hbmPut]
@[simp] theorem hbmPut_cutOrder (s : State) (a : Nat) (bs : List Byte) : (hbmPut s a bs).cutOrder = s.cutOrder := by simp [hbmPut]
@[simp] theorem hbmPut_dredges (s : State) (a : Nat) (bs : List Byte) : (hbmPut s a bs).dredges = s.dredges := by simp [hbmPut]
@[simp] theorem hbmPut_primes (s : State) (a : Nat) (bs : List Byte) : (hbmPut s a bs).primes = s.primes := by simp [hbmPut]

@[simp] theorem setR_regions (s : State) (r : Nat) (x : Region) : (setR s r x).regions = aSet s.regions r x := rfl
@[simp] theorem setL_launches (s : State) (l : Nat) (x : Launch) : (setL s l x).launches = aSet s.launches l x := rfl
@[simp] theorem setP_parts (s : State) (p : Nat) (x : Partition) : (setP s p x).parts = aSet s.parts p x := rfl
@[simp] theorem hbmPut_hbm (s : State) (a : Nat) (bs : List Byte) : (hbmPut s a bs).hbm = memWriteN s.hbm a bs := by simp [hbmPut]

end Sys2Proof.Machine
end

