-- ==== Sys2Proof/Laws/Ops.lean ====
section
/-!
SUPPORT. What the shared operations do, said once: places after an update, the issue of an instruction, the firing of
tokens, and taking a trap and returning from one.
-/

namespace Sys2Proof.Machine

/-! ## Places -/

@[simp] theorem getR_setR_same (s : State) (r : Nat) (x : Region) : getR (setR s r x) r = x := by simp [getR]
theorem getR_setR_other (s : State) {r q : Nat} (x : Region) (h : q ≠ r) : getR (setR s r x) q = getR s q := by
  simp [getR, aGet_set_other _ _ _ h]
@[simp] theorem setR_setR (s : State) (r : Nat) (x y : Region) : setR (setR s r x) r y = setR s r y := by simp [setR]
@[simp] theorem getH_setH_same (s : State) (r : Nat) (h : Helm) : getH (setH s r h) r = h := by simp [getH, setH]
theorem getH_setH_other (s : State) {r q : Nat} (h : Helm) (n : q ≠ r) : getH (setH s r h) q = getH s q := by
  simp [getH, setH, getR_setR_other _ _ n]
@[simp] theorem setH_setH (s : State) (r : Nat) (g h : Helm) : setH (setH s r g) r h = setH s r h := by simp [setH]
theorem getR_setH_same (s : State) (r : Nat) (h : Helm) : getR (setH s r h) r = { getR s r with helm := h } := by
  simp [setH]
@[simp] theorem getE_setE_same (s : State) (r e : Nat) (x : Elem) : getE (setE s r e x) r e = x := by simp [getE, setE]
@[simp] theorem getN_setN_same (s : State) (r e c : Nat) (n : Node) : getN (setN s r e c n) r e c = n := by
  unfold getN setN; split <;> simp
@[simp] theorem here_setHere (s : State) (n : Node) : here (setHere s n) = n := by simp [here, setHere]
@[simp] theorem getL_setL_same (s : State) (l : Nat) (x : Launch) : getL (setL s l x) l = some x := by simp [getL]
theorem getL_setL_other (s : State) {l m : Nat} (x : Launch) (h : m ≠ l) : getL (setL s l x) m = getL s m := by
  simp [getL, aFind_set_other _ _ h]
@[simp] theorem getP_setP_same (s : State) (p : Nat) (x : Partition) : getP (setP s p x) p = x := by simp [getP]
theorem getP_setP_other (s : State) {p q : Nat} (x : Partition) (h : q ≠ p) : getP (setP s p x) q = getP s q := by
  simp [getP, aGet_set_other _ _ _ h]

/-- A helm core's context is its node. -/
theorem here_helm {s : State} {r : Nat} (h : s.agent = .helm r) : here s = (getH s r).node := by
  simp [here, h, agentAt, getN]

theorem setHere_helm {s : State} {r : Nat} (h : s.agent = .helm r) (n : Node) :
    setHere s n = setH s r { getH s r with node := n } := by
  simp [setHere, h, agentAt, setN]

theorem isHelm_helm {s : State} {r : Nat} (h : s.agent = .helm r) : isHelm s = true := by simp [isHelm, h]

/-! ## Issue -/

/-- An instruction that issues answers with its own effect, completed (R75, R86, R389). -/
theorem issue_eq {i : Instr} {s : State} (h : Issues i s) (body : State → Effect) :
    issue i s body = (match body s with
      | .done s' => .next (finish s' (wordOf i) (trigOf i s) none)
      | .jump s' pc => .next (finish s' (wordOf i) (trigOf i s) (some pc))
      | .wait k s' => .next (match s'.agent with
        | .helm r => setH s' r (standAt s' (getH s' r) k)
        | .elem .. => holdHere s')
      | .hold s' => .next s'
      | .trap t => .next (faultHere s t)
      | .trapFrom s' t => .next (faultHere s' t)
      | .absent pa => .fault (.absentMemory pa)) := by
  obtain ⟨h1, h2, h3⟩ := h
  cases ha : s.agent with
  | helm r =>
    obtain ⟨h4, h5⟩ := h3 r ha
    simp only [issue, h1, h2, ha, h4, h5, trigOf]
    cases body s <;> rfl
  | elem r e c k =>
    simp only [issue, h1, h2, ha, trigOf]
    cases body s <;> rfl

/-- An instruction whose own effect is done. -/
theorem issue_done {i : Instr} {s s' : State} (h : Issues i s) {body : State → Effect} (hb : body s = .done s') :
    issue i s body = .next (finish s' (wordOf i) (trigOf i s) none) := by rw [issue_eq h, hb]

theorem issue_jump {i : Instr} {s s' : State} {pc : BitVec 20} (h : Issues i s) {body : State → Effect}
    (hb : body s = .jump s' pc) : issue i s body = .next (finish s' (wordOf i) (trigOf i s) (some pc)) := by
  rw [issue_eq h, hb]

theorem issue_trap {i : Instr} {s : State} {t : Trap} (h : Issues i s) {body : State → Effect} (hb : body s = .trap t) :
    issue i s body = .next (faultHere s t) := by rw [issue_eq h, hb]

theorem issue_hold {i : Instr} {s s' : State} (h : Issues i s) {body : State → Effect} (hb : body s = .hold s') :
    issue i s body = .next s' := by rw [issue_eq h, hb]

/-- A one-cycle firing, or any firing of a helm core, writes its context and completes (R71, R75, R86). -/
theorem issueFire_next {i : Instr} {s : State} {long : Bool} {f : Node → Except Trap Fire} {x : Fire} {n : Node}
    (h : Issues i s) (hl : long = true → isHelm s = true) (hf : f (here s) = .ok x)
    (hc : commitFire (here s) x = .ok n) : issueFire i s long f = .next (retire i s n) := by
  unfold issueFire retire
  apply issue_done h
  simp only [hf, hc]
  cases ha : s.agent with
  | helm r => rfl
  | elem r e c k =>
    cases long with
    | false => rfl
    | true => simp [isHelm, ha] at hl

/-- A firing that meets a fault takes it and has no effect (R389). -/
theorem issueFire_fault {i : Instr} {s : State} {long : Bool} {f : Node → Except Trap Fire} {t : Trap}
    (h : Issues i s) (hl : long = true → isHelm s = true) (hf : f (here s) = .error t) :
    issueFire i s long f = .next (faultHere s t) := by
  unfold issueFire
  apply issue_trap h
  simp only [hf]
  cases ha : s.agent with
  | helm r => rfl
  | elem r e c k =>
    cases long with
    | false => rfl
    | true => simp [isHelm, ha] at hl

/-- An operation of more than one cycle is held in its element's context, with nothing written (R71, R244). -/
theorem issueFire_flight {i : Instr} {s : State} {f : Node → Except Trap Fire} {x : Fire} {n : Node}
    {r e c k : Nat} (h : Issues i s) (ha : s.agent = .elem r e c k) (hf : f (here s) = .ok x)
    (hc : commitFire (here s) x = .ok n) :
    issueFire i s true f =
      .next (bkHere (setHere s { here s with flight := some { slot := k, fire := x, trap := none } })) := by
  unfold issueFire
  apply issue_hold h
  simp only [hf, hc, ha, if_true]

/-- A firing of registers only. -/
@[simp] theorem commitFire_regs (n : Node) (r : Regs) : commitFire n (fireRegs r) = .ok { n with regs := r } := rfl

/-- A firing that raises no flag keeps hs.fp (R190, R191). -/
@[simp] theorem withFlags_zero (r : Regs) : withFlags r 0 = .ok r := by
  simp [withFlags, fpRaise]

/-- Leaving its banks changes the lists of the access's own region alone (R123). -/
theorem bankLeave_held {s : State} (h : holdsClass s 1 = true) : bankLeave s = s := by simp [bankLeave, h]

@[simp] theorem bankDrop_agent (s : State) (a : Agent) : (bankDrop s a).agent = s.agent := by
  unfold bankDrop; dsimp only; split <;> simp

@[simp] theorem getH_bankDrop (s : State) (a : Agent) (r : Nat) : getH (bankDrop s a) r = getH s r := by
  unfold bankDrop; dsimp only; split
  · rfl
  · unfold getH
    by_cases h : r = agentR a
    · subst h; simp
    · rw [getR_setR_other _ _ h]

@[simp] theorem here_bankDrop (s : State) (a : Agent) : here (bankDrop s a) = here s := by
  unfold bankDrop; dsimp only; split
  · rfl
  · simp only [here, setR_agent]
    unfold getN getE getH
    by_cases h : (agentAt s.agent).1 = agentR a
    · rw [h]; simp
    · rw [getR_setR_other _ _ h]

@[simp] theorem bankLeave_agent (s : State) : (bankLeave s).agent = s.agent := by
  unfold bankLeave; split <;> simp

@[simp] theorem getH_bankLeave (s : State) (r : Nat) : getH (bankLeave s) r = getH s r := by
  unfold bankLeave; split <;> simp

@[simp] theorem here_bankLeave (s : State) : here (bankLeave s) = here s := by
  unfold bankLeave; split <;> simp

/-- A helm core's instruction is counted, its context retired, and the next word follows (R86). -/
theorem finish_helm {s : State} {r : Nat} (h : s.agent = .helm r) (w : W32) (e : W64) (pc : Option (BitVec 20)) :
    finish s w e pc = setR (bankLeave s) r { getR (bankLeave s) r with moved := true, helm := { countH (getH s r) 0 with
      node := afterFire (getH s r).node (codesOf w) e, pc := pc.getD ((getH s r).pc + 4), wait := .none } } := by
  have k := getH_bankLeave s r
  unfold getH at k
  simp [finish, heldHere, isHelm, bkHere, complete, h, countH, getH, k]

/-- A helm core's instruction that writes its context: the whole next state (R86). -/
theorem retire_helm {i : Instr} {s : State} {r : Nat} (h : s.agent = .helm r) (n : Node) :
    retire i s n = let t := bankLeave (setHere s n)
      setR t r { getR t r with moved := true, helm := { countH (getH s r) 0 with
        node := afterFire n (codesOf (wordOf i)) (trigOf i s), pc := (getH s r).pc + 4, wait := .none } } := by
  unfold retire
  rw [finish_helm (r := r) (by simpa using h), setHere_helm h]
  simp [countH]

end Sys2Proof.Machine
end

