-- ==== Sys2Proof/Laws/Int.lean ====
section
/-!
SUPPORT. The element functions of the integer group as operations on words of the element's width (R245 to R247).
-/

namespace Sys2Proof.Machine

variable {ty : Nat} (d a b : BitVec (eltWidth ty))

theorem eltWidth_pos (ty : Nat) : 0 < eltWidth ty := by unfold eltWidth; split <;> decide

theorem toSigned_toInt {w : Nat} (x : BitVec w) (hw : 0 < w) : toSigned w x.toNat = x.toInt := by
  unfold toSigned
  rw [BitVec.toInt_eq_toNat_cond]
  have : 2 * 2 ^ (w - 1) = 2 ^ w := by rw [← Nat.pow_succ']; congr 1; omega
  split <;> split <;> first | rfl | omega

theorem eltInt_signed (h : tySigned ty = true) : eltInt ty a.toNat = a.toInt := by
  simp [eltInt, h, toSigned_toInt a (eltWidth_pos ty)]

theorem eltInt_unsigned (h : tySigned ty = false) : eltInt ty a.toNat = (a.toNat : Int) := by simp [eltInt, h]

theorem wrapInt_ofInt (w : Nat) (v : Int) : wrapInt w v = (BitVec.ofInt w v).toNat := by
  simp [wrapInt, BitVec.toNat_ofInt]

theorem eAdd_bv : eAdd ty d.toNat a.toNat b.toNat = ((a + b).toNat, 0) := by simp [eAdd]
theorem eSub_bv : eSub ty d.toNat a.toNat b.toNat = ((a - b).toNat, 0) := by
  simp only [eSub, wrapInt_ofInt, Int.sub_eq_add_neg, BitVec.ofInt_add, BitVec.ofInt_neg, BitVec.ofInt_natCast,
    BitVec.ofNat_toNat, BitVec.setWidth_eq, ← BitVec.sub_eq_add_neg]
theorem eMul_bv : eMul ty d.toNat a.toNat b.toNat = ((a * b).toNat, 0) := by simp [eMul]
theorem eMad_bv : eMad ty d.toNat a.toNat b.toNat = ((d + a * b).toNat, 0) := by simp [eMad]
theorem eNeg_bv : eNeg ty d.toNat a.toNat b.toNat = ((-a).toNat, 0) := by
  simp only [eNeg, wrapInt_ofInt, BitVec.ofInt_neg, BitVec.ofInt_natCast, BitVec.ofNat_toNat, BitVec.setWidth_eq]
theorem eAnd_bv : eAnd ty d.toNat a.toNat b.toNat = ((a &&& b).toNat, 0) := by simp [eAnd]
theorem eOr_bv : eOr ty d.toNat a.toNat b.toNat = ((a ||| b).toNat, 0) := by simp [eOr]
theorem eXor_bv : eXor ty d.toNat a.toNat b.toNat = ((a ^^^ b).toNat, 0) := by simp [eXor]
theorem eAndn_bv : eAndn ty d.toNat a.toNat b.toNat = ((a &&& ~~~b).toNat, 0) := by
  simp [eAndn, BitVec.toNat_not]
theorem eShl_bv : eShl ty d.toNat a.toNat b.toNat = ((a <<< (b.toNat % eltWidth ty)).toNat, 0) := by
  simp [eShl, Nat.shiftLeft_eq]
theorem eShr_bv : eShr ty d.toNat a.toNat b.toNat = ((a >>> (b.toNat % eltWidth ty)).toNat, 0) := by
  simp [eShr, Nat.shiftRight_eq_div_pow]
theorem eSar_bv : eSar ty d.toNat a.toNat b.toNat = ((a.sshiftRight (b.toNat % eltWidth ty)).toNat, 0) := by
  have h : a.toInt / (2 ^ (b.toNat % eltWidth ty) : Int) = (a.sshiftRight (b.toNat % eltWidth ty)).toInt := by
    rw [BitVec.toInt_sshiftRight, Int.shiftRight_eq_div_pow]; simp
  simp only [eSar, wrapInt_ofInt, toSigned_toInt a (eltWidth_pos ty), h, BitVec.ofInt_toInt]
theorem eDiv_unsigned (h : tySigned ty = false) : eDiv ty d.toNat a.toNat b.toNat =
    ((if b = 0 then BitVec.allOnes (eltWidth ty) else a.udiv b).toNat, 0) := by
  simp only [eDiv, eltInt_unsigned _ h]
  by_cases hb : b = 0
  · simp [hb]
  · have : ¬ b.toNat = 0 := fun c => hb (BitVec.eq_of_toNat_eq (by simpa using c))
    simp only [this, hb, if_false, wrapInt_ofInt, ← Int.ofNat_tdiv, BitVec.ofInt_natCast, BitVec.udiv_eq,
      BitVec.toNat_ofNat, BitVec.toNat_udiv]
    rw [Nat.mod_eq_of_lt (Nat.lt_of_le_of_lt (Nat.div_le_self _ _) a.isLt)]
theorem eDiv_signed (h : tySigned ty = true) : eDiv ty d.toNat a.toNat b.toNat =
    ((if b = 0 then BitVec.allOnes (eltWidth ty) else a.sdiv b).toNat, 0) := by
  simp only [eDiv, eltInt_signed _ h]
  by_cases hb : b = 0
  · simp [hb]
  · have : ¬ b.toNat = 0 := fun c => hb (BitVec.eq_of_toNat_eq (by simpa using c))
    simp only [this, hb, if_false, wrapInt_ofInt]
    congr 2
    apply BitVec.eq_of_toInt_eq
    rw [BitVec.toInt_sdiv, BitVec.toInt_ofInt]
theorem eRem_unsigned (h : tySigned ty = false) : eRem ty d.toNat a.toNat b.toNat =
    ((if b = 0 then a else a.umod b).toNat, 0) := by
  simp only [eRem, eltInt_unsigned _ h]
  by_cases hb : b = 0
  · simp [hb]
  · have : ¬ b.toNat = 0 := fun c => hb (BitVec.eq_of_toNat_eq (by simpa using c))
    simp only [this, hb, if_false, wrapInt_ofInt, ← Int.ofNat_tmod, BitVec.ofInt_natCast, BitVec.umod_eq,
      BitVec.toNat_ofNat, BitVec.toNat_umod]
    rw [Nat.mod_eq_of_lt (Nat.lt_of_le_of_lt (Nat.mod_le _ _) a.isLt)]
theorem eRem_signed (h : tySigned ty = true) : eRem ty d.toNat a.toNat b.toNat =
    ((if b = 0 then a else a.srem b).toNat, 0) := by
  simp only [eRem, eltInt_signed _ h]
  by_cases hb : b = 0
  · simp [hb]
  · have : ¬ b.toNat = 0 := fun c => hb (BitVec.eq_of_toNat_eq (by simpa using c))
    simp only [this, hb, if_false, wrapInt_ofInt, ← BitVec.toInt_srem, BitVec.ofInt_toInt]
theorem eMin_bv : eMin ty d.toNat a.toNat b.toNat =
    ((if eltInt ty a.toNat ≤ eltInt ty b.toNat then a else b).toNat, 0) := by
  simp only [eMin]; split <;> rfl
theorem eMax_bv : eMax ty d.toNat a.toNat b.toNat =
    ((if eltInt ty a.toNat ≤ eltInt ty b.toNat then b else a).toNat, 0) := by
  simp only [eMax]; split <;> rfl
theorem eMulh_bv : eMulh ty d.toNat a.toNat b.toNat =
    ((BitVec.ofInt (eltWidth ty) (eltInt ty a.toNat * eltInt ty b.toNat / 2 ^ eltWidth ty)).toNat, 0) := by
  simp only [eMulh, wrapInt_ofInt]
theorem eAbs_bv : eAbs ty d.toNat a.toNat b.toNat =
    ((if tySigned ty && decide (a.toInt < 0) then -a else a).toNat, 0) := by
  simp only [eAbs]
  cases h : tySigned ty with
  | true =>
    simp only [eltInt_signed _ h, Bool.true_and, decide_eq_true_eq, wrapInt_ofInt, BitVec.ofInt_neg, BitVec.ofInt_toInt]
    split <;> split <;> first | rfl | omega
  | false => simp [eltInt_unsigned _ h]
theorem eSel_bv : eSel ty d.toNat a.toNat b.toNat = ((if d = 0 then b else a).toNat, 0) := by
  simp only [eSel]
  by_cases h : d = 0
  · simp [h]
  · have : ¬ d.toNat = 0 := fun c => h (BitVec.eq_of_toNat_eq (by simpa using c))
    rw [if_pos this, if_neg h]
theorem ones_bv (c : Bool) : ones ty c = (if c then BitVec.allOnes (eltWidth ty) else 0).toNat := by
  cases c <;> simp [ones]
theorem eCmpeq_bv : eCmpeq ty d.toNat a.toNat b.toNat =
    ((if a == b then BitVec.allOnes (eltWidth ty) else 0).toNat, 0) := by
  simp only [eCmpeq, ones_bv]
  by_cases h : a = b
  · simp [h]
  · have : ¬ a.toNat = b.toNat := fun c => h (BitVec.eq_of_toNat_eq c)
    simp [h, this]
theorem eCmpne_bv : eCmpne ty d.toNat a.toNat b.toNat =
    ((if a != b then BitVec.allOnes (eltWidth ty) else 0).toNat, 0) := by
  simp only [eCmpne, ones_bv]
  by_cases h : a = b
  · simp [h]
  · have : ¬ a.toNat = b.toNat := fun c => h (BitVec.eq_of_toNat_eq c)
    simp [h, this]
theorem eMov_bv : eMov ty d.toNat a.toNat b.toNat = (a.toNat, 0) := rfl

/-- Zeros at the top of a number below 2^w. -/
theorem takeWhile_clz (w : Nat) : ∀ x : Nat, x < 2 ^ w → x ≠ 0 →
    ((List.range w).reverse.takeWhile (fun k => !x.testBit k)).length = w - 1 - Nat.log2 x := by
  induction w with
  | zero => intro x h h0; simp at h; omega
  | succ w ih =>
    intro x h h0
    rw [List.range_succ, List.reverse_append]
    simp only [List.reverse_cons, List.reverse_nil, List.nil_append, List.singleton_append, List.takeWhile_cons]
    by_cases hx : x < 2 ^ w
    · have : x.testBit w = false := Nat.testBit_lt_two_pow hx
      have hl : Nat.log2 x < w := (Nat.log2_lt h0).2 hx
      simp only [this, Bool.not_false, if_true, List.length_cons, ih x hx h0]
      omega
    · have hb : x.testBit w = true := by
        rw [Nat.testBit_eq_decide_div_mod_eq]
        have : x / 2 ^ w = 1 := by
          apply Nat.div_eq_of_lt_le <;> rw [Nat.pow_succ] at * <;> omega
        simp [this]
      have hl : Nat.log2 x = w := by
        have h1 : Nat.log2 x < w + 1 := (Nat.log2_lt h0).2 h
        have h2 : ¬ Nat.log2 x < w := fun c => hx ((Nat.log2_lt h0).1 c)
        omega
      simp [hb, hl]
theorem eClz_bv : eClz ty d.toNat a.toNat b.toNat = ((BitVec.ofNat (eltWidth ty)
    (((List.range (eltWidth ty)).reverse.takeWhile (fun k => !a.getLsbD k)).length)).toNat, 0) := by
  have hw : eltWidth ty < 2 ^ eltWidth ty := Nat.lt_two_pow_self
  by_cases h : a.toNat = 0
  · have ha : a = 0#_ := BitVec.eq_of_toNat_eq (by simpa using h)
    have ht : (List.takeWhile (fun _ => true) (List.range (eltWidth ty)).reverse) = (List.range (eltWidth ty)).reverse :=
      (by generalize (List.range (eltWidth ty)).reverse = l; induction l <;> simp_all)
    simp [eClz, ha, ht, Nat.mod_eq_of_lt hw]
  · have := takeWhile_clz (eltWidth ty) a.toNat a.isLt h
    simp only [eClz, h, if_false, BitVec.getLsbD, this, BitVec.toNat_ofNat]
    rw [Nat.mod_eq_of_lt (by omega)]
theorem popCount_filter (x : Nat) : ∀ w, popCount x w = ((List.range w).filter (fun k => x.testBit k)).length := by
  intro w
  induction w with
  | zero => rfl
  | succ w ih => rw [popCount, ih, List.range_succ, List.filter_append]; cases h : x.testBit w <;> simp [h]
theorem ePopc_bv : ePopc ty d.toNat a.toNat b.toNat = ((BitVec.ofNat (eltWidth ty)
    (((List.range (eltWidth ty)).filter (fun k => a.getLsbD k)).length)).toNat, 0) := by
  have hw : eltWidth ty < 2 ^ eltWidth ty := Nat.lt_two_pow_self
  have hl : ((List.range (eltWidth ty)).filter (fun k => a.toNat.testBit k)).length ≤ eltWidth ty := by
    simpa using List.length_filter_le (fun k => a.toNat.testBit k) (List.range (eltWidth ty))
  simp only [ePopc, popCount_filter, BitVec.getLsbD, BitVec.toNat_ofNat]
  rw [Nat.mod_eq_of_lt (by omega)]
theorem eBfx_bv : eBfx ty d.toNat a.toNat b.toNat =
    ((let f := (a >>> (bfDesc (eltWidth ty) b.toNat).1).setWidth (bfDesc (eltWidth ty) b.toNat).2
      if tySigned ty then f.signExtend (eltWidth ty) else f.setWidth (eltWidth ty)).toNat, 0) := by
  simp only [eBfx]
  generalize h : bfDesc (eltWidth ty) b.toNat = p
  obtain ⟨l, n⟩ := p
  have hn : n ≤ eltWidth ty := by simp only [bfDesc, Prod.mk.injEq] at h; omega
  have ht : a.toNat / 2 ^ l % 2 ^ n = ((a >>> l).setWidth n).toNat := by
    simp [Nat.shiftRight_eq_div_pow]
  by_cases h0 : n = 0
  · subst h0; simp only [if_true]
    have : (a >>> l).setWidth 0 = 0#0 := by ext i hi; omega
    rw [this]
    have hs : (0#0).signExtend (eltWidth ty) = 0#(eltWidth ty) := by
      apply BitVec.eq_of_toInt_eq; rw [BitVec.toInt_signExtend]; simp
    split <;> simp [hs]
  · simp only [h0, if_false]
    rw [ht]
    split
    · rw [toSigned_toInt _ (by omega), wrapInt_ofInt]; rfl
    · simp only [BitVec.toNat_setWidth]
      rw [Nat.mod_eq_of_lt (Nat.lt_of_lt_of_le (Nat.mod_lt _ (Nat.two_pow_pos _)) (Nat.pow_le_pow_right (by decide) hn))]
theorem eBfi_bv : eBfi ty d.toNat a.toNat b.toNat =
    ((let m : BitVec (eltWidth ty) := BitVec.ofNat (eltWidth ty) (2 ^ (bfDesc (eltWidth ty) b.toNat).2 - 1) <<<
        (bfDesc (eltWidth ty) b.toNat).1
      (d &&& ~~~m) ||| ((a <<< (bfDesc (eltWidth ty) b.toNat).1) &&& m)).toNat, 0) := by
  simp only [eBfi]
  generalize h : bfDesc (eltWidth ty) b.toNat = p
  obtain ⟨l, n⟩ := p
  have hm : (2 ^ n - 1) * 2 ^ l % 2 ^ eltWidth ty = (BitVec.ofNat (eltWidth ty) (2 ^ n - 1) <<< l).toNat := by
    simp [Nat.shiftLeft_eq]
  simp only [hm, BitVec.toNat_or, BitVec.toNat_and, BitVec.toNat_not, BitVec.toNat_shiftLeft, Nat.shiftLeft_eq,
    Prod.mk.injEq, and_true]
  congr 1
  generalize BitVec.toNat (BitVec.ofNat (eltWidth ty) (2 ^ n - 1)) * 2 ^ l = y
  apply Nat.eq_of_testBit_eq
  intro j
  simp only [Nat.testBit_and, Nat.testBit_mod_two_pow]
  by_cases hj : j < eltWidth ty <;> simp [hj]

end Sys2Proof.Machine
end

