-- ==== Sys2Proof/Laws/Lanes.lean ====
section
/-!
SUPPORT. Lanes of a vector: reading what a list or a function of the lane number gave, and merging under a lane set.
-/

namespace Sys2Proof.Machine

theorem Lanes_get_ofList (l : List W32) : ∀ k, k < 16 → (Lanes.ofList l).get k = l.getD k 0 := by
  induction l with
  | nil => intro k _; simp [Lanes.ofList, Lanes.get]
  | cons x xs ih =>
    intro k hk
    cases k with
    | zero =>
      simp only [Lanes.ofList, Lanes.get, List.getD_cons_zero]
      ext i hi
      simp only [BitVec.getElem_extractLsb', BitVec.getLsbD_or, BitVec.getLsbD_setWidth, BitVec.getLsbD_shiftLeft]
      simp [hi]
      omega
    | succ k =>
      rw [List.getD_cons_succ, ← ih k (by omega)]
      simp only [Lanes.ofList, Lanes.get]
      ext i hi
      simp only [BitVec.getElem_extractLsb', BitVec.getLsbD_or, BitVec.getLsbD_setWidth, BitVec.getLsbD_shiftLeft]
      have h1 : 32 * (k + 1) + i < 512 := by omega
      have h2 : ¬ 32 * (k + 1) + i < 32 := by omega
      have h3 : 32 * (k + 1) + i - 32 = 32 * k + i := by omega
      have h4 : x.getLsbD (32 * (k + 1) + i) = false := BitVec.getLsbD_of_ge _ _ (by omega)
      simp [h1, h2, h3, h4]

@[simp] theorem Lanes_get_ofFn (f : Nat → W32) {k : Nat} (h : k < 16) : (Lanes.ofFn f).get k = f k := by
  rw [Lanes.ofFn, Lanes_get_ofList _ _ h]
  simp [List.getD, h]

theorem Lanes_ofFn_congr {f g : Nat → W32} (h : ∀ k, k < 16 → f k = g k) : Lanes.ofFn f = Lanes.ofFn g := by
  unfold Lanes.ofFn
  congr 1
  exact List.map_congr_left (fun k hk => h k (List.mem_range.1 hk))

/-- Only the lanes of the set matter to a merge. -/
theorem mergeLanes_congr {m : BitVec 16} {x y old : Lanes} (h : ∀ k, k < 16 → maskBit m k = true → x.get k = y.get k) :
    mergeLanes m x old = mergeLanes m y old := by
  unfold mergeLanes
  apply Lanes_ofFn_congr
  intro k hk
  split
  · exact h k hk ‹_›
  · rfl

/-- A lane of a merge. -/
theorem mergeLanes_get (m : BitVec 16) (x old : Lanes) {k : Nat} (h : k < 16) :
    (mergeLanes m x old).get k = if maskBit m k then x.get k else old.get k := by
  simp [mergeLanes, h]

theorem foldl_zero {α : Type} (f : α → BitVec 5) (l : List α) (h : ∀ x ∈ l, f x = 0) (z : BitVec 5) :
    l.foldl (fun acc r => acc ||| f r) z = z := by
  induction l generalizing z with
  | nil => rfl
  | cons x xs ih =>
    rw [List.foldl_cons, h x (by simp), ih (fun y hy => h y (by simp [hy]))]
    simp

/-- An element function that raises no flag, over the lanes of a set. -/
theorem onLanes_flagless {w : Nat} {f : EltFn} {m : BitVec 16} {d a b : Lanes} {g : Nat → W32}
    (h : ∀ k, k < 16 → onLane w f (d.get k) (a.get k) (b.get k) = (g k, 0)) :
    (onLanes w f m d a b).2 = 0 ∧ ∀ old, mergeLanes m (onLanes w f m d a b).1 old = mergeLanes m (Lanes.ofFn g) old := by
  constructor
  · unfold onLanes
    apply foldl_zero
    intro x hx
    simp only [List.mem_map, List.mem_range] at hx
    obtain ⟨k, hk, rfl⟩ := hx
    split
    · rw [h k hk]
    · rfl
  · intro old
    apply mergeLanes_congr
    intro k hk hm
    unfold onLanes
    rw [Lanes_get_ofFn _ hk, Lanes_get_ofList _ _ hk]
    simp [List.getD, hk, hm, h]

end Sys2Proof.Machine
end

