-- ==== Sys2Proof/Laws/PerInstr.lean ====
section
/-!
SUPPORT. Decoding undoes encoding, one lemma for each constructor of the syntax (R220, R228, R229).
-/

set_option Elab.async false

namespace Sys2Proof.Laws.RoundTrip

/-- The word of a well-formed instruction decodes to that instruction. -/
def Statement (i : Instr) : Prop := i.wf = true → ∀ w, encode i = some w → decodeWord w = .ok i

theorem notPair {d a : BitVec 5} {s : BitVec 3} (h : isPairForm d a s = false) :
    ¬ (BitVec.extractLsb' 3 2 a = 2#2 ∧ BitVec.extractLsb' 0 1 s = 0#1 ∧ (8 ≤ d.toNat → 15 < d.toNat)) := by
  rintro ⟨h1, h2, h3⟩
  simp_all [isPairForm, isScalarCode]
  omega

theorem nop (t : BitVec 6) : Statement (.nop t) := by
  intro hwf w h; cases h; simp [decodeWord_pack, decodeFields, decodeRow0]
theorem mov (t : BitVec 6) (d : BitVec 5) (a : BitVec 5) (y : BitVec 3) : Statement (.mov t d a y) := by
  intro hwf w h; cases h; simp [decodeWord_pack, decodeFields, decodeRow0]
theorem movi (t : BitVec 6) (d : BitVec 5) (i : BitVec 13) : Statement (.movi t d i) := by
  intro hwf w h; cases h; simp [decodeWord_pack, decodeFields, decodeRow0]
theorem movsh (t : BitVec 6) (d : BitVec 5) (i : BitVec 13) : Statement (.movsh t d i) := by
  intro hwf w h; cases h; simp [decodeWord_pack, decodeFields, decodeRow0]
theorem add (t : BitVec 6) (d : BitVec 5) (a : BitVec 5) (b : BitVec 5) (y : BitVec 3) : Statement (.add t d a b y) := by
  intro hwf w h; cases h; simp [decodeWord_pack, decodeFields, decodeRow0]
theorem addi (t : BitVec 6) (d : BitVec 5) (a : BitVec 5) (i : BitVec 8) : Statement (.addi t d a i) := by
  intro hwf w h; cases h; simp [decodeWord_pack, decodeFields, decodeRow0]
theorem sub (t : BitVec 6) (d : BitVec 5) (a : BitVec 5) (b : BitVec 5) (y : BitVec 3) : Statement (.sub t d a b y) := by
  intro hwf w h; cases h; simp [decodeWord_pack, decodeFields, decodeRow0]
theorem adds (t : BitVec 6) (d : BitVec 5) (a : BitVec 5) (b : BitVec 5) (y : BitVec 3) : Statement (.adds t d a b y) := by
  intro hwf w h; cases h; simp [decodeWord_pack, decodeFields, decodeRow0]
theorem subs (t : BitVec 6) (d : BitVec 5) (a : BitVec 5) (b : BitVec 5) (y : BitVec 3) : Statement (.subs t d a b y) := by
  intro hwf w h; cases h; simp [decodeWord_pack, decodeFields, decodeRow0]
theorem mul (t : BitVec 6) (d : BitVec 5) (a : BitVec 5) (b : BitVec 5) (y : BitVec 3) : Statement (.mul t d a b y) := by
  intro hwf w h; cases h; simp [decodeWord_pack, decodeFields, decodeRow0]
theorem mulh (t : BitVec 6) (d : BitVec 5) (a : BitVec 5) (b : BitVec 5) (y : BitVec 3) : Statement (.mulh t d a b y) := by
  intro hwf w h; cases h; simp [decodeWord_pack, decodeFields, decodeRow0]
theorem mad (t : BitVec 6) (d : BitVec 5) (a : BitVec 5) (b : BitVec 5) (y : BitVec 3) : Statement (.mad t d a b y) := by
  intro hwf w h; cases h; simp [decodeWord_pack, decodeFields, decodeRow0]
theorem div (t : BitVec 6) (d : BitVec 5) (a : BitVec 5) (b : BitVec 5) (y : BitVec 3) : Statement (.div t d a b y) := by
  intro hwf w h; cases h; simp [decodeWord_pack, decodeFields, decodeRow0]
theorem rem (t : BitVec 6) (d : BitVec 5) (a : BitVec 5) (b : BitVec 5) (y : BitVec 3) : Statement (.rem t d a b y) := by
  intro hwf w h; cases h; simp [decodeWord_pack, decodeFields, decodeRow0]
theorem min (t : BitVec 6) (d : BitVec 5) (a : BitVec 5) (b : BitVec 5) (y : BitVec 3) : Statement (.min t d a b y) := by
  intro hwf w h; cases h; simp [decodeWord_pack, decodeFields, decodeRow0]
theorem max (t : BitVec 6) (d : BitVec 5) (a : BitVec 5) (b : BitVec 5) (y : BitVec 3) : Statement (.max t d a b y) := by
  intro hwf w h; cases h; simp [decodeWord_pack, decodeFields, decodeRow0]
theorem abs (t : BitVec 6) (d : BitVec 5) (a : BitVec 5) (y : BitVec 3) : Statement (.abs t d a y) := by
  intro hwf w h; cases h; simp [decodeWord_pack, decodeFields, decodeRow1]
theorem neg (t : BitVec 6) (d : BitVec 5) (a : BitVec 5) (y : BitVec 3) : Statement (.neg t d a y) := by
  intro hwf w h; cases h; simp [decodeWord_pack, decodeFields, decodeRow1]
theorem and (t : BitVec 6) (d : BitVec 5) (a : BitVec 5) (b : BitVec 5) (y : BitVec 3) : Statement (.and t d a b y) := by
  intro hwf w h; cases h; simp [decodeWord_pack, decodeFields, decodeRow1]
theorem andi (t : BitVec 6) (d : BitVec 5) (a : BitVec 5) (i : BitVec 8) : Statement (.andi t d a i) := by
  intro hwf w h; cases h; simp [decodeWord_pack, decodeFields, decodeRow1]
theorem or (t : BitVec 6) (d : BitVec 5) (a : BitVec 5) (b : BitVec 5) (y : BitVec 3) : Statement (.or t d a b y) := by
  intro hwf w h; cases h; simp [decodeWord_pack, decodeFields, decodeRow1]
theorem ori (t : BitVec 6) (d : BitVec 5) (a : BitVec 5) (i : BitVec 8) : Statement (.ori t d a i) := by
  intro hwf w h; cases h; simp [decodeWord_pack, decodeFields, decodeRow1]
theorem xor (t : BitVec 6) (d : BitVec 5) (a : BitVec 5) (b : BitVec 5) (y : BitVec 3) : Statement (.xor t d a b y) := by
  intro hwf w h; cases h; simp [decodeWord_pack, decodeFields, decodeRow1]
theorem andn (t : BitVec 6) (d : BitVec 5) (a : BitVec 5) (b : BitVec 5) (y : BitVec 3) : Statement (.andn t d a b y) := by
  intro hwf w h; cases h; simp [decodeWord_pack, decodeFields, decodeRow1]
theorem shl (t : BitVec 6) (d : BitVec 5) (a : BitVec 5) (b : BitVec 5) (y : BitVec 3) : Statement (.shl t d a b y) := by
  intro hwf w h; cases h; simp [decodeWord_pack, decodeFields, decodeRow1]
theorem shli (t : BitVec 6) (d : BitVec 5) (a : BitVec 5) (i : BitVec 8) : Statement (.shli t d a i) := by
  intro hwf w h; cases h; simp [decodeWord_pack, decodeFields, decodeRow1]
theorem shr (t : BitVec 6) (d : BitVec 5) (a : BitVec 5) (b : BitVec 5) (y : BitVec 3) : Statement (.shr t d a b y) := by
  intro hwf w h; cases h; simp [decodeWord_pack, decodeFields, decodeRow1]
theorem shri (t : BitVec 6) (d : BitVec 5) (a : BitVec 5) (i : BitVec 8) : Statement (.shri t d a i) := by
  intro hwf w h; cases h; simp [decodeWord_pack, decodeFields, decodeRow1]
theorem sar (t : BitVec 6) (d : BitVec 5) (a : BitVec 5) (b : BitVec 5) (y : BitVec 3) : Statement (.sar t d a b y) := by
  intro hwf w h; cases h; simp [decodeWord_pack, decodeFields, decodeRow1]
theorem clz (t : BitVec 6) (d : BitVec 5) (a : BitVec 5) (y : BitVec 3) : Statement (.clz t d a y) := by
  intro hwf w h; cases h; simp [decodeWord_pack, decodeFields, decodeRow1]
theorem popc (t : BitVec 6) (d : BitVec 5) (a : BitVec 5) (y : BitVec 3) : Statement (.popc t d a y) := by
  intro hwf w h; cases h; simp [decodeWord_pack, decodeFields, decodeRow1]
theorem bfx (t : BitVec 6) (d : BitVec 5) (a : BitVec 5) (b : BitVec 5) (y : BitVec 3) : Statement (.bfx t d a b y) := by
  intro hwf w h; cases h; simp [decodeWord_pack, decodeFields, decodeRow1]
theorem bfi (t : BitVec 6) (d : BitVec 5) (a : BitVec 5) (b : BitVec 5) (y : BitVec 3) : Statement (.bfi t d a b y) := by
  intro hwf w h; cases h; simp [decodeWord_pack, decodeFields, decodeRow2]
theorem sel (t : BitVec 6) (d : BitVec 5) (a : BitVec 5) (b : BitVec 5) (y : BitVec 3) : Statement (.sel t d a b y) := by
  intro hwf w h; cases h; simp [decodeWord_pack, decodeFields, decodeRow2]
theorem cmpeq (t : BitVec 6) (d : BitVec 5) (a : BitVec 5) (b : BitVec 5) (y : BitVec 3) : Statement (.cmpeq t d a b y) := by
  intro hwf w h; cases h; simp [decodeWord_pack, decodeFields, decodeRow2]
theorem cmpne (t : BitVec 6) (d : BitVec 5) (a : BitVec 5) (b : BitVec 5) (y : BitVec 3) : Statement (.cmpne t d a b y) := by
  intro hwf w h; cases h; simp [decodeWord_pack, decodeFields, decodeRow2]
theorem cmplt (t : BitVec 6) (d : BitVec 5) (a : BitVec 5) (b : BitVec 5) (y : BitVec 3) : Statement (.cmplt t d a b y) := by
  intro hwf w h; cases h; simp [decodeWord_pack, decodeFields, decodeRow2]
theorem cmple (t : BitVec 6) (d : BitVec 5) (a : BitVec 5) (b : BitVec 5) (y : BitVec 3) : Statement (.cmple t d a b y) := by
  intro hwf w h; cases h; simp [decodeWord_pack, decodeFields, decodeRow2]
theorem cmpeqi (t : BitVec 6) (d : BitVec 5) (a : BitVec 5) (i : BitVec 8) : Statement (.cmpeqi t d a i) := by
  intro hwf w h; cases h; simp [decodeWord_pack, decodeFields, decodeRow2]
theorem cmplti (t : BitVec 6) (d : BitVec 5) (a : BitVec 5) (i : BitVec 8) : Statement (.cmplti t d a i) := by
  intro hwf w h; cases h; simp [decodeWord_pack, decodeFields, decodeRow2]
theorem fadd (t : BitVec 6) (d : BitVec 5) (a : BitVec 5) (b : BitVec 5) (y : BitVec 3) : Statement (.fadd t d a b y) := by
  intro hwf w h; cases h; simp [decodeWord_pack, decodeFields, decodeRow3]
theorem fsub (t : BitVec 6) (d : BitVec 5) (a : BitVec 5) (b : BitVec 5) (y : BitVec 3) : Statement (.fsub t d a b y) := by
  intro hwf w h; cases h; simp [decodeWord_pack, decodeFields, decodeRow3]
theorem fmul (t : BitVec 6) (d : BitVec 5) (a : BitVec 5) (b : BitVec 5) (y : BitVec 3) : Statement (.fmul t d a b y) := by
  intro hwf w h; cases h; simp [decodeWord_pack, decodeFields, decodeRow3]
theorem ffma (t : BitVec 6) (d : BitVec 5) (a : BitVec 5) (b : BitVec 5) (y : BitVec 3) : Statement (.ffma t d a b y) := by
  intro hwf w h; cases h; simp [decodeWord_pack, decodeFields, decodeRow3]
theorem ffms (t : BitVec 6) (d : BitVec 5) (a : BitVec 5) (b : BitVec 5) (y : BitVec 3) : Statement (.ffms t d a b y) := by
  intro hwf w h; cases h; simp [decodeWord_pack, decodeFields, decodeRow3]
theorem fmin (t : BitVec 6) (d : BitVec 5) (a : BitVec 5) (b : BitVec 5) (y : BitVec 3) : Statement (.fmin t d a b y) := by
  intro hwf w h; cases h; simp [decodeWord_pack, decodeFields, decodeRow3]
theorem fmax (t : BitVec 6) (d : BitVec 5) (a : BitVec 5) (b : BitVec 5) (y : BitVec 3) : Statement (.fmax t d a b y) := by
  intro hwf w h; cases h; simp [decodeWord_pack, decodeFields, decodeRow3]
theorem fabs (t : BitVec 6) (d : BitVec 5) (a : BitVec 5) (y : BitVec 3) : Statement (.fabs t d a y) := by
  intro hwf w h; cases h; simp [decodeWord_pack, decodeFields, decodeRow3]
theorem fneg (t : BitVec 6) (d : BitVec 5) (a : BitVec 5) (y : BitVec 3) : Statement (.fneg t d a y) := by
  intro hwf w h; cases h; simp [decodeWord_pack, decodeFields, decodeRow3]
theorem fcmpeq (t : BitVec 6) (d : BitVec 5) (a : BitVec 5) (b : BitVec 5) (y : BitVec 3) : Statement (.fcmpeq t d a b y) := by
  intro hwf w h; cases h; simp [decodeWord_pack, decodeFields, decodeRow3]
theorem fcmplt (t : BitVec 6) (d : BitVec 5) (a : BitVec 5) (b : BitVec 5) (y : BitVec 3) : Statement (.fcmplt t d a b y) := by
  intro hwf w h; cases h; simp [decodeWord_pack, decodeFields, decodeRow3]
theorem fcmple (t : BitVec 6) (d : BitVec 5) (a : BitVec 5) (b : BitVec 5) (y : BitVec 3) : Statement (.fcmple t d a b y) := by
  intro hwf w h; cases h; simp [decodeWord_pack, decodeFields, decodeRow3]
theorem fcmpun (t : BitVec 6) (d : BitVec 5) (a : BitVec 5) (b : BitVec 5) (y : BitVec 3) : Statement (.fcmpun t d a b y) := by
  intro hwf w h; cases h; simp [decodeWord_pack, decodeFields, decodeRow3]
theorem frcpe (t : BitVec 6) (d : BitVec 5) (a : BitVec 5) (y : BitVec 3) : Statement (.frcpe t d a y) := by
  intro hwf w h; cases h; simp [decodeWord_pack, decodeFields, decodeRow3]
theorem frsqe (t : BitVec 6) (d : BitVec 5) (a : BitVec 5) (y : BitVec 3) : Statement (.frsqe t d a y) := by
  intro hwf w h; cases h; simp [decodeWord_pack, decodeFields, decodeRow3]
theorem fexp2 (t : BitVec 6) (d : BitVec 5) (a : BitVec 5) (y : BitVec 3) : Statement (.fexp2 t d a y) := by
  intro hwf w h; cases h; simp [decodeWord_pack, decodeFields, decodeRow3]
theorem flog2 (t : BitVec 6) (d : BitVec 5) (a : BitVec 5) (y : BitVec 3) : Statement (.flog2 t d a y) := by
  intro hwf w h; cases h; simp [decodeWord_pack, decodeFields, decodeRow4]
theorem fdiv (t : BitVec 6) (d : BitVec 5) (a : BitVec 5) (b : BitVec 5) (y : BitVec 3) : Statement (.fdiv t d a b y) := by
  intro hwf w h; cases h; simp [decodeWord_pack, decodeFields, decodeRow4]
theorem fsqrt (t : BitVec 6) (d : BitVec 5) (a : BitVec 5) (y : BitVec 3) : Statement (.fsqrt t d a y) := by
  intro hwf w h; cases h; simp [decodeWord_pack, decodeFields, decodeRow4]
theorem frnd (t : BitVec 6) (d : BitVec 5) (a : BitVec 5) (y : BitVec 3) : Statement (.frnd t d a y) := by
  intro hwf w h; cases h; simp [decodeWord_pack, decodeFields, decodeRow4]
theorem fclass (t : BitVec 6) (d : BitVec 5) (a : BitVec 5) (y : BitVec 3) : Statement (.fclass t d a y) := by
  intro hwf w h; cases h; simp [decodeWord_pack, decodeFields, decodeRow4]
theorem fscl (t : BitVec 6) (d : BitVec 5) (a : BitVec 5) (b : BitVec 5) (y : BitVec 3) : Statement (.fscl t d a b y) := by
  intro hwf w h; cases h; simp [decodeWord_pack, decodeFields, decodeRow4]
theorem cvt (t : BitVec 6) (d : BitVec 5) (a : BitVec 5) (c : BitVec 3) (y : BitVec 3) : Statement (.cvt t d a c y) := by
  intro hwf w h; cases h; simp [decodeWord_pack, decodeFields, decodeRow5]
theorem cvts (t : BitVec 6) (d : BitVec 5) (a : BitVec 5) (c : BitVec 3) (y : BitVec 3) : Statement (.cvts t d a c y) := by
  intro hwf w h; cases h; simp [decodeWord_pack, decodeFields, decodeRow5]
theorem pack (t : BitVec 6) (d : BitVec 5) (a : BitVec 5) (b : BitVec 5) (y : BitVec 3) : Statement (.pack t d a b y) := by
  intro hwf w h; cases h; simp [decodeWord_pack, decodeFields, decodeRow5]
theorem unpkl (t : BitVec 6) (d : BitVec 5) (a : BitVec 5) (y : BitVec 3) : Statement (.unpkl t d a y) := by
  intro hwf w h; cases h; simp [decodeWord_pack, decodeFields, decodeRow5]
theorem unpkh (t : BitVec 6) (d : BitVec 5) (a : BitVec 5) (y : BitVec 3) : Statement (.unpkh t d a y) := by
  intro hwf w h; cases h; simp [decodeWord_pack, decodeFields, decodeRow5]
theorem qnt (t : BitVec 6) (d : BitVec 5) (a : BitVec 5) (b : BitVec 5) (y : BitVec 3) : Statement (.qnt t d a b y) := by
  intro hwf w h; cases h; simp [decodeWord_pack, decodeFields, decodeRow5]
theorem deq (t : BitVec 6) (d : BitVec 5) (a : BitVec 5) (b : BitVec 5) (y : BitVec 3) : Statement (.deq t d a b y) := by
  intro hwf w h; cases h; simp [decodeWord_pack, decodeFields, decodeRow5]
theorem qdot (t : BitVec 6) (d : BitVec 5) (a : BitVec 5) (b : BitVec 5) (y : BitVec 3) : Statement (.qdot t d a b y) := by
  intro hwf w h; cases h; simp [decodeWord_pack, decodeFields, decodeRow5]
theorem scld (t : BitVec 6) (d : BitVec 5) (a : BitVec 5) (b : BitVec 5) (y : BitVec 3) : Statement (.scld t d a b y) := by
  intro hwf w h; cases h; simp [decodeWord_pack, decodeFields, decodeRow5]
theorem bcast (t : BitVec 6) (d : BitVec 5) (a : BitVec 5) (b : BitVec 5) (y : BitVec 3) : Statement (.bcast t d a b y) := by
  intro hwf w h; cases h; simp [decodeWord_pack, decodeFields, decodeRow6]
theorem perm (t : BitVec 6) (d : BitVec 5) (a : BitVec 5) (b : BitVec 5) (y : BitVec 3) : Statement (.perm t d a b y) := by
  intro hwf w h; cases h; simp [decodeWord_pack, decodeFields, decodeRow6]
theorem lrot (t : BitVec 6) (d : BitVec 5) (a : BitVec 5) (i : BitVec 8) : Statement (.lrot t d a i) := by
  intro hwf w h; cases h; simp [decodeWord_pack, decodeFields, decodeRow6]
theorem rsum (t : BitVec 6) (d : BitVec 5) (a : BitVec 5) (y : BitVec 3) : Statement (.rsum t d a y) := by
  intro hwf w h; cases h; simp [decodeWord_pack, decodeFields, decodeRow6]
theorem rmax (t : BitVec 6) (d : BitVec 5) (a : BitVec 5) (y : BitVec 3) : Statement (.rmax t d a y) := by
  intro hwf w h; cases h; simp [decodeWord_pack, decodeFields, decodeRow6]
theorem rmin (t : BitVec 6) (d : BitVec 5) (a : BitVec 5) (y : BitVec 3) : Statement (.rmin t d a y) := by
  intro hwf w h; cases h; simp [decodeWord_pack, decodeFields, decodeRow6]
theorem scan (t : BitVec 6) (d : BitVec 5) (a : BitVec 5) (y : BitVec 3) : Statement (.scan t d a y) := by
  intro hwf w h; cases h; simp [decodeWord_pack, decodeFields, decodeRow6]
theorem filter (t : BitVec 6) (d : BitVec 5) (a : BitVec 5) (y : BitVec 3) : Statement (.filter t d a y) := by
  intro hwf w h; cases h; simp [decodeWord_pack, decodeFields, decodeRow6]
theorem coal (t : BitVec 6) (d : BitVec 5) (a : BitVec 5) (y : BitVec 3) : Statement (.coal t d a y) := by
  intro hwf w h; cases h; simp [decodeWord_pack, decodeFields, decodeRow6]
theorem mskg (t : BitVec 6) (d : BitVec 5) (a : BitVec 5) (y : BitVec 3) : Statement (.mskg t d a y) := by
  intro hwf w h; cases h; simp [decodeWord_pack, decodeFields, decodeRow6]
theorem msks (t : BitVec 6) (d : BitVec 5) (a : BitVec 5) (b : BitVec 5) (y : BitVec 3) : Statement (.msks t d a b y) := by
  intro hwf w h; cases h; simp [decodeWord_pack, decodeFields, decodeRow6]
theorem laneid (t : BitVec 6) (d : BitVec 5) (y : BitVec 3) : Statement (.laneid t d y) := by
  intro hwf w h; cases h; simp [decodeWord_pack, decodeFields, decodeRow6]
theorem insl (t : BitVec 6) (d : BitVec 5) (a : BitVec 5) (i : BitVec 8) : Statement (.insl t d a i) := by
  intro hwf w h; cases h; simp [decodeWord_pack, decodeFields, decodeRow6]
theorem extl (t : BitVec 6) (d : BitVec 5) (a : BitVec 5) (i : BitVec 8) : Statement (.extl t d a i) := by
  intro hwf w h; cases h; simp [decodeWord_pack, decodeFields, decodeRow6]
theorem pset (t : BitVec 6) (m : BitVec 8) : Statement (.pset t m) := by
  intro hwf w h; cases h; simp [decodeWord_pack, decodeFields, decodeRow7]
theorem pclr (t : BitVec 6) (m : BitVec 8) : Statement (.pclr t m) := by
  intro hwf w h; cases h; simp [decodeWord_pack, decodeFields, decodeRow7]
theorem pflip (t : BitVec 6) (m : BitVec 8) : Statement (.pflip t m) := by
  intro hwf w h; cases h; simp [decodeWord_pack, decodeFields, decodeRow7]
theorem ptest (t : BitVec 6) (p : BitVec 3) (a : BitVec 5) : Statement (.ptest t p a) := by
  intro hwf w h; cases h; simp [decodeWord_pack, decodeFields, decodeRow7]
theorem pany (t : BitVec 6) (p : BitVec 3) (a : BitVec 5) : Statement (.pany t p a) := by
  intro hwf w h; cases h; simp [decodeWord_pack, decodeFields, decodeRow7]
theorem pall (t : BitVec 6) (p : BitVec 3) (a : BitVec 5) : Statement (.pall t p a) := by
  intro hwf w h; cases h; simp [decodeWord_pack, decodeFields, decodeRow7]
theorem pmovRead (t : BitVec 6) (d : BitVec 5) : Statement (.pmovRead t d) := by
  intro hwf w h; cases h; simp [decodeWord_pack, decodeFields, decodeRow7]
theorem pmovWrite (t : BitVec 6) (a : BitVec 5) : Statement (.pmovWrite t a) := by
  intro hwf w h; cases h
  have : a ≠ 28#5 := by simpa [Instr.wf] using hwf
  simp [decodeWord_pack, decodeFields, decodeRow7, this]
theorem hdr (t : BitVec 6) (d : BitVec 5) (a : BitVec 5) : Statement (.hdr t d a) := by
  intro hwf w h; cases h; simp [decodeWord_pack, decodeFields, decodeRow8]
theorem hdrt (t : BitVec 6) (d : BitVec 5) (a : BitVec 5) (b : BitVec 5) : Statement (.hdrt t d a b) := by
  intro hwf w h; cases h; simp [decodeWord_pack, decodeFields, decodeRow8]
theorem hdrm (t : BitVec 6) (d : BitVec 5) (a : BitVec 5) (b : BitVec 5) : Statement (.hdrm t d a b) := by
  intro hwf w h; cases h; simp [decodeWord_pack, decodeFields, decodeRow8]
theorem hdre (t : BitVec 6) (d : BitVec 5) (a : BitVec 5) (b : BitVec 5) : Statement (.hdre t d a b) := by
  intro hwf w h; cases h; simp [decodeWord_pack, decodeFields, decodeRow8]
theorem hdrf (t : BitVec 6) (d : BitVec 5) (a : BitVec 5) (b : BitVec 5) : Statement (.hdrf t d a b) := by
  intro hwf w h; cases h; simp [decodeWord_pack, decodeFields, decodeRow8]
theorem hdrc (t : BitVec 6) (d : BitVec 5) (a : BitVec 5) (b : BitVec 5) : Statement (.hdrc t d a b) := by
  intro hwf w h; cases h; simp [decodeWord_pack, decodeFields, decodeRow8]
theorem time (t : BitVec 6) (d : BitVec 5) (a : BitVec 5) (y : BitVec 3) : Statement (.time t d a y) := by
  intro hwf w h; cases h; simp [decodeWord_pack, decodeFields, decodeRow8]
theorem endr (t : BitVec 6) (d : BitVec 5) (a : BitVec 5) : Statement (.endr t d a) := by
  intro hwf w h; cases h; simp [decodeWord_pack, decodeFields, decodeRow8]
theorem emit (t : BitVec 6) (d : BitVec 5) (a : BitVec 5) (b : BitVec 5) : Statement (.emit t d a b) := by
  intro hwf w h; cases h; simp [decodeWord_pack, decodeFields, decodeRow8]
theorem drop (t : BitVec 6) (d : BitVec 5) (a : BitVec 5) : Statement (.drop t d a) := by
  intro hwf w h; cases h; simp [decodeWord_pack, decodeFields, decodeRow8]
theorem steer (t : BitVec 6) (d : BitVec 5) (a : BitVec 5) (b : BitVec 5) : Statement (.steer t d a b) := by
  intro hwf w h; cases h; simp [decodeWord_pack, decodeFields, decodeRow8]
theorem route (t : BitVec 6) (d : BitVec 5) (a : BitVec 5) : Statement (.route t d a) := by
  intro hwf w h; cases h; simp [decodeWord_pack, decodeFields, decodeRow8]
theorem dmd (t : BitVec 6) (d : BitVec 5) (a : BitVec 5) (b : BitVec 5) : Statement (.dmd t d a b) := by
  intro hwf w h; cases h; simp [decodeWord_pack, decodeFields, decodeRow8]
theorem dmdr (t : BitVec 6) (d : BitVec 5) (a : BitVec 5) (b : BitVec 5) : Statement (.dmdr t d a b) := by
  intro hwf w h; cases h; simp [decodeWord_pack, decodeFields, decodeRow8]
theorem dmdk (t : BitVec 6) (d : BitVec 5) (a : BitVec 5) (b : BitVec 5) : Statement (.dmdk t d a b) := by
  intro hwf w h; cases h; simp [decodeWord_pack, decodeFields, decodeRow8]
theorem rtfw (t : BitVec 6) (d : BitVec 5) (a : BitVec 5) (b : BitVec 5) : Statement (.rtfw t d a b) := by
  intro hwf w h; cases h; simp [decodeWord_pack, decodeFields, decodeRow8]
theorem mark (t : BitVec 6) (d : BitVec 5) (a : BitVec 5) (b : BitVec 5) : Statement (.mark t d a b) := by
  intro hwf w h; cases h; simp [decodeWord_pack, decodeFields, decodeRow9]
theorem chkp (t : BitVec 6) (a : BitVec 5) : Statement (.chkp t a) := by
  intro hwf w h; cases h; simp [decodeWord_pack, decodeFields, decodeRow9]
theorem chkl (t : BitVec 6) (a : BitVec 5) : Statement (.chkl t a) := by
  intro hwf w h; cases h; simp [decodeWord_pack, decodeFields, decodeRow9]
theorem ldb (t : BitVec 6) (d : BitVec 5) (a : BitVec 5) (b : BitVec 5) (s : BitVec 3) : Statement (.ldb t d a b s) := by
  intro hwf w h; cases h; simp [decodeWord_pack, decodeFields, decodeRowA]
theorem stb (t : BitVec 6) (d : BitVec 5) (a : BitVec 5) (b : BitVec 5) (s : BitVec 3) : Statement (.stb t d a b s) := by
  intro hwf w h; cases h; simp [decodeWord_pack, decodeFields, decodeRowA]
theorem ldbg (t : BitVec 6) (d : BitVec 5) (a : BitVec 5) (b : BitVec 5) (s : BitVec 3) : Statement (.ldbg t d a b s) := by
  intro hwf w h; cases h; simp [decodeWord_pack, decodeFields, decodeRowA]
theorem stbs (t : BitVec 6) (d : BitVec 5) (a : BitVec 5) (b : BitVec 5) (s : BitVec 3) : Statement (.stbs t d a b s) := by
  intro hwf w h; cases h; simp [decodeWord_pack, decodeFields, decodeRowA]
theorem srd (t : BitVec 6) (d : BitVec 5) (a : BitVec 5) : Statement (.srd t d a) := by
  intro hwf w h; cases h; simp [decodeWord_pack, decodeFields, decodeRowA]
theorem swr (t : BitVec 6) (a : BitVec 5) (b : BitVec 5) : Statement (.swr t a b) := by
  intro hwf w h; cases h; simp [decodeWord_pack, decodeFields, decodeRowA]
theorem sgath (t : BitVec 6) (d : BitVec 5) (a : BitVec 5) (b : BitVec 5) : Statement (.sgath t d a b) := by
  intro hwf w h; cases h; simp [decodeWord_pack, decodeFields, decodeRowA]
theorem sscat (t : BitVec 6) (a : BitVec 5) (b : BitVec 5) : Statement (.sscat t a b) := by
  intro hwf w h; cases h; simp [decodeWord_pack, decodeFields, decodeRowA]
theorem scls (t : BitVec 6) (d : BitVec 5) : Statement (.scls t d) := by
  intro hwf w h; cases h; simp [decodeWord_pack, decodeFields, decodeRowA]
theorem atomAdd (t : BitVec 6) (d : BitVec 5) (a : BitVec 5) (s : BitVec 3) : Statement (.atomAdd t d a s) := by
  intro hwf w h; cases h
  simp only [Instr.wf, Bool.not_eq_true'] at hwf
  simp [decodeWord_pack, decodeFields, decodeRowA, notPair hwf]
theorem atomMin (t : BitVec 6) (d : BitVec 5) (a : BitVec 5) (s : BitVec 3) : Statement (.atomMin t d a s) := by
  intro hwf w h; cases h
  simp only [Instr.wf, Bool.not_eq_true'] at hwf
  simp [decodeWord_pack, decodeFields, decodeRowA, notPair hwf]
theorem atomMax (t : BitVec 6) (d : BitVec 5) (a : BitVec 5) (s : BitVec 3) : Statement (.atomMax t d a s) := by
  intro hwf w h; cases h
  simp only [Instr.wf, Bool.not_eq_true'] at hwf
  simp [decodeWord_pack, decodeFields, decodeRowA, notPair hwf]
theorem atomXchg (t : BitVec 6) (d : BitVec 5) (a : BitVec 5) (s : BitVec 3) : Statement (.atomXchg t d a s) := by
  intro hwf w h; cases h
  simp only [Instr.wf, Bool.not_eq_true'] at hwf
  simp [decodeWord_pack, decodeFields, decodeRowA, notPair hwf]
theorem atomAnd (t : BitVec 6) (d : BitVec 5) (a : BitVec 5) (s : BitVec 3) : Statement (.atomAnd t d a s) := by
  intro hwf w h; cases h
  simp only [Instr.wf, Bool.not_eq_true'] at hwf
  simp [decodeWord_pack, decodeFields, decodeRowA, notPair hwf]
theorem atomOr (t : BitVec 6) (d : BitVec 5) (a : BitVec 5) (s : BitVec 3) : Statement (.atomOr t d a s) := by
  intro hwf w h; cases h
  simp only [Instr.wf, Bool.not_eq_true'] at hwf
  simp [decodeWord_pack, decodeFields, decodeRowA, notPair hwf]
theorem atomFadd (t : BitVec 6) (d : BitVec 5) (a : BitVec 5) (s : BitVec 3) : Statement (.atomFadd t d a s) := by
  intro hwf w h; cases h
  simp only [Instr.wf, Bool.not_eq_true'] at hwf
  simp [decodeWord_pack, decodeFields, decodeRowA, notPair hwf]
theorem atomPair (t : BitVec 6) (d : BitVec 5) (a : BitVec 3) (b : BitVec 5) (s : BitVec 2) : Statement (.atomPair t d a b s) := by
  intro hwf w h; cases h
  have : 8 ≤ d.toNat → 15 < d.toNat := by simp [Instr.wf, isScalarCode] at hwf; omega
  simp only [decodeWord_pack, decodeFields, decodeRowA]
  simp
  rw [if_pos this]
theorem atomrAdd (t : BitVec 6) (d : BitVec 5) (a : BitVec 5) (s : BitVec 3) : Statement (.atomrAdd t d a s) := by
  intro hwf w h; cases h; simp [decodeWord_pack, decodeFields, decodeRowA]
theorem atomrMin (t : BitVec 6) (d : BitVec 5) (a : BitVec 5) (s : BitVec 3) : Statement (.atomrMin t d a s) := by
  intro hwf w h; cases h; simp [decodeWord_pack, decodeFields, decodeRowA]
theorem atomrMax (t : BitVec 6) (d : BitVec 5) (a : BitVec 5) (s : BitVec 3) : Statement (.atomrMax t d a s) := by
  intro hwf w h; cases h; simp [decodeWord_pack, decodeFields, decodeRowA]
theorem atomrXchg (t : BitVec 6) (d : BitVec 5) (a : BitVec 5) (s : BitVec 3) : Statement (.atomrXchg t d a s) := by
  intro hwf w h; cases h; simp [decodeWord_pack, decodeFields, decodeRowA]
theorem atomrAnd (t : BitVec 6) (d : BitVec 5) (a : BitVec 5) (s : BitVec 3) : Statement (.atomrAnd t d a s) := by
  intro hwf w h; cases h; simp [decodeWord_pack, decodeFields, decodeRowA]
theorem atomrOr (t : BitVec 6) (d : BitVec 5) (a : BitVec 5) (s : BitVec 3) : Statement (.atomrOr t d a s) := by
  intro hwf w h; cases h; simp [decodeWord_pack, decodeFields, decodeRowA]
theorem cas (t : BitVec 6) (d : BitVec 5) (a : BitVec 5) (b : BitVec 5) (s : BitVec 3) : Statement (.cas t d a b s) := by
  intro hwf w h; cases h; simp [decodeWord_pack, decodeFields, decodeRowA]
theorem empty (t : BitVec 6) (d : BitVec 5) (a : BitVec 5) (b : BitVec 5) (s : BitVec 2) : Statement (.empty t d a b s) := by
  intro hwf w h; cases h; simp [decodeWord_pack, decodeFields, decodeRowA]
theorem ldg (t : BitVec 6) (d : BitVec 5) (a : BitVec 5) (b : BitVec 5) : Statement (.ldg t d a b) := by
  intro hwf w h; cases h; simp [decodeWord_pack, decodeFields, decodeRowA]
theorem stg (t : BitVec 6) (d : BitVec 5) (a : BitVec 5) (b : BitVec 5) : Statement (.stg t d a b) := by
  intro hwf w h; cases h; simp [decodeWord_pack, decodeFields, decodeRowA]
theorem cpy (t : BitVec 6) (d : BitVec 5) (a : BitVec 5) (b : BitVec 5) (s : BitVec 2) : Statement (.cpy t d a b s) := by
  intro hwf w h; cases h; simp [decodeWord_pack, decodeFields, decodeRowA]
theorem cpys (t : BitVec 6) (d : BitVec 5) (a : BitVec 5) (b : BitVec 5) (s : BitVec 2) : Statement (.cpys t d a b s) := by
  intro hwf w h; cases h; simp [decodeWord_pack, decodeFields, decodeRowB]
theorem cpyq (t : BitVec 6) (d : BitVec 5) (a : BitVec 5) (b : BitVec 5) (s : BitVec 2) : Statement (.cpyq t d a b s) := by
  intro hwf w h; cases h; simp [decodeWord_pack, decodeFields, decodeRowB]
theorem pref (t : BitVec 6) (a : BitVec 5) (b : BitVec 5) : Statement (.pref t a b) := by
  intro hwf w h; cases h; simp [decodeWord_pack, decodeFields, decodeRowB]
theorem fence (t : BitVec 6) (s : BitVec 3) : Statement (.fence t s) := by
  intro hwf w h; cases h; simp [decodeWord_pack, decodeFields, decodeRowB]
theorem waitne (t : BitVec 6) (d : BitVec 5) (a : BitVec 5) (b : BitVec 5) (s : BitVec 3) : Statement (.waitne t d a b s) := by
  intro hwf w h; cases h; simp [decodeWord_pack, decodeFields, decodeRowB]
theorem bari (t : BitVec 6) (d : BitVec 5) (a : BitVec 5) (s : BitVec 2) : Statement (.bari t d a s) := by
  intro hwf w h; cases h; simp [decodeWord_pack, decodeFields, decodeRowB]
theorem bara (t : BitVec 6) (d : BitVec 5) (s : BitVec 2) : Statement (.bara t d s) := by
  intro hwf w h; cases h; simp [decodeWord_pack, decodeFields, decodeRowB]
theorem barx (t : BitVec 6) (d : BitVec 5) (a : BitVec 5) (s : BitVec 2) : Statement (.barx t d a s) := by
  intro hwf w h; cases h; simp [decodeWord_pack, decodeFields, decodeRowB]
theorem barw (t : BitVec 6) (d : BitVec 5) (a : BitVec 5) (s : BitVec 2) : Statement (.barw t d a s) := by
  intro hwf w h; cases h; simp [decodeWord_pack, decodeFields, decodeRowB]
theorem bart (t : BitVec 6) (d : BitVec 5) (a : BitVec 5) (b : BitVec 5) (s : BitVec 2) : Statement (.bart t d a b s) := by
  intro hwf w h; cases h; simp [decodeWord_pack, decodeFields, decodeRowB]
theorem mmcmd (t : BitVec 6) (d : BitVec 5) (a : BitVec 5) (b : BitVec 5) : Statement (.mmcmd t d a b) := by
  intro hwf w h; cases h; simp [decodeWord_pack, decodeFields, decodeRowC]
theorem accrd (t : BitVec 6) (d : BitVec 5) (a : BitVec 5) : Statement (.accrd t d a) := by
  intro hwf w h; cases h; simp [decodeWord_pack, decodeFields, decodeRowC]
theorem accclr (t : BitVec 6) (d : BitVec 5) (a : BitVec 5) : Statement (.accclr t d a) := by
  intro hwf w h; cases h; simp [decodeWord_pack, decodeFields, decodeRowC]
theorem mxmodeLeave (t : BitVec 6) : Statement (.mxmodeLeave t) := by
  intro hwf w h; cases h; simp [decodeWord_pack, decodeFields, decodeRowC]
theorem mxmodeEnter (t : BitVec 6) : Statement (.mxmodeEnter t) := by
  intro hwf w h; cases h; simp [decodeWord_pack, decodeFields, decodeRowC]
theorem cutRows (t : BitVec 6) (d : BitVec 5) (a : BitVec 5) (b : BitVec 5) : Statement (.cutRows t d a b) := by
  intro hwf w h; cases h; simp [decodeWord_pack, decodeFields, decodeRowC]
theorem cutCols (t : BitVec 6) (d : BitVec 5) (a : BitVec 5) (b : BitVec 5) : Statement (.cutCols t d a b) := by
  intro hwf w h; cases h; simp [decodeWord_pack, decodeFields, decodeRowC]
theorem cutContract (t : BitVec 6) (d : BitVec 5) (a : BitVec 5) (b : BitVec 5) : Statement (.cutContract t d a b) := by
  intro hwf w h; cases h; simp [decodeWord_pack, decodeFields, decodeRowC]
theorem cutb (t : BitVec 6) (d : BitVec 5) (s : BitVec 13) : Statement (.cutb t d s) := by
  intro hwf w h; cases h; simp [decodeWord_pack, decodeFields, decodeRowC]
theorem cutr (t : BitVec 6) (d : BitVec 5) (a : BitVec 5) : Statement (.cutr t d a) := by
  intro hwf w h; cases h; simp [decodeWord_pack, decodeFields, decodeRowC]
theorem sphdr (t : BitVec 6) (d : BitVec 5) (a : BitVec 5) (b : BitVec 5) : Statement (.sphdr t d a b) := by
  intro hwf w h; cases h; simp [decodeWord_pack, decodeFields, decodeRowC]
theorem kvapp (t : BitVec 6) (d : BitVec 5) (a : BitVec 5) : Statement (.kvapp t d a) := by
  intro hwf w h; cases h; simp [decodeWord_pack, decodeFields, decodeRowC]
theorem kvseal (t : BitVec 6) (d : BitVec 5) (a : BitVec 5) : Statement (.kvseal t d a) := by
  intro hwf w h; cases h; simp [decodeWord_pack, decodeFields, decodeRowC]
theorem kvfork (t : BitVec 6) (d : BitVec 5) (a : BitVec 5) (b : BitVec 5) : Statement (.kvfork t d a b) := by
  intro hwf w h; cases h; simp [decodeWord_pack, decodeFields, decodeRowC]
theorem retspanKeep (t : BitVec 6) (d : BitVec 5) (g : BitVec 3) : Statement (.retspanKeep t d g) := by
  intro hwf w h; cases h; simp [decodeWord_pack, decodeFields, decodeRowC]
theorem retspanRewind (t : BitVec 6) (d : BitVec 5) (g : BitVec 3) : Statement (.retspanRewind t d g) := by
  intro hwf w h; cases h; simp [decodeWord_pack, decodeFields, decodeRowC]
theorem kvmask (t : BitVec 6) (d : BitVec 5) (a : BitVec 5) (b : BitVec 5) : Statement (.kvmask t d a b) := by
  intro hwf w h; cases h; simp [decodeWord_pack, decodeFields, decodeRowC]
theorem kvlook (t : BitVec 6) (d : BitVec 5) (a : BitVec 5) (b : BitVec 5) : Statement (.kvlook t d a b) := by
  intro hwf w h; cases h; simp [decodeWord_pack, decodeFields, decodeRowC]
theorem kvtag (t : BitVec 6) (d : BitVec 5) (g : BitVec 3) : Statement (.kvtag t d g) := by
  intro hwf w h; cases h; simp [decodeWord_pack, decodeFields, decodeRowC]
theorem kvpar (t : BitVec 6) (d : BitVec 5) (a : BitVec 5) (b : BitVec 5) : Statement (.kvpar t d a b) := by
  intro hwf w h; cases h; simp [decodeWord_pack, decodeFields, decodeRowC]
theorem ring (t : BitVec 6) (d : BitVec 5) (a : BitVec 5) : Statement (.ring t d a) := by
  intro hwf w h; cases h; simp [decodeWord_pack, decodeFields, decodeRowD]
theorem kvnext (t : BitVec 6) (d : BitVec 5) (a : BitVec 5) (b : BitVec 5) : Statement (.kvnext t d a b) := by
  intro hwf w h; cases h; simp [decodeWord_pack, decodeFields, decodeRowD]
theorem br (t : BitVec 6) (o : BitVec 18) : Statement (.br t o) := by
  intro hwf w h; cases h; simp [decodeWord_pack, decodeFields, decodeRowE]
theorem call (t : BitVec 6) (o : BitVec 18) : Statement (.call t o) := by
  intro hwf w h; cases h; simp [decodeWord_pack, decodeFields, decodeRowE]
theorem ret (t : BitVec 6) (a : BitVec 5) : Statement (.ret t a) := by
  intro hwf w h; cases h
  have : a ≠ 28#5 := by simpa [Instr.wf] using hwf
  simp [decodeWord_pack, decodeFields, decodeRowE, this]
theorem retZ (t : BitVec 6) : Statement (.retZ t) := by
  intro hwf w h; cases h; simp [decodeWord_pack, decodeFields, decodeRowE]
theorem loop (t : BitVec 6) (d : BitVec 5) (i : BitVec 8) : Statement (.loop t d i) := by
  intro hwf w h; cases h; simp [decodeWord_pack, decodeFields, decodeRowE]
theorem halt (t : BitVec 6) : Statement (.halt t) := by
  intro hwf w h; cases h; simp [decodeWord_pack, decodeFields, decodeRowE]
theorem yield (t : BitVec 6) (d : BitVec 5) : Statement (.yield t d) := by
  intro hwf w h; cases h; simp [decodeWord_pack, decodeFields, decodeRowE]
theorem sendm (t : BitVec 6) (a : BitVec 5) (b : BitVec 5) : Statement (.sendm t a b) := by
  intro hwf w h; cases h; simp [decodeWord_pack, decodeFields, decodeRowE]
theorem sendmt (t : BitVec 6) (d : BitVec 5) (a : BitVec 5) (b : BitVec 5) : Statement (.sendmt t d a b) := by
  intro hwf w h; cases h; simp [decodeWord_pack, decodeFields, decodeRowE]
theorem recvm (t : BitVec 6) (d : BitVec 5) : Statement (.recvm t d) := by
  intro hwf w h; cases h; simp [decodeWord_pack, decodeFields, decodeRowE]
theorem trap (t : BitVec 6) (c : BitVec 13) : Statement (.trap t c) := by
  intro hwf w h; cases h; simp [decodeWord_pack, decodeFields, decodeRowE]
theorem syscEcho (t : BitVec 6) (d : BitVec 5) : Statement (.syscEcho t d) := by
  intro hwf w h; cases h; simp [decodeWord_pack, decodeFields, decodeRowE]
theorem syscSnap (t : BitVec 6) (d : BitVec 5) : Statement (.syscSnap t d) := by
  intro hwf w h; cases h; simp [decodeWord_pack, decodeFields, decodeRowE]
theorem syscSediment (t : BitVec 6) (d : BitVec 5) : Statement (.syscSediment t d) := by
  intro hwf w h; cases h; simp [decodeWord_pack, decodeFields, decodeRowE]
theorem syscQdepth (t : BitVec 6) (d : BitVec 5) : Statement (.syscQdepth t d) := by
  intro hwf w h; cases h; simp [decodeWord_pack, decodeFields, decodeRowE]
theorem syscUnassigned (t : BitVec 6) (d : BitVec 5) (code : BitVec 13) : Statement (.syscUnassigned t d code) := by
  intro hwf w h; cases h
  have hc : ∀ y : BitVec 3, y.toNat < 4 → ¬ (code.extractLsb' 8 5 = 0#5 ∧ code.extractLsb' 3 5 = 0#5 ∧
      code.extractLsb' 0 3 = y) := by
    rintro y hy ⟨h1, h2, h3⟩
    have hj := join13 code
    rw [h1, h2, h3] at hj
    subst hj
    have hn : (0#5 ++ 0#5 ++ y).toNat = y.toNat := by simp only [BitVec.toNat_append]; simp
    simp only [Instr.wf, decide_eq_true_eq, hn] at hwf
    omega
  have h0 := hc 0#3 (by decide)
  have h1 := hc 1#3 (by decide)
  have h2 := hc 2#3 (by decide)
  have h3 := hc 3#3 (by decide)
  simp [decodeWord_pack, decodeFields, decodeRowE, h0, h1, h2, h3]
theorem csrr (t : BitVec 6) (d : BitVec 5) (s : BitVec 13) : Statement (.csrr t d s) := by
  intro hwf w h; cases h; simp [decodeWord_pack, decodeFields, decodeRowE]
theorem csrw (t : BitVec 6) (d : BitVec 5) (s : BitVec 13) : Statement (.csrw t d s) := by
  intro hwf w h; cases h; simp [decodeWord_pack, decodeFields, decodeRowE]
theorem cfgld (t : BitVec 6) (d : BitVec 5) (a : BitVec 5) (b : BitVec 5) : Statement (.cfgld t d a b) := by
  intro hwf w h; cases h; simp [decodeWord_pack, decodeFields, decodeRowE]
theorem ctxsv (t : BitVec 6) (a : BitVec 5) (b : BitVec 5) : Statement (.ctxsv t a b) := by
  intro hwf w h; cases h; simp [decodeWord_pack, decodeFields, decodeRowE]
theorem ctxrs (t : BitVec 6) (a : BitVec 5) (b : BitVec 5) : Statement (.ctxrs t a b) := by
  intro hwf w h; cases h; simp [decodeWord_pack, decodeFields, decodeRowE]
theorem launch (t : BitVec 6) (d : BitVec 5) (a : BitVec 5) : Statement (.launch t d a) := by
  intro hwf w h; cases h; simp [decodeWord_pack, decodeFields, decodeRowF]
theorem fwait (t : BitVec 6) (d : BitVec 5) (a : BitVec 5) (b : BitVec 5) : Statement (.fwait t d a b) := by
  intro hwf w h; cases h; simp [decodeWord_pack, decodeFields, decodeRowF]
theorem fsig (t : BitVec 6) (a : BitVec 5) (b : BitVec 5) : Statement (.fsig t a b) := by
  intro hwf w h; cases h; simp [decodeWord_pack, decodeFields, decodeRowF]
theorem perfrd (t : BitVec 6) (d : BitVec 5) (s : BitVec 13) : Statement (.perfrd t d s) := by
  intro hwf w h; cases h; simp [decodeWord_pack, decodeFields, decodeRowF]
theorem trace (t : BitVec 6) (d : BitVec 5) (c : BitVec 13) : Statement (.trace t d c) := by
  intro hwf w h; cases h; simp [decodeWord_pack, decodeFields, decodeRowF]
theorem brk (t : BitVec 6) (c : BitVec 13) : Statement (.brk t c) := by
  intro hwf w h; cases h; simp [decodeWord_pack, decodeFields, decodeRowF]
theorem migr (t : BitVec 6) (d : BitVec 5) : Statement (.migr t d) := by
  intro hwf w h; cases h; simp [decodeWord_pack, decodeFields, decodeRowF]
theorem timerArm (t : BitVec 6) (d : BitVec 5) : Statement (.timerArm t d) := by
  intro hwf w h; cases h; simp [decodeWord_pack, decodeFields, decodeRowF]
theorem timerRead (t : BitVec 6) (d : BitVec 5) : Statement (.timerRead t d) := by
  intro hwf w h; cases h; simp [decodeWord_pack, decodeFields, decodeRowF]
theorem timerDisarm (t : BitVec 6) (d : BitVec 5) : Statement (.timerDisarm t d) := by
  intro hwf w h; cases h; simp [decodeWord_pack, decodeFields, decodeRowF]
theorem idrdPartCode (t : BitVec 6) (d : BitVec 5) : Statement (.idrdPartCode t d) := by
  intro hwf w h; cases h; simp [decodeWord_pack, decodeFields, decodeRowF]
theorem idrdStepping (t : BitVec 6) (d : BitVec 5) : Statement (.idrdStepping t d) := by
  intro hwf w h; cases h; simp [decodeWord_pack, decodeFields, decodeRowF]
theorem idrdPhysicalPosition (t : BitVec 6) (d : BitVec 5) : Statement (.idrdPhysicalPosition t d) := by
  intro hwf w h; cases h; simp [decodeWord_pack, decodeFields, decodeRowF]
theorem idrdLogicalId (t : BitVec 6) (d : BitVec 5) : Statement (.idrdLogicalId t d) := by
  intro hwf w h; cases h; simp [decodeWord_pack, decodeFields, decodeRowF]
theorem idrdPartition (t : BitVec 6) (d : BitVec 5) : Statement (.idrdPartition t d) := by
  intro hwf w h; cases h; simp [decodeWord_pack, decodeFields, decodeRowF]
theorem idrdSpareMap (t : BitVec 6) (d : BitVec 5) : Statement (.idrdSpareMap t d) := by
  intro hwf w h; cases h; simp [decodeWord_pack, decodeFields, decodeRowF]
theorem idrdSerialLow (t : BitVec 6) (d : BitVec 5) : Statement (.idrdSerialLow t d) := by
  intro hwf w h; cases h; simp [decodeWord_pack, decodeFields, decodeRowF]
theorem idrdSerialHigh (t : BitVec 6) (d : BitVec 5) : Statement (.idrdSerialHigh t d) := by
  intro hwf w h; cases h; simp [decodeWord_pack, decodeFields, decodeRowF]
theorem undefinedWord (w : BitVec 32) : Statement (.undefinedWord w) := by
  intro _ w h; cases h
theorem fetchFault : Statement (.fetchFault) := by
  intro _ w h; cases h
theorem trapEntry (r : Nat) : Statement (.trapEntry r) := by
  intro _ w h; cases h
theorem packetDiscard (port : BitVec 4) : Statement (.packetDiscard port) := by
  intro _ w h; cases h
theorem packetTrim (port : BitVec 4) : Statement (.packetTrim port) := by
  intro _ w h; cases h
theorem messageNoEndpoint (m : Msg) : Statement (.messageNoEndpoint m) := by
  intro _ w h; cases h
theorem firstMessageNotHello (m : Msg) : Statement (.firstMessageNotHello m) := by
  intro _ w h; cases h
theorem helloSetup (m : Msg) : Statement (.helloSetup m) := by
  intro _ w h; cases h
theorem helloCredit (m : Msg) : Statement (.helloCredit m) := by
  intro _ w h; cases h
theorem launchMessage (m : Msg) : Statement (.launchMessage m) := by
  intro _ w h; cases h
theorem request (m : Msg) : Statement (.request m) := by
  intro _ w h; cases h
theorem fenceRead (m : Msg) : Statement (.fenceRead m) := by
  intro _ w h; cases h
theorem fenceRaise (m : Msg) : Statement (.fenceRaise m) := by
  intro _ w h; cases h
theorem fenceWait (m : Msg) : Statement (.fenceWait m) := by
  intro _ w h; cases h
theorem mapPages (m : Msg) : Statement (.mapPages m) := by
  intro _ w h; cases h
theorem mapUnmap (m : Msg) : Statement (.mapUnmap m) := by
  intro _ w h; cases h
theorem mapThreshold (m : Msg) : Statement (.mapThreshold m) := by
  intro _ w h; cases h
theorem pin (m : Msg) : Statement (.pin m) := by
  intro _ w h; cases h
theorem unpin (m : Msg) : Statement (.unpin m) := by
  intro _ w h; cases h
theorem dumpreadCleartext (m : Msg) : Statement (.dumpreadCleartext m) := by
  intro _ w h; cases h
theorem dumpreadBody (m : Msg) : Statement (.dumpreadBody m) := by
  intro _ w h; cases h
theorem dumpreadSediment (m : Msg) : Statement (.dumpreadSediment m) := by
  intro _ w h; cases h
theorem dumpreadWakeRing (m : Msg) : Statement (.dumpreadWakeRing m) := by
  intro _ w h; cases h
theorem dumpreadRelease (m : Msg) : Statement (.dumpreadRelease m) := by
  intro _ w h; cases h
theorem resync (m : Msg) : Statement (.resync m) := by
  intro _ w h; cases h
theorem attest (m : Msg) : Statement (.attest m) := by
  intro _ w h; cases h
theorem updatePiece (m : Msg) : Statement (.updatePiece m) := by
  intro _ w h; cases h
theorem updateCommit (m : Msg) : Statement (.updateCommit m) := by
  intro _ w h; cases h
theorem updateAbort (m : Msg) : Statement (.updateAbort m) := by
  intro _ w h; cases h
theorem firmwareSwitch : Statement (.firmwareSwitch) := by
  intro _ w h; cases h
theorem partctlCreate (m : Msg) : Statement (.partctlCreate m) := by
  intro _ w h; cases h
theorem partctlResize (m : Msg) : Statement (.partctlResize m) := by
  intro _ w h; cases h
theorem partctlDelete (m : Msg) : Statement (.partctlDelete m) := by
  intro _ w h; cases h
theorem partctlReset (m : Msg) : Statement (.partctlReset m) := by
  intro _ w h; cases h
theorem partctlSpareRemap (m : Msg) : Statement (.partctlSpareRemap m) := by
  intro _ w h; cases h
theorem powerOn : Statement (.powerOn) := by
  intro _ w h; cases h
theorem powerwarn : Statement (.powerwarn) := by
  intro _ w h; cases h
theorem linkdown (port : BitVec 4) : Statement (.linkdown port) := by
  intro _ w h; cases h
theorem linkup (port : BitVec 4) : Statement (.linkup port) := by
  intro _ w h; cases h
theorem chaindownTimeout (port : BitVec 4) (l : Nat) : Statement (.chaindownTimeout port l) := by
  intro _ w h; cases h
theorem launchDispatch : Statement (.launchDispatch) := by
  intro _ w h; cases h
theorem helmStart (l : Nat) : Statement (.helmStart l) := by
  intro _ w h; cases h
theorem preempt (part : BitVec 5) : Statement (.preempt part) := by
  intro _ w h; cases h
theorem quiescentPreempt (l : Nat) : Statement (.quiescentPreempt l) := by
  intro _ w h; cases h
theorem migrationRequest (l : Nat) : Statement (.migrationRequest l) := by
  intro _ w h; cases h
theorem migrationCut (l : Nat) : Statement (.migrationCut l) := by
  intro _ w h; cases h
theorem migrationTimeout (l : Nat) : Statement (.migrationTimeout l) := by
  intro _ w h; cases h
theorem launchRestore (l : Nat) : Statement (.launchRestore l) := by
  intro _ w h; cases h
theorem launchEnd (l : Nat) : Statement (.launchEnd l) := by
  intro _ w h; cases h
theorem snapCutPost (l : Nat) : Statement (.snapCutPost l) := by
  intro _ w h; cases h
theorem elementSave (r : Nat) (e : Nat) : Statement (.elementSave r e) := by
  intro _ w h; cases h
theorem helmSave (r : Nat) : Statement (.helmSave r) := by
  intro _ w h; cases h
theorem sourceMarkerInject (p : At) : Statement (.sourceMarkerInject p) := by
  intro _ w h; cases h
theorem cutComplete (l : Nat) : Statement (.cutComplete l) := by
  intro _ w h; cases h
theorem windowApply (stack : BitVec 3) (l : Nat) : Statement (.windowApply stack l) := by
  intro _ w h; cases h
theorem saveAbort (l : Nat) (pa : BitVec 40) : Statement (.saveAbort l pa) := by
  intro _ w h; cases h
theorem tokenArrival (p : At) : Statement (.tokenArrival p) := by
  intro _ w h; cases h
theorem tokenSend (p : At) : Statement (.tokenSend p) := by
  intro _ w h; cases h
theorem conversionReturn (p : At) : Statement (.conversionReturn p) := by
  intro _ w h; cases h
theorem operationComplete (r : Nat) (e : Nat) (c : Nat) : Statement (.operationComplete r e c) := by
  intro _ w h; cases h
theorem demandArrival (p : At) : Statement (.demandArrival p) := by
  intro _ w h; cases h
theorem demandHeldRelease (p : At) : Statement (.demandHeldRelease p) := by
  intro _ w h; cases h
theorem streamReadComplete (p : At) : Statement (.streamReadComplete p) := by
  intro _ w h; cases h
theorem chainHopAdd (l : Nat) (chain : Nat) (hop : Nat) : Statement (.chainHopAdd l chain hop) := by
  intro _ w h; cases h
theorem matrixMma (r : Nat) : Statement (.matrixMma r) := by
  intro _ w h; cases h
theorem matrixAccrd (r : Nat) : Statement (.matrixAccrd r) := by
  intro _ w h; cases h
theorem accrdResponse (r : Nat) : Statement (.accrdResponse r) := by
  intro _ w h; cases h
theorem matrixAccclr (r : Nat) : Statement (.matrixAccclr r) := by
  intro _ w h; cases h
theorem matrixMarkerSave (r : Nat) : Statement (.matrixMarkerSave r) := by
  intro _ w h; cases h
theorem copyComplete (r : Nat) (k : Nat) : Statement (.copyComplete r k) := by
  intro _ w h; cases h
theorem bankWakeEnd (r : Nat) (bank : Nat) (ok : Bool) : Statement (.bankWakeEnd r bank ok) := by
  intro _ w h; cases h
theorem bgateWrite (r : Nat) (v : BitVec 64) : Statement (.bgateWrite r v) := by
  intro _ w h; cases h
theorem obsctlStopWrite (r : Nat) (stop : Bool) : Statement (.obsctlStopWrite r stop) := by
  intro _ w h; cases h
theorem obsctlPrecWrite (r : Nat) (prec : Bool) : Statement (.obsctlPrecWrite r prec) := by
  intro _ w h; cases h
theorem obsctlSperWrite (r : Nat) (sper : BitVec 8) : Statement (.obsctlSperWrite r sper) := by
  intro _ w h; cases h
theorem obsbkWrite (r : Nat) (k : BitVec 2) (v : BitVec 64) : Statement (.obsbkWrite r k v) := by
  intro _ w h; cases h
theorem stillWrite (r : Nat) (v : BitVec 64) : Statement (.stillWrite r v) := by
  intro _ w h; cases h
theorem mxregWrite (r : Nat) (k : BitVec 2) (v : BitVec 64) : Statement (.mxregWrite r k v) := by
  intro _ w h; cases h
theorem registerWrite (r : Nat) (sel : BitVec 13) (v : BitVec 64) : Statement (.registerWrite r sel v) := by
  intro _ w h; cases h
theorem noticeConsWrite (part : BitVec 5) (v : BitVec 64) : Statement (.noticeConsWrite part v) := by
  intro _ w h; cases h
theorem regionStop (r : Nat) (src : BitVec 3) (arg : BitVec 13) (e : Nat) (c : Nat) (slot : Nat) : Statement (.regionStop r src arg e c slot) := by
  intro _ w h; cases h
theorem sample (r : Nat) : Statement (.sample r) := by
  intro _ w h; cases h
theorem wheelRewrite (r : Nat) : Statement (.wheelRewrite r) := by
  intro _ w h; cases h
theorem governorDecision (r bout wopd : Nat) (temp : BitVec 8) : Statement (.governorDecision r bout wopd temp) := by
  intro _ w h; cases h
theorem thermalRepost (l : Nat) : Statement (.thermalRepost l) := by
  intro _ w h; cases h
theorem helmTimerExpiry (r : Nat) : Statement (.helmTimerExpiry r) := by
  intro _ w h; cases h
theorem rollback (l : Nat) : Statement (.rollback l) := by
  intro _ w h; cases h
theorem rerunFaultStop (l : Nat) (r : Nat) : Statement (.rerunFaultStop l r) := by
  intro _ w h; cases h
theorem fatalEnd (l : Nat) : Statement (.fatalEnd l) := by
  intro _ w h; cases h
theorem dredgeComplete (l : Nat) : Statement (.dredgeComplete l) := by
  intro _ w h; cases h
theorem stillwaterHang (r : Nat) : Statement (.stillwaterHang r) := by
  intro _ w h; cases h
theorem hangesc (r : Nat) : Statement (.hangesc r) := by
  intro _ w h; cases h
theorem sendring (r : Nat) : Statement (.sendring r) := by
  intro _ w h; cases h
theorem cfgStoreError (r : Nat) (corrected : Bool) (off : BitVec 64) : Statement (.cfgStoreError r corrected off) := by
  intro _ w h; cases h
theorem cfgReloadComplete (r : Nat) : Statement (.cfgReloadComplete r) := by
  intro _ w h; cases h
theorem retire (r : Nat) : Statement (.retire r) := by
  intro _ w h; cases h
theorem hbmue (kind : BitVec 2) (pa : BitVec 40) : Statement (.hbmue kind pa) := by
  intro _ w h; cases h
theorem hbmScrub (pa : BitVec 40) (corrected : Bool) : Statement (.hbmScrub pa corrected) := by
  intro _ w h; cases h
theorem rowspare (pa : BitVec 40) : Statement (.rowspare pa) := by
  intro _ w h; cases h
theorem pcspare (stack : BitVec 3) (pc : BitVec 7) : Statement (.pcspare stack pc) := by
  intro _ w h; cases h
theorem connectionFailure (conn : Nat) : Statement (.connectionFailure conn) := by
  intro _ w h; cases h
theorem unknownMessageType (m : Msg) : Statement (.unknownMessageType m) := by
  intro _ w h; cases h

end Sys2Proof.Laws.RoundTrip
end

