-- ==== Sys2Proof/Laws/Static.lean ====
section
/-!
SUPPORT. What a word without a static fault satisfies, check by check in the order of R386.
-/

namespace Sys2Proof.Machine

/-- The checks of R386 that a word of a given row has passed. -/
structure Static (helm : Bool) (w : W32) (fmt mode tys cd ca cb : Nat) : Prop where
  agent : ¬ ((mode = 1 ∧ helm = false) ∨ (mode = 2 ∧ helm = true))
  code : firstAt (fun x : Nat × Nat => isOpnd x.1 && decide (x.2 ≥ 29))
    ((if fmt = 4 then [] else [cd, ca, cb].take (wordCodes fmt w).length).zip (wordCodes fmt w)) 0 = none
  field : reservedField (fieldO w).toNat (if fmt = 4 then [] else [cd, ca, cb].take (wordCodes fmt w).length)
    (wordCodes fmt w) w = none
  sel : reservedSel (fieldO w).toNat w = none
  type : fmt = 0 → tys.testBit (fieldY w).toNat = true
  wide : fmt = 0 → (fieldO w).toNat ≤ 0x76 → (fieldY w).toNat = 6 → vecShaped (fieldO w).toNat fmt
    (if fmt = 4 then [] else [cd, ca, cb].take (wordCodes fmt w).length) (wordCodes fmt w) = false
  tag : fmt = 0 → (fieldY w).toNat = 7 → classOf (fieldA w).toNat = 4
  cls : badClass helm (fieldO w).toNat fmt (if fmt = 4 then [] else [cd, ca, cb].take (wordCodes fmt w).length)
    (wordCodes fmt w) w = none

theorem static_none {helm : Bool} {w : W32} {o fmt mode tys cd ca cb : Nat}
    (hr : opRow (fieldO w).toNat = some (o, fmt, mode, tys, cd, ca, cb)) (h : staticFault helm w = none) :
    Static helm w fmt mode tys cd ca cb := by
  simp only [staticFault, hr] at h
  generalize hc : (if fmt = 4 then ([] : List Nat) else List.take (wordCodes fmt w).length [cd, ca, cb]) = cl at h
  split at h
  · simp at h
  next h1 =>
  split at h
  · simp at h
  next h2 =>
  split at h
  · simp at h
  next h3 =>
  split at h
  · simp at h
  next h4 =>
  split at h
  · simp at h
  next h5 =>
  split at h
  · simp at h
  next h6 =>
  split at h
  · simp at h
  next h7 =>
  split at h
  · simp at h
  next h8 =>
  split at h
  · simp at h
  next h9 =>
  split at h
  · simp at h
  next h10 =>
  refine ⟨by simpa using h1, by rw [hc]; exact h2, by rw [hc]; exact h3, h4, ?_, ?_, ?_, by rw [hc]; exact h9⟩
  · intro hf; simpa [hf] using h5
  · intro hf ho hy
    rw [hc]
    cases hv : vecShaped (fieldO w).toNat fmt cl (wordCodes fmt w) with
    | false => rfl
    | true => subst hf; exact absurd h6 (by simp [ho, hy, hv])
  · intro hf hy
    by_cases hv : classOf (fieldA w).toNat = 4
    · exact hv
    · exact absurd h8 (by simp [hf, hy, hv])

end Sys2Proof.Machine
end

