-- ==== Sys2Proof/Tests/Slice0.lean ====
section
/-!
SUPPORT. Tests of the model: words of the opcode tables, ill-formed terms refused, states that meet the hypotheses of each
statement (witness_…), and one-step results worked out by hand from the rules (test_…).
-/

set_option Elab.async false

namespace Sys2Proof.Tests

open Sys2Proof Sys2Proof.Machine Sys2Proof.Claims

/-! ## Small states -/

/-- A device with one region, whose helm core executes. -/
def core (f : Helm → Helm) : State :=
  { State.reset with regions := [(0, { Region.reset with helm := f Helm.reset })], agent := .helm 0 }

/-- A helm core with a context. -/
def withNode (f : Node → Node) : State := core (fun h => { h with node := f h.node })

/-- Registers with values in s0 up. -/
def sregs (l : List Nat) : Regs := { Regs.reset with s := Vector.ofFn (fun (k : Fin 8) => BitVec.ofNat 64 (l.getD k.val 0)) }

/-- A helm core with scalars. -/
def withS (l : List Nat) : State := withNode (fun n => { n with regs := sregs l })

/-- A vector from its lanes, the rest 0. -/
def vec (l : List Nat) : Lanes := Lanes.ofFn (fun k => BitVec.ofNat 32 (l.getD k 0))

/-- A helm core with vectors v0 and v1. -/
def withV (x y : List Nat) : State := withNode (fun n => { n with regs := setV (setV n.regs 0 (vec x)) 1 (vec y) })

/-- A context with a token on a channel. -/
def onCh (ch : Nat) (t : Token) (n : Node) : Node :=
  setPair n ch { nodePair n ch with ctxset := 1, fmtmask := 0xFF, queue := [⟨t, false, false, false⟩] }

/-- A token: KIND, FMT, END, CTX, lanes valid, T, lanes. -/
def tok (kind fmt en ctx : Nat) (m : BitVec 16) (t : Nat) (l : List Nat) : Token := ⟨mkHdr kind fmt en ctx m t, vec l⟩

/-- A region with one element that has one context, at slot 0. -/
def elem (f : Node → Node) : State :=
  { State.reset with regions := [(0, { Region.reset with elems := [(0, { Elem.reset with ctxs := [(0, f Node.reset)] })] })],
                     agent := .elem 0 0 0 0 }

/-- A helm core that can take a trap, with its handler at 1024. -/
def trapping (f : Helm → Helm) : State := core (fun h => f { h with status := 1, trapvec := 1024, running := true, pc := 512 })

/-- A value of the state that an instruction leaves. -/
def res {α : Type} (i : Instr) (s : State) (d : α) (f : State → α) : α := match exec i s with | .next t => f t | _ => d

/-- An instruction completes in a next state of which something holds. -/
def leads (i : Instr) (s : State) (f : State → Bool) : Bool := match exec i s with | .next t => f t | _ => false

/-- Every fact of a list holds. -/
def yes (l : List Bool) : Bool := l.all (fun b => b)

/-- Issues, as a test. -/
def issuesB (i : Instr) (s : State) : Bool :=
  (staticFault (isHelm s) (wordOf i)).isNone && (trigHere s (fieldT (wordOf i)).toNat).2 &&
  match s.agent with
  | .helm r => decide (issueWait (getH s r) (wordOf i) = .none) && (usedFault (getH s r) (wordOf i)).isNone
  | .elem .. => true

theorem issuesB_iff (i : Instr) (s : State) : issuesB i s = true ↔ Issues i s := by
  unfold issuesB Issues
  cases h : s.agent with
  | helm r => simp [and_assoc]
  | elem r e c k => simp

/-- Canonical memories, as a test on what the lists hold. -/
def memOkB (s : State) : Bool :=
  memWf s.hbm && memWf s.host && s.regions.all (fun e => (List.range 3).all (fun k => memWf (vGet Buf.reset e.2.bufs k).mem))

theorem memOk_get (l : Assoc Region) (h : l.all (fun e => (List.range 3).all (fun k => memWf (vGet Buf.reset e.2.bufs k).mem)) = true)
    (r k : Nat) (hk : k < 3) : memWf (vGet Buf.reset (aGet Region.reset l r).bufs k).mem = true := by
  induction l with
  | nil => match k, hk with | 0, _ | 1, _ | 2, _ => rfl
  | cons e l ih =>
    simp only [List.all_cons, Bool.and_eq_true, List.all_eq_true, List.mem_range] at h
    unfold aGet
    by_cases he : r = e.1
    · rw [if_pos he]; exact h.1 k hk
    · rw [if_neg he]; exact ih (by simpa using h.2)

theorem memOk_of (s : State) (h : memOkB s = true) : s.memOk := by
  simp only [memOkB, Bool.and_eq_true] at h
  refine ⟨h.1.1, h.1.2, fun r k => ?_⟩
  by_cases hk : k < 3
  · exact memOk_get _ h.2 r k hk
  · rw [vGet, dif_neg hk]; rfl

/-- With no wait armed every access is quiet. -/
theorem quiet_of (s : State) (h : s.arms = []) (sp r ad n : Nat) : quiet s sp r ad n := by
  intro a ha; rw [h] at ha; cases ha

/-- A commit of what a firing writes succeeds. -/
def fires (n : Node) (f : Fire) : Bool := match commitFire n f with | .ok _ => true | .error _ => false

/-! ## Words -/

/-- Each word decodes to its instruction. -/
def decodesTo (l : List (W32 × Instr)) : Bool := l.all (fun p => match decodeWord p.1 with | .ok i => i == p.2 | .error _ => false)

/-- Words of the opcode tables (R228, R230 to R240), part 1. -/
theorem test_decode_words_1 :
    decodesTo [(0x14039CE0#32, .nop 0x5), (0x14052AE6#32, .mov 0x5 0x9 0xA 0x6), (0x140921A5#32, .movi 0x5 0x9 0x1A5),
   (0x140D21A5#32, .movsh 0x5 0x9 0x1A5), (0x14112A5E#32, .add 0x5 0x9 0xA 0xB 0x6),
   (0x14152AA5#32, .addi 0x5 0x9 0xA 0xA5), (0x14192A5E#32, .sub 0x5 0x9 0xA 0xB 0x6),
   (0x141D2A5E#32, .adds 0x5 0x9 0xA 0xB 0x6), (0x14212A5E#32, .subs 0x5 0x9 0xA 0xB 0x6),
   (0x14252A5E#32, .mul 0x5 0x9 0xA 0xB 0x6), (0x14292A5E#32, .mulh 0x5 0x9 0xA 0xB 0x6),
   (0x142D2A5E#32, .mad 0x5 0x9 0xA 0xB 0x6), (0x14312A5E#32, .div 0x5 0x9 0xA 0xB 0x6),
   (0x14352A5E#32, .rem 0x5 0x9 0xA 0xB 0x6), (0x14392A5E#32, .min 0x5 0x9 0xA 0xB 0x6),
   (0x143D2A5E#32, .max 0x5 0x9 0xA 0xB 0x6), (0x14412AE6#32, .abs 0x5 0x9 0xA 0x6), (0x14452AE6#32, .neg 0x5 0x9 0xA 0x6),
   (0x14492A5E#32, .and 0x5 0x9 0xA 0xB 0x6), (0x144D2AA5#32, .andi 0x5 0x9 0xA 0xA5),
   (0x14512A5E#32, .or 0x5 0x9 0xA 0xB 0x6), (0x14552AA5#32, .ori 0x5 0x9 0xA 0xA5),
   (0x14592A5E#32, .xor 0x5 0x9 0xA 0xB 0x6), (0x145D2A5E#32, .andn 0x5 0x9 0xA 0xB 0x6),
   (0x14612A5E#32, .shl 0x5 0x9 0xA 0xB 0x6), (0x14652AA5#32, .shli 0x5 0x9 0xA 0xA5),
   (0x14692A5E#32, .shr 0x5 0x9 0xA 0xB 0x6), (0x146D2AA5#32, .shri 0x5 0x9 0xA 0xA5),
   (0x14712A5E#32, .sar 0x5 0x9 0xA 0xB 0x6), (0x14752AE6#32, .clz 0x5 0x9 0xA 0x6), (0x14792AE6#32, .popc 0x5 0x9 0xA 0x6),
   (0x147D2A5E#32, .bfx 0x5 0x9 0xA 0xB 0x6), (0x14812A5E#32, .bfi 0x5 0x9 0xA 0xB 0x6),
   (0x14852A5E#32, .sel 0x5 0x9 0xA 0xB 0x6), (0x14892A5E#32, .cmpeq 0x5 0x9 0xA 0xB 0x6),
   (0x148D2A5E#32, .cmpne 0x5 0x9 0xA 0xB 0x6)] = true := by decide +kernel

/-- Words of the opcode tables (R228, R230 to R240), part 2. -/
theorem test_decode_words_2 :
    decodesTo [(0x14912A5E#32, .cmplt 0x5 0x9 0xA 0xB 0x6), (0x14952A5E#32, .cmple 0x5 0x9 0xA 0xB 0x6),
   (0x14992AA5#32, .cmpeqi 0x5 0x9 0xA 0xA5), (0x149D2AA5#32, .cmplti 0x5 0x9 0xA 0xA5),
   (0x14C12A5E#32, .fadd 0x5 0x9 0xA 0xB 0x6), (0x14C52A5E#32, .fsub 0x5 0x9 0xA 0xB 0x6),
   (0x14C92A5E#32, .fmul 0x5 0x9 0xA 0xB 0x6), (0x14CD2A5E#32, .ffma 0x5 0x9 0xA 0xB 0x6),
   (0x14D12A5E#32, .ffms 0x5 0x9 0xA 0xB 0x6), (0x14D52A5E#32, .fmin 0x5 0x9 0xA 0xB 0x6),
   (0x14D92A5E#32, .fmax 0x5 0x9 0xA 0xB 0x6), (0x14DD2AE6#32, .fabs 0x5 0x9 0xA 0x6),
   (0x14E12AE6#32, .fneg 0x5 0x9 0xA 0x6), (0x14E52A5E#32, .fcmpeq 0x5 0x9 0xA 0xB 0x6),
   (0x14E92A5E#32, .fcmplt 0x5 0x9 0xA 0xB 0x6), (0x14ED2A5E#32, .fcmple 0x5 0x9 0xA 0xB 0x6),
   (0x14F12A5E#32, .fcmpun 0x5 0x9 0xA 0xB 0x6), (0x14F52AE6#32, .frcpe 0x5 0x9 0xA 0x6),
   (0x14F92AE6#32, .frsqe 0x5 0x9 0xA 0x6), (0x14FD2AE6#32, .fexp2 0x5 0x9 0xA 0x6),
   (0x15012AE6#32, .flog2 0x5 0x9 0xA 0x6), (0x15052A5E#32, .fdiv 0x5 0x9 0xA 0xB 0x6),
   (0x15092AE6#32, .fsqrt 0x5 0x9 0xA 0x6), (0x150D2AE6#32, .frnd 0x5 0x9 0xA 0x6),
   (0x15112AE6#32, .fclass 0x5 0x9 0xA 0x6), (0x15152A5E#32, .fscl 0x5 0x9 0xA 0xB 0x6),
   (0x15412A16#32, .cvt 0x5 0x9 0xA 0x2 0x6), (0x15452A16#32, .cvts 0x5 0x9 0xA 0x2 0x6),
   (0x15492A5E#32, .pack 0x5 0x9 0xA 0xB 0x6), (0x154D2AE6#32, .unpkl 0x5 0x9 0xA 0x6),
   (0x15512AE6#32, .unpkh 0x5 0x9 0xA 0x6), (0x15552A5E#32, .qnt 0x5 0x9 0xA 0xB 0x6),
   (0x15592A5E#32, .deq 0x5 0x9 0xA 0xB 0x6), (0x155D2A5E#32, .qdot 0x5 0x9 0xA 0xB 0x6),
   (0x15612A5E#32, .scld 0x5 0x9 0xA 0xB 0x6), (0x15812A5E#32, .bcast 0x5 0x9 0xA 0xB 0x6)] = true := by decide +kernel

/-- Words of the opcode tables (R228, R230 to R240), part 3. -/
theorem test_decode_words_3 :
    decodesTo [(0x15852A5E#32, .perm 0x5 0x9 0xA 0xB 0x6), (0x15892AA5#32, .lrot 0x5 0x9 0xA 0xA5),
   (0x158D2AE6#32, .rsum 0x5 0x9 0xA 0x6), (0x15912AE6#32, .rmax 0x5 0x9 0xA 0x6), (0x15952AE6#32, .rmin 0x5 0x9 0xA 0x6),
   (0x15992AE6#32, .scan 0x5 0x9 0xA 0x6), (0x159D2AE6#32, .filter 0x5 0x9 0xA 0x6), (0x15A12AE6#32, .coal 0x5 0x9 0xA 0x6),
   (0x15A52AE6#32, .mskg 0x5 0x9 0xA 0x6), (0x15A92A5E#32, .msks 0x5 0x9 0xA 0xB 0x6), (0x15AD3CE6#32, .laneid 0x5 0x9 0x6),
   (0x15B12AA5#32, .insl 0x5 0x9 0xA 0xA5), (0x15B52AA5#32, .extl 0x5 0x9 0xA 0xA5), (0x15C380C3#32, .pset 0x5 0xC3),
   (0x15C780C3#32, .pclr 0x5 0xC3), (0x15CB80C3#32, .pflip 0x5 0xC3), (0x15CCAAE0#32, .ptest 0x5 0x5 0xA),
   (0x15D0AAE0#32, .pany 0x5 0x5 0xA), (0x15D4AAE0#32, .pall 0x5 0x5 0xA), (0x15D93CE0#32, .pmovRead 0x5 0x9),
   (0x15DB8AE0#32, .pmovWrite 0x5 0xA), (0x16012AE0#32, .hdr 0x5 0x9 0xA), (0x16052A58#32, .hdrt 0x5 0x9 0xA 0xB),
   (0x16092A58#32, .hdrm 0x5 0x9 0xA 0xB), (0x160D2A58#32, .hdre 0x5 0x9 0xA 0xB), (0x16112A58#32, .hdrf 0x5 0x9 0xA 0xB),
   (0x16152A58#32, .hdrc 0x5 0x9 0xA 0xB), (0x16192AE6#32, .time 0x5 0x9 0xA 0x6), (0x161D2AE0#32, .endr 0x5 0x9 0xA),
   (0x16212A58#32, .emit 0x5 0x9 0xA 0xB), (0x16252AE0#32, .drop 0x5 0x9 0xA), (0x16292A58#32, .steer 0x5 0x9 0xA 0xB),
   (0x162D2AE0#32, .route 0x5 0x9 0xA), (0x16312A58#32, .dmd 0x5 0x9 0xA 0xB), (0x16352A58#32, .dmdr 0x5 0x9 0xA 0xB),
   (0x16392A58#32, .dmdk 0x5 0x9 0xA 0xB)] = true := by decide +kernel

/-- Words of the opcode tables (R228, R230 to R240), part 4. -/
theorem test_decode_words_4 :
    decodesTo [(0x163D2A58#32, .rtfw 0x5 0x9 0xA 0xB), (0x16412A58#32, .mark 0x5 0x9 0xA 0xB),
   (0x16478AE0#32, .chkp 0x5 0xA), (0x164B8AE0#32, .chkl 0x5 0xA), (0x16812A5B#32, .ldb 0x5 0x9 0xA 0xB 0x3),
   (0x16852A5B#32, .stb 0x5 0x9 0xA 0xB 0x3), (0x16892A5B#32, .ldbg 0x5 0x9 0xA 0xB 0x3),
   (0x168D2A5B#32, .stbs 0x5 0x9 0xA 0xB 0x3), (0x16912AE0#32, .srd 0x5 0x9 0xA), (0x16978A58#32, .swr 0x5 0xA 0xB),
   (0x16992A58#32, .sgath 0x5 0x9 0xA 0xB), (0x169F8A58#32, .sscat 0x5 0xA 0xB), (0x16A13CE0#32, .scls 0x5 0x9),
   (0x16A52A03#32, .atomAdd 0x5 0x9 0xA 0x3), (0x16A52A0B#32, .atomMin 0x5 0x9 0xA 0x3),
   (0x16A52A13#32, .atomMax 0x5 0x9 0xA 0x3), (0x16A52A1B#32, .atomXchg 0x5 0x9 0xA 0x3),
   (0x16A52A23#32, .atomAnd 0x5 0x9 0xA 0x3), (0x16A52A2B#32, .atomOr 0x5 0x9 0xA 0x3),
   (0x16A52A33#32, .atomFadd 0x5 0x9 0xA 0x3), (0x16A7125E#32, .atomPair 0x5 0x18 0x2 0xB 0x3),
   (0x16A92A03#32, .atomrAdd 0x5 0x9 0xA 0x3), (0x16A92A0B#32, .atomrMin 0x5 0x9 0xA 0x3),
   (0x16A92A13#32, .atomrMax 0x5 0x9 0xA 0x3), (0x16A92A1B#32, .atomrXchg 0x5 0x9 0xA 0x3),
   (0x16A92A23#32, .atomrAnd 0x5 0x9 0xA 0x3), (0x16A92A2B#32, .atomrOr 0x5 0x9 0xA 0x3),
   (0x16AD2A5B#32, .cas 0x5 0x9 0xA 0xB 0x3), (0x16B12A5E#32, .empty 0x5 0x9 0xA 0xB 0x3),
   (0x16B52A58#32, .ldg 0x5 0x9 0xA 0xB), (0x16B92A58#32, .stg 0x5 0x9 0xA 0xB), (0x16BD2A5E#32, .cpy 0x5 0x9 0xA 0xB 0x3),
   (0x16C12A5E#32, .cpys 0x5 0x9 0xA 0xB 0x3), (0x16C52A5E#32, .cpyq 0x5 0x9 0xA 0xB 0x3),
   (0x16CB8A58#32, .pref 0x5 0xA 0xB), (0x16CF8003#32, .fence 0x5 0x3)] = true := by decide +kernel

/-- Words of the opcode tables (R228, R230 to R240), part 5. -/
theorem test_decode_words_5 :
    decodesTo [(0x16D12A5B#32, .waitne 0x5 0x9 0xA 0xB 0x3), (0x16D52AE6#32, .bari 0x5 0x9 0xA 0x3),
   (0x16D93CE6#32, .bara 0x5 0x9 0x3), (0x16DD2AE6#32, .barx 0x5 0x9 0xA 0x3), (0x16E12AE6#32, .barw 0x5 0x9 0xA 0x3),
   (0x16E52A5E#32, .bart 0x5 0x9 0xA 0xB 0x3), (0x17012A58#32, .mmcmd 0x5 0x9 0xA 0xB), (0x17052AE0#32, .accrd 0x5 0x9 0xA),
   (0x17092AE0#32, .accclr 0x5 0x9 0xA), (0x170F8000#32, .mxmodeLeave 0x5), (0x170F8001#32, .mxmodeEnter 0x5),
   (0x17112A58#32, .cutRows 0x5 0x9 0xA 0xB), (0x17112A59#32, .cutCols 0x5 0x9 0xA 0xB),
   (0x17112A5A#32, .cutContract 0x5 0x9 0xA 0xB), (0x17152003#32, .cutb 0x5 0x9 0x3), (0x17192AE0#32, .cutr 0x5 0x9 0xA),
   (0x171D2A58#32, .sphdr 0x5 0x9 0xA 0xB), (0x17212AE0#32, .kvapp 0x5 0x9 0xA), (0x17252AE0#32, .kvseal 0x5 0x9 0xA),
   (0x17292A58#32, .kvfork 0x5 0x9 0xA 0xB), (0x172D2005#32, .retspanKeep 0x5 0x9 0x5),
   (0x172D200D#32, .retspanRewind 0x5 0x9 0x5), (0x17312A58#32, .kvmask 0x5 0x9 0xA 0xB),
   (0x17352A58#32, .kvlook 0x5 0x9 0xA 0xB), (0x17392005#32, .kvtag 0x5 0x9 0x5), (0x173D2A58#32, .kvpar 0x5 0x9 0xA 0xB),
   (0x17412AE0#32, .ring 0x5 0x9 0xA), (0x17452A58#32, .kvnext 0x5 0x9 0xA 0xB), (0x1782A5A5#32, .br 0x5 0x2A5A5),
   (0x1786A5A5#32, .call 0x5 0x2A5A5), (0x178B8AE0#32, .ret 0x5 0xA), (0x178B9CE0#32, .retZ 0x5),
   (0x178D3CA5#32, .loop 0x5 0x9 0xA5), (0x17939CE0#32, .halt 0x5), (0x17953CE0#32, .yield 0x5 0x9),
   (0x179B8A58#32, .sendm 0x5 0xA 0xB)] = true := by decide +kernel

/-- Words of the opcode tables (R228, R230 to R240), part 6. -/
theorem test_decode_words_6 :
    decodesTo [(0x179D2A58#32, .sendmt 0x5 0x9 0xA 0xB), (0x17A13CE0#32, .recvm 0x5 0x9), (0x17A78002#32, .trap 0x5 0x2),
   (0x17A92000#32, .syscEcho 0x5 0x9), (0x17A92001#32, .syscSnap 0x5 0x9), (0x17A92002#32, .syscSediment 0x5 0x9),
   (0x17A92003#32, .syscQdepth 0x5 0x9), (0x17AD2003#32, .csrr 0x5 0x9 0x3), (0x17B12003#32, .csrw 0x5 0x9 0x3),
   (0x17B52A58#32, .cfgld 0x5 0x9 0xA 0xB), (0x17BB8A58#32, .ctxsv 0x5 0xA 0xB), (0x17BF8A58#32, .ctxrs 0x5 0xA 0xB),
   (0x17C12AE0#32, .launch 0x5 0x9 0xA), (0x17C52A58#32, .fwait 0x5 0x9 0xA 0xB), (0x17CB8A58#32, .fsig 0x5 0xA 0xB),
   (0x17CD2003#32, .perfrd 0x5 0x9 0x3), (0x17D12002#32, .trace 0x5 0x9 0x2), (0x17D78002#32, .brk 0x5 0x2),
   (0x17D93CE0#32, .migr 0x5 0x9), (0x17DD2000#32, .timerArm 0x5 0x9), (0x17DD2001#32, .timerRead 0x5 0x9),
   (0x17DD2002#32, .timerDisarm 0x5 0x9), (0x17E12000#32, .idrdPartCode 0x5 0x9), (0x17E12001#32, .idrdStepping 0x5 0x9),
   (0x17E12002#32, .idrdPhysicalPosition 0x5 0x9), (0x17E12003#32, .idrdLogicalId 0x5 0x9),
   (0x17E12004#32, .idrdPartition 0x5 0x9), (0x17E12005#32, .idrdSpareMap 0x5 0x9), (0x17E12006#32, .idrdSerialLow 0x5 0x9),
   (0x17E12007#32, .idrdSerialHigh 0x5 0x9)] = true := by decide +kernel

/-- NOP, t0: TRIG 000000, OPC 00000000, D A B 11100, TY 000 (R220, R222, R245). -/
theorem test_bits_nop : decodesTo [(0b00000000000000111001110011100000#32, .nop 0)] = true := by decide +kernel
/-- t3 ADD s0, s1, s2 .i64: TRIG 000011, OPC 00000100, D 01000, A 01001, B 01010, TY 110. -/
theorem test_bits_add : decodesTo [(0b00001100000100010000100101010110#32, .add 3 8 9 10 6)] = true := by decide +kernel
/-- FADD v0, v1, i2+ .f32: OPC 00110000, D 00000, A 00001, B 10110, TY 010. -/
theorem test_bits_fadd : decodesTo [(0b00000000110000000000000110110010#32, .fadd 0 0 1 22 2)] = true := by decide +kernel
/-- CVT v2, v3 from .f16x2 to .f32: OPC 01010000, B 00100. -/
theorem test_bits_cvt : decodesTo [(0b00000001010000000100001100100010#32, .cvt 0 2 3 4 2)] = true := by decide +kernel
/-- BR −1: OPC 11100000, OFF18 all ones. -/
theorem test_bits_br : decodesTo [(0b00000011100000111111111111111111#32, .br 0 0x3FFFF)] = true := by decide +kernel
/-- LDB s0, (s1 + s2) in A with .fe: OPC 10100000, SZ 011. -/
theorem test_bits_ldb : decodesTo [(0b00000010100000010000100101010011#32, .ldb 0 8 9 10 3)] = true := by decide +kernel
/-- CSRR s3, hs.epc: OPC 11101011, D 01011, SEL13 2. -/
theorem test_bits_csrr : decodesTo [(0b00000011101011010110000000000010#32, .csrr 0 11 2)] = true := by decide +kernel
/-- KVAPP s0, s1: OPC 11001000, B 11100, SZ 000. -/
theorem test_bits_kvapp : decodesTo [(0b00000011001000010000100111100000#32, .kvapp 0 8 9)] = true := by decide +kernel
/-- An opcode that no row has, and a B that MOV does not use with another code than 28, decode to none. -/
theorem test_bits_none : [0x00B80000#32, 0x00042000#32].all (fun w => match decodeWord w with | .ok _ => false | .error _ => true) = true := by
  decide +kernel

/-! ## Well-formed terms -/

/-- A message with a payload of so many bytes. -/
def msgLen (n : Nat) : Msg := { port := 0, conn := 0, rod := true, dest := 0, hdr := 0, payload := List.replicate n 0 }

/-- Each check refuses its ill-formed term and takes its neighbour. -/
theorem test_wf_operands :
    (Instr.pmovWrite 0 28).wf = false ∧ (Instr.pmovWrite 0 8).wf = true ∧ (Instr.ret 0 28).wf = false ∧ (Instr.ret 0 15).wf = true ∧
    (Instr.syscUnassigned 0 8 3).wf = false ∧ (Instr.syscUnassigned 0 8 4).wf = true ∧
    (Instr.atomAdd 0 24 16 2).wf = false ∧ (Instr.atomAdd 0 8 16 2).wf = true ∧ (Instr.atomAdd 0 24 16 3).wf = true ∧
    (Instr.atomAdd 0 24 15 2).wf = true ∧ (Instr.atomPair 0 8 0 0 1).wf = false ∧ (Instr.atomPair 0 24 0 0 1).wf = true := by decide
theorem test_wf_places :
    (Instr.tokenArrival ⟨256, 0, 0, 0⟩).wf = false ∧ (Instr.tokenArrival ⟨255, 256, 11, 0⟩).wf = true ∧
    (Instr.tokenArrival ⟨0, 257, 0, 0⟩).wf = false ∧ (Instr.tokenArrival ⟨0, 0, 12, 0⟩).wf = false ∧
    (Instr.elementSave 255 255).wf = true ∧ (Instr.elementSave 0 256).wf = false ∧ (Instr.elementSave 256 0).wf = false ∧
    (Instr.operationComplete 0 255 11).wf = true ∧ (Instr.operationComplete 0 0 12).wf = false ∧
    (Instr.helmSave 255).wf = true ∧ (Instr.helmSave 256).wf = false ∧ (Instr.bankWakeEnd 0 47 true).wf = true ∧
    (Instr.bankWakeEnd 0 48 true).wf = false ∧ (Instr.regionStop 0 0 0 256 11 31).wf = true ∧
    (Instr.regionStop 0 0 0 257 0 0).wf = false ∧ (Instr.regionStop 0 0 0 0 0 32).wf = false := by decide
theorem test_wf_message : (Instr.fenceRead (msgLen 65536)).wf = true ∧ (Instr.fenceRead (msgLen 65537)).wf = false := by
  have h : ∀ n, (Instr.fenceRead (msgLen n)).wf = decide (n ≤ 65536) := fun n => by
    simp only [Instr.wf, Msg.ok, msgLen, List.length_replicate]
  rw [h, h]; decide


/-! ## Integer and floating point -/

/-- s0 after row `k` of R245 with D s0, A s1, B s2. -/
def int (k y : Nat) (d a b : Nat) : Nat :=
  match intRows[k]? with
  | some row => res (row.term 0 8 9 10 (BitVec.ofNat 3 y)) (withS [d, a, b]) 0 (fun t => (getS (here t).regs 0).toNat)
  | none => 0

/-- R245 to R247, scalar, .i32 (0) and .u32 (1): MOV, ADD wraps, SUB, ADDS and SUBS clamp, MUL, MULH, MAD. -/
theorem test_int_add : [int 0 0 0 0x80000000 0, int 1 0 0 0x7FFFFFFF 1, int 1 1 0 0xFFFFFFFF 1, int 2 1 0 3 5, int 3 0 0 0x7FFFFFFF 1,
    int 3 1 0 0xFFFFFFFF 1, int 4 0 0 0x80000000 1, int 4 1 0 3 5, int 5 0 0 0xFFFFFFFF 2, int 6 0 0 0xFFFFFFFF 2,
    int 6 1 0 0xFFFFFFFF 2, int 7 1 5 3 4] =
   [0xFFFFFFFF80000000, 0xFFFFFFFF80000000, 0, 0xFFFFFFFE, 0x7FFFFFFF, 0xFFFFFFFF, 0xFFFFFFFF80000000, 0, 0xFFFFFFFFFFFFFFFE,
    0xFFFFFFFFFFFFFFFF, 1, 17] := by decide +kernel
/-- DIV and REM: by zero, the overflow, signs; MIN, MAX, ABS, NEG. -/
theorem test_int_div : [int 8 0 0 7 0, int 8 0 0 0x80000000 0xFFFFFFFF, int 8 0 0 0xFFFFFFF9 2, int 8 1 0 0xFFFFFFF9 2, int 9 0 0 7 0,
    int 9 0 0 0x80000000 0xFFFFFFFF, int 9 0 0 0xFFFFFFF9 2, int 10 0 0 0xFFFFFFFF 1, int 10 1 0 0xFFFFFFFF 1, int 11 0 0 0xFFFFFFFF 1,
    int 12 0 0 0x80000000 0, int 12 1 0 0x80000000 0, int 12 0 0 0xFFFFFFFF 0, int 13 0 0 1 0] =
   [0xFFFFFFFFFFFFFFFF, 0xFFFFFFFF80000000, 0xFFFFFFFFFFFFFFFD, 0x7FFFFFFC, 7, 0, 0xFFFFFFFFFFFFFFFF, 0xFFFFFFFFFFFFFFFF, 1, 1,
    0xFFFFFFFF80000000, 0x80000000, 1, 0xFFFFFFFFFFFFFFFF] := by decide +kernel
/-- The logic rows, the shifts modulo the width, CLZ and POPC. -/
theorem test_int_logic : [int 14 1 0 12 10, int 15 1 0 12 10, int 16 1 0 12 10, int 17 1 0 12 10, int 18 1 0 1 33, int 19 1 0 0x80000000 63,
    int 20 1 0 0x80000000 31, int 20 1 0 8 34, int 21 1 0 0 0, int 21 1 0 1 0, int 22 1 0 0xF00F 0] =
   [8, 14, 6, 4, 2, 1, 0xFFFFFFFF, 2, 32, 31, 8] := by decide +kernel
/-- BFX and BFI with lsb 4, wd 8, SEL by D, and the compares' masks. -/
theorem test_int_field : [int 23 1 0 0xABC0 0x804, int 23 0 0 0x0800 0x804, int 24 1 0xFFFF 0 0x804, int 25 1 0 1 2, int 25 1 7 1 2,
    int 26 1 0 5 5, int 27 1 0 5 5, int 28 0 0 0xFFFFFFFF 0, int 28 1 0 0xFFFFFFFF 0, int 29 1 0 5 5] =
   [0xBC, 0xFFFFFFFFFFFFFF80, 0xF00F, 2, 1, 0xFFFFFFFF, 0, 0xFFFFFFFFFFFFFFFF, 0, 0xFFFFFFFF] := by decide +kernel
/-- .i64 takes all 64 bits (R241). -/
theorem test_int_wide : [int 1 6 0 0xFFFFFFFF 1, int 6 6 0 0x100000000 0x100000000, int 18 6 0 1 63, int 21 6 0 1 0] =
   [0x100000000, 1, 0x8000000000000000, 63] := by decide +kernel

/-- s0 after an immediate row with source s1. -/
def imm (k d a i : Nat) : Nat :=
  match immRows[k]? with
  | some row => res (row.term 0 8 9 (BitVec.ofNat 13 i)) (withS [d, a]) 0 (fun t => (getS (here t).regs 0).toNat)
  | none => 0

/-- R227, R245: the immediates are sign-extended but for MOVSH and the shift counts. -/
theorem test_immediates : [imm 0 0 0 0x1FFF, imm 1 1 0 0x1FFF, imm 2 0 5 0xFF, imm 3 0 0x1234 0xF0, imm 4 0 0 0x80, imm 5 0 1 40, imm 6 0 256 4,
    imm 7 0 7 7, imm 8 0 0 1] =
   [0xFFFFFFFFFFFFFFFF, 0x3FFF, 4, 0x1230, 0xFFFFFFFFFFFFFF80, 2 ^ 40, 16, 0xFFFFFFFFFFFFFFFF, 0xFFFFFFFFFFFFFFFF] := by decide +kernel

/-- A head with lanes 0 and 2, on i0. -/
def oneHead : State := withNode (fun n => onCh 0 (tok 0 5 0 0 5 32 [10, 20, 30]) { n with regs := setV n.regs 0 (vec [1, 1, 1]) })

/-- R242: only the lanes that the head validates are written, and R75: the head is taken off where `+` asks for it. -/
theorem test_int_lanes : leads (.add 0 0 20 0 1) oneHead (fun t => yes [(getV (here t).regs 0).get 0 == 11, (getV (here t).regs 0).get 1 == 1,
    (getV (here t).regs 0).get 2 == 31, (nodePair (here t) 0).queue.isEmpty]) = true := by decide +kernel
theorem test_int_port : leads (.sub 0 24 16 0 1) oneHead (fun t => (nodePair (here t) 0).queue.length == 1 &&
    (nodePort (here t) 0).queue.isEmpty) = true := by decide +kernel

theorem witness_IntScalarResults : yes (isScalarShape [8, 9, 10] :: (List.range 30).flatMap (fun k => match intRows[k]? with
    | some row => [issuesB (row.term 0 8 9 10 1) (withS [1, 2, 3]), isHelm (withS [1, 2, 3]), k == 7 || k == 24 || k == 25 || issuesB (row.term 0 28 9 28 6) (withS [])]
    | none => [false])) = true := by decide +kernel
theorem witness_IntVectorResults : yes ((List.range 30).flatMap (fun k => match intRows[k]? with
    | some row =>
      let i := row.term 0 0 16 (if row.hasB then 1 else 28) 7
      [issuesB i oneHead, !isScalarShape [0, 16, 28], effTy (here oneHead) (fieldO (wordOf i)).toNat 16 7 |>.isOk,
       fires (here oneHead) (vecFire (here oneHead) 24 16 28 1 5 (vec [1, 2, 3]))]
    | none => [false])) = true := by decide +kernel
theorem witness_IntImmediateResults : yes ((List.range 9).flatMap (fun k => match immRows[k]? with
    | some row => [issuesB (row.term 0 8 9 0x1FFF) (withS [1]), row.src == 2 || issuesB (row.term 0 0 16 5) oneHead,
        row.src != 2 || issuesB (row.term 0 0 0 5) oneHead, fires (here oneHead) (vecFire (here oneHead) 0 16 28 0 5 (vec [1]))]
    | none => [false])) = true := by decide +kernel

/-- s0 and hs.fp after row `k` of the float table in .f32, with hs.fp at `fp`. -/
def flt (k fp d a b : Nat) : Nat × Nat :=
  match floatRows[k]? with
  | some row =>
    let s := withNode (fun n => { n with regs := { sregs [d, a, b] with fp := BitVec.ofNat 64 fp } })
    res (row.term 0 8 9 10 2) s (0, 0) (fun t => ((getS (here t).regs 0).toNat, (here t).regs.fp.toNat))
  | none => (0, 0)

/-- R183, R190, R248: 1 + 1, 1 − 1, 1.5 × 2, 2 × 3 + 1, 1 − 2 × 3; ∞ − ∞ is invalid; an overflow is ∞ by RNE. -/
theorem test_float_add : [flt 0 0 0 0x3F800000 0x3F800000, flt 1 0 0 0x3F800000 0x3F800000, flt 2 0 0 0x3FC00000 0x40000000,
    flt 3 0 0x3F800000 0x40000000 0x40400000, flt 4 0 0x3F800000 0x40000000 0x40400000, flt 1 0 0 0x7F800000 0x7F800000,
    flt 2 0 0 0x7F7FFFFF 0x40000000] =
   [(0x40000000, 0), (0, 0), (0x40400000, 0), (0x40E00000, 0), (0xC0A00000, 0), (0x7FC00000, 16), (0x7F800000, 5)] := by decide +kernel
/-- FMIN, FMAX, FABS, FNEG, the compares, FDIV by zero, FSQRT, FRND, FCLASS and FSCL. -/
theorem test_float_more : [flt 5 0 0 0x3F800000 0xBF800000, flt 6 0 0 0x3F800000 0xBF800000, flt 7 0 0 0xBF800000 0, flt 8 0 0 0x3F800000 0,
    flt 9 0 0 0 0x80000000, flt 10 0 0 0xBF800000 0, flt 11 0 0 0x3F800000 0x3F800000, flt 12 0 0 0x7FC00000 0, flt 17 0 0 0x3F800000 0,
    flt 17 0 0 0x40C00000 0x40000000, flt 18 0 0 0x40800000 0, flt 19 0 0 0x3FC00000 0, flt 21 0 0 0x3F800000 3] =
   [(0xBF800000, 0), (0x3F800000, 0), (0x3F800000, 0), (0xBF800000, 0), (0xFFFFFFFF, 0), (0xFFFFFFFF, 0), (0xFFFFFFFF, 0),
    (0xFFFFFFFF, 0), (0x7F800000, 8), (0x40400000, 0), (0x40000000, 0), (0x40000000, 1), (0x41000000, 0)] := by decide +kernel
/-- R189: RM 1 rounds towards zero. -/
theorem test_float_mode : flt 2 0x40 0 0x7F7FFFFF 0x40000000 = (0x7F7FFFFF, 0x45) := by decide +kernel

/-- A helm core that traps on an invalid operation (TEN bit 12), with ∞ in s1. -/
def invalidOn : State := trapping (fun h => { h with node := { h.node with regs := { sregs [0, 0x7F800000, 0x7F800000] with fp := 0x1000 } } })

/-- R191: the trap, its argument the flag; nothing is written. -/
theorem test_float_trap : leads (.fsub 0 8 9 10 2) invalidOn (fun t => yes [(getH t 0).pc == 1024, (getH t 0).epc == 512,
    Bits.nat (getH t 0).cause 23 16 == 6, Bits.nat (getH t 0).cause 12 0 == 16, (here t).regs.fp == 0x1000, getS (here t).regs 0 == 0]) = true := by
  decide +kernel

/-- A head of FMT FP32 on i0 with a register beside it. -/
def floatHead : State := withNode (fun n => onCh 0 (tok 0 0 0 0 3 32 [0x3F800000, 0x40000000]) { n with regs := setV n.regs 0 (vec [0x3F800000, 0x3F800000]) })

theorem witness_FloatScalarResults : yes ((List.range 22).flatMap (fun k => match floatRows[k]? with
    | some row => [isScalarShape [8, 9, 10], issuesB (row.term 0 8 9 10 2) (withS [1, 2, 3]), issuesB (row.term 0 8 9 10 2) invalidOn, isHelm invalidOn]
    | none => [false])) = true := by decide +kernel
theorem witness_FloatScalarTrap :
    (onFloats 2 (fun f rm _ a b => fSub f rm a b) 0 0 0x7F800000 0x7F800000).2 &&& (here invalidOn).regs.fp.extractLsb' 8 5 ≠ 0 := by decide +kernel
theorem witness_FloatVectorResults : yes ((List.range 22).flatMap (fun k => match floatRows[k]? with
    | some row =>
      let i := row.term 0 0 16 (if row.hasB then 0 else 28) 7
      [issuesB i floatHead, effTy (here floatHead) (fieldO (wordOf i)).toNat 16 7 |>.isOk, !isScalarShape [0, 16, 0]]
    | none => [false])) = true := by decide +kernel
theorem test_float_lanes : leads (.fadd 0 0 16 0 7) floatHead (fun t => yes [(getV (here t).regs 0).get 0 == 0x40000000,
    (getV (here t).regs 0).get 1 == 0x40400000, (getV (here t).regs 0).get 2 == 0]) = true := by decide +kernel
theorem witness_RoundingExact : yes [(fUnpack f32 0x3F800000).cls == .fin, (fUnpack bf16 1).cls == .fin, (fUnpack f16 0xFBFF).cls == .fin,
    fPack f16 3 (fUnpack f16 0xFBFF).neg (fUnpack f16 0xFBFF).num (fUnpack f16 0xFBFF).den == (0xFBFF, 0)] = true := by decide +kernel

/-! ## Conversion and lanes -/

/-- v2 and hs.fp after an instruction on v0 and v1. -/
def onV (i : Instr) (x y : List Nat) : List Nat × Nat :=
  res i (withV x y) ([], 0) (fun t => ((List.range 8).map (fun k => ((getV (here t).regs 2).get k).toNat), (here t).regs.fp.toNat))

/-- R251, R195: 1.5 to an integer by RNE (2, inexact), a NaN to 0 with NV, and 3 to FP32. -/
theorem test_cvt : [onV (.cvt 0 2 0 2 0) [0x3FC00000, 0x7FC00000] [], onV (.cvt 0 2 0 0 2) [3, 0xFFFFFFFF] [],
    onV (.cvts 0 2 0 0 1) [0xFFFFFFFF, 7] [], onV (.cvt 0 2 0 2 3) [0x3F800000] []] =
   [([2, 0, 0, 0, 0, 0, 0, 0], 17), ([0x40400000, 0xBF800000, 0, 0, 0, 0, 0, 0], 0), ([0, 7, 0, 0, 0, 0, 0, 0], 0),
    ([0x3F80, 0, 0, 0, 0, 0, 0, 0], 0)] := by decide +kernel
/-- R253, the worked example: scale 0.5 with zero point 128; 1.0, −0.75, 100.0 and a NaN. -/
theorem test_scaled : [onV (.qnt 0 2 0 1 5) [0x3F800000, 0xBF400000, 0x42C80000, 0x7FC00000] (List.replicate 16 0x00803800),
    onV (.deq 0 2 0 1 2) [130, 126, 255, 128] (List.replicate 16 0x00803800), onV (.qdot 0 2 0 1 0) [0x01020304] [0x01010101],
    onV (.scld 0 2 0 1 2) [0x00000000] [0x437F0000]] =
   [([130, 126, 255, 128, 128, 128, 128, 128], 0x15), ([0x3F800000, 0xBF800000, 0x427E0000, 0, 0xC2800000, 0xC2800000, 0xC2800000, 0xC2800000], 0),
    ([10, 0, 0, 0, 0, 0, 0, 0], 0), ([0x3C00, 0x3C00, 0x3C00, 0x3C00, 0x3C00, 0x3C00, 0x3C00, 0x3C00], 0)] := by decide +kernel
/-- R252: PACK of the codes of the worked example, and UNPKL and UNPKH of halves. -/
theorem test_pack : [(onV (.pack 0 2 0 28 5) [130, 126, 255, 128, 128] []).1.take 2, (onV (.unpkl 0 2 0 5) [0x80FF7E82, 5] []).1.take 5,
    (onV (.unpkh 0 2 0 3) [0, 0, 0, 0, 0, 0, 0, 0] []).1.take 2] = [[0x80FF7E82, 0x80], [0x82, 0x7E, 0xFF, 0x80, 5], [0, 0]] := by decide +kernel
/-- R254: BCAST, PERM, LROT, INSL, EXTL and LANEID. -/
theorem test_lanes : [(onV (.bcast 0 2 0 1 1) [5, 6, 7] [1]).1.take 2, (onV (.perm 0 2 0 1 1) [5, 6, 7] [2, 1, 0]).1.take 3,
    (onV (.lrot 0 2 0 1) [5, 6, 7] []).1.take 3, (onV (.insl 0 2 0 1) [5] []).1.take 2, (onV (.extl 0 2 0 2) [5, 6, 7] []).1.take 2,
    (onV (.laneid 0 2 0) [] []).1.take 3] = [[6, 6], [7, 6, 5], [6, 7, 0], [0, 5], [7, 7], [0, 1, 2]] := by decide +kernel
/-- R255: the reductions over all lanes, and SCAN. -/
theorem test_reduce : [(onV (.rsum 0 2 0 0) [1, 2, 3] []).1.take 1, (onV (.rmax 0 2 0 0) [1, 9, 0xFFFFFFFF] []).1.take 1,
    (onV (.rmin 0 2 0 0) [1, 9, 0xFFFFFFFF] []).1.take 1, (onV (.scan 0 2 0 0) [1, 2, 3] []).1.take 4] =
   [[6], [9], [0xFFFFFFFF], [1, 3, 6, 6]] := by decide +kernel
/-- R256, R258: FILTER of lanes 0 and 2, MSKG and MSKS. -/
theorem test_filter : leads (.filter 0 2 16 7) oneHead (fun t => yes [(getV (here t).regs 2).get 0 == 10, (getV (here t).regs 2).get 1 == 30,
    (getV (here t).regs 2).get 2 == 0]) = true := by decide +kernel
theorem test_masks : res (.mskg 0 8 16 0) oneHead 0 (fun t => (getS (here t).regs 0).toNat) = 5 ∧
    leads (.msks 0 2 16 0 7) oneHead (fun t => (getV (here t).regs 2).get 0 == 10) = true := by decide +kernel

/-- The conversions with legal types. -/
def convs : List Instr := [.cvt 0 0 16 0 2, .cvts 0 0 16 0 2]
/-- A head of FP32 with a scale beside it. -/
def scaleHead : State := withNode (fun n => onCh 0 (tok 0 0 0 0 3 32 [0x3F800000, 0x40000000]) { n with regs := setV n.regs 1 (vec [0x3C00, 0x3C00]) })
/-- The same with every trap enabled. -/
def allOn (s : State) : State := setHere s { here s with regs := { (here s).regs with fp := 0x1F00 } }

theorem witness_ConvertVectorResults : yes [issuesB (.cvt 0 0 16 2 0) scaleHead, issuesB (.cvts 0 0 16 2 0) scaleHead, issuesB (.qnt 0 0 16 1 5) scaleHead,
    issuesB (.deq 0 0 16 1 2) scaleHead, issuesB (.qdot 0 0 16 1 0) scaleHead, issuesB (.scld 0 0 16 1 2) scaleHead,
    effTy (here scaleHead) 0x50 16 0 |>.isOk, !isScalarShape [0, 16, 28]] = true := by decide +kernel
theorem witness_ConvertVectorTrap : yes [issuesB (.scld 0 2 0 1 2) (allOn (withV [0x40000000] [0x3F800000])),
    leads (.scld 0 2 0 1 2) (trapping (fun h => { h with node := { h.node with regs := { setV (setV h.node.regs 0 (vec [0x40000000])) 1 (vec []) with fp := 0x1F00 } } }))
      (fun t => Bits.nat (getH t 0).cause 23 16 == 6)] = true := by decide +kernel
theorem witness_ConvertScalarResults : yes [issuesB (.cvt 0 8 9 2 0) (withS [0, 0x3FC00000]), issuesB (.cvts 0 8 9 6 2) (withS [0, 0x3FC00000]),
    isScalarShape [8, 9], issuesB (.cvt 0 8 9 2 0) (allOn (withS [0, 0x7FC00000])),
    res (.cvt 0 8 9 0 6) (withS [0, 0xFFFFFFFF]) 0 (fun t => getS (here t).regs 0) == 0xFFFFFFFFFFFFFFFF] = true := by decide +kernel
theorem witness_LaneScalarResults : yes ([Instr.qnt 0 8 9 10 5, .deq 0 8 9 10 2, .qdot 0 8 9 10 1, .scld 0 8 9 10 2, .bcast 0 8 9 10 0, .perm 0 8 9 10 6,
    .pack 0 8 9 10 3, .unpkl 0 8 9 3, .unpkh 0 8 9 5, .rsum 0 8 9 2, .rmax 0 8 9 0, .rmin 0 8 9 1, .filter 0 8 9 5,
    .mskg 0 28 9 0, .msks 0 8 9 10 0].map (fun i => issuesB i (withS [1, 2, 3])) ++ [!issuesB (.scan 0 8 9 4) (withS [1, 2, 3])]) = true := by decide +kernel
theorem witness_LaneScalarTrap : yes [issuesB (.rsum 0 8 9 3) (allOn (withS [0, 0x7F80FF80])),
    (reduced 0 3 0 (srcLanes (here (withS [0, 0x7F80FF80])) 9) 1).2 == 16] = true := by decide +kernel
theorem witness_LaneVectorResults : yes ([Instr.bcast 0 2 0 1 1, .perm 0 2 0 1 1, .pack 0 2 0 1 3, .unpkl 0 2 0 3, .unpkh 0 2 0 3, .rsum 0 2 0 2,
    .rmax 0 2 0 2, .rmin 0 2 0 2, .scan 0 2 0 2, .laneid 0 2 1, .bcast 0 24 16 8 7].map (fun i => issuesB i scaleHead) ++
    [!isScalarShape [2, 0, 28], fires (here scaleHead) (vecFire (here scaleHead) 24 16 28 2 3 0)]) = true := by decide +kernel
theorem witness_LaneVectorTrap : yes [issuesB (.rsum 0 2 0 2) (allOn (withV [0x7F800000, 0xFF800000] [])),
    (reduced 0 2 0 (vec [0x7F800000, 0xFF800000]) 0xFFFF).2 == 16] = true := by decide +kernel
theorem witness_LaneToScalarResults : yes ([Instr.rsum 0 8 16 2, .rmax 0 8 16 2, .rmin 0 8 16 2, .extl 0 8 16 5, .extl 0 8 16 1, .mskg 0 8 16 0, .rsum 0 8 0 0,
    .lrot 0 24 16 17, .insl 0 2 16 15, .extl 0 24 16 0, .mskg 0 2 16 0, .msks 0 2 16 8 7].map (fun i => issuesB i scaleHead) ++
    [fires (here scaleHead) (vecFire (here scaleHead) 24 16 28 0 3 0), !isScalarShape [2, 16]]) = true := by decide +kernel
theorem test_extl_invalid : res (.extl 0 8 16 1) oneHead 7 (fun t => getS (here t).regs 0) = 0 := by decide +kernel
theorem witness_LaneToScalarTrap : yes [issuesB (.rsum 0 8 0 2) (allOn (withV [0x7F800000, 0xFF800000] [])), classOf 8 == 2, classOf 0 == 1] = true := by
  decide +kernel

/-! ## Compaction, predicates, headers, tokens -/

theorem witness_CompactionResults : yes [issuesB (.filter 0 24 16 7) oneHead, issuesB (.filter 0 2 16 0) oneHead, issuesB (.coal 0 24 16 7) oneHead,
    effTy (here oneHead) 0x67 16 7 |>.isOk, fires (here oneHead) (vecFire (here oneHead) 2 16 28 0 3 0),
    leads (.coal 0 24 16 7) oneHead (fun t => match (nodePort (here t) 0).coal with
      | some o => o.pay.get 0 == 10 && o.pay.get 1 == 30 && hMask o.hdr == 3 && hT o.hdr == 32 | none => false)] = true := by decide +kernel

/-- p after an instruction on s1, with p at 0x0F. -/
def pAfter (i : Instr) (x : Nat) : Nat :=
  res i (withNode (fun n => { n with regs := { sregs [0, x] with p := 0x0F } })) 0x100 (fun t => (here t).regs.p.toNat)
/-- R259, R260. -/
theorem test_predicates : [pAfter (.pset 0 0xF0) 0, pAfter (.pclr 0 0x03) 0, pAfter (.pflip 0 0x81) 0, pAfter (.ptest 0 7 9) 1, pAfter (.ptest 0 0 9) 0,
    pAfter (.pany 0 7 9) 1, pAfter (.pall 0 1 9) 0, pAfter (.pmovWrite 0 9) 0x1A5] = [0xFF, 0x0C, 0x8E, 0x8F, 0x0E, 0x8F, 0x0D, 0xA5] := by decide +kernel
theorem test_pmov_read : res (.pmovRead 0 8) (withNode (fun n => { n with regs := { n.regs with p := 0xA5 } })) 0 (fun t => getS (here t).regs 0) = 0xA5 := by
  decide +kernel
theorem witness_PredicateResults : yes ([Instr.pset 0 0xFF, .pclr 0 0, .pflip 0 1, .ptest 0 7 16, .ptest 0 0 8, .pany 0 7 0, .pall 0 7 16, .pmovRead 0 15, .pmovRead 0 24,
    .pmovWrite 0 16, .pmovWrite 0 0].map (fun i => issuesB i oneHead) ++ [fires (here oneHead) (vecFire (here oneHead) 24 28 28 0 0xFFFF 0),
    (staticFault true (fieldsWord 0 0x76 8 9 28 0)).isSome, (staticFault true (fieldsWord 0 0x76 28 28 28 0)).isNone, (staticFault true (fieldsWord 0 0x76 28 28 28 1)).isSome,
    (staticFault false (fieldsWord 0 0x76 28 23 28 0)).isNone]) = true := by decide +kernel

/-- s0 after a header instruction with the head on i0 and B in s1. -/
def header (i : Instr) (b : Nat) : Nat :=
  res i (withNode (fun n => onCh 0 (tok 1 2 3 4 0x8001 0x123 []) { n with regs := sregs [0, b] })) 0 (fun t => (getS (here t).regs 0).toNat)
/-- R35, R264, R265: KIND 1, FMT 2, END 3, CTX 4, VMASK 0x8001, T 0x123; each replaces its field by B's. -/
theorem test_headers : [header (.hdr 0 8 16) 0, header (.hdrt 0 8 16 9) 0x5555555555, header (.hdrm 0 8 16 9) 0x10003, header (.hdre 0 8 16 9) 9, header (.hdrf 0 8 16 9) 0x1F,
    header (.hdrc 0 8 16 9) 0x1F, header (.time 0 8 16 6) 0, header (.endr 0 8 16) 0] =
   [0x5348001000000123, 0x5348001555555555, 0x5340003000000123, 0x5148001000000123, 0xFB48001000000123, 0x53F8001000000123, 0x123, 3] := by decide +kernel
theorem witness_HeaderResults : yes ([Instr.hdr 0 8 16, .hdrt 0 15 9 10, .hdrm 0 8 16 9, .hdre 0 8 16 28, .hdrf 0 8 16 9, .hdrc 0 8 16 9, .time 0 8 16 6, .time 0 7 16 1,
    .endr 0 8 16, .endr 0 0 16].map (fun i => issuesB i oneHead) ++ [(staticFault true (fieldsWord 0 0x83 0 16 9 0)).isSome,
    (staticFault true (fieldsWord 0 0x80 8 9 28 0)).isNone, (staticFault false (fieldsWord 0 0x86 0 16 28 6)).isSome,
    (staticFault false (fieldsWord 0 0x87 8 9 28 0)).isSome]) = true := by decide +kernel

/-- A head on i0 with END `en`, and open ports. -/
def endHead (kind fmt en : Nat) (m : BitVec 16) (l : List Nat) : State :=
  withNode (fun n => onCh 0 (tok kind fmt en 0 m 32 l) { n with regs := sregs [0x5348001000000123, 3, 2], ports := vSet n.ports 0 { Port.reset with dests := [0] } })
/-- The token on o0. -/
def sent (i : Instr) (s : State) : List (Nat × Nat) :=
  res i s [] (fun t => (nodePort (here t) 0).queue.map (fun o => (o.tok.hdr.toNat, (o.tok.pay.get 0).toNat)))
/-- R267, R273: DROP passes END 2 on with VMASK 0, MARK fires its own marker with the scalars' low words. -/
theorem test_tokens : [sent (.drop 0 24 16) (endHead 0 5 2 1 [9]), sent (.mark 0 24 9 10) (endHead 0 5 0 1 [9]), sent (.emit 0 24 16 16) (endHead 0 5 2 1 [9])] =
   [[((mkHdr 0 5 2 0 0 32).toNat, 9)], [((mkHdr 2 7 0 0 7 0).toNat, 3)], [((mkHdr 0 5 2 0 1 32).toNat, 9)]] := by decide +kernel
theorem witness_TokenResults : yes [issuesB (.emit 0 24 16 8) (endHead 0 5 0 1 [9]), issuesB (.emit 0 24 16 16) (endHead 2 7 0 7 [2]),
    isCutMarker (tok 2 7 0 0 7 0 [2]), !isCutMarker (tok 2 7 0 0 7 0 [3]), issuesB (.drop 0 24 16) (endHead 0 5 7 0 []), issuesB (.drop 0 28 16) (endHead 0 5 7 0 []),
    issuesB (.drop 0 24 16) (endHead 0 5 0 1 []), issuesB (.steer 0 24 16 9) (endHead 0 5 0 3 [1, 0]), issuesB (.route 0 24 16) (endHead 0 6 0 3 [1, 0]),
    isCoord (tok 0 6 0 0 3 0 []).hdr, issuesB (.mark 0 24 9 10) (endHead 0 5 0 1 []), issuesB (.mark 0 24 10 9) (endHead 0 5 0 1 []), srcVal (here (endHead 0 5 0 1 [])) 10 == 2,
    fires (here (endHead 0 5 7 0 [])) (fireTok (here (endHead 0 5 7 0 [])).regs 0 (tok 0 5 7 0 0 32 []) true)] = true := by decide +kernel
/-- R256: pairs 1 and 3 of a COORD head move to pairs 0 and 1, and both halves of VMASK say so. -/
theorem test_filter_coord : leads (.filter 0 24 16 7) (endHead 0 6 0 0x0A [0, 1, 2, 3, 4, 5, 6, 7, 10, 11, 12, 13]) (fun t =>
    (nodePort (here t) 0).queue.map (fun o => (hMask o.tok.hdr, [0, 1, 8, 9].map o.tok.pay.get)) == [(0x0303, [1, 3, 11, 13])]) = true := by
  decide +kernel
theorem test_steer : leads (.steer 0 24 16 9) (endHead 0 5 0 3 [1, 0]) (fun t => yes [(nodePort (here t) 1).queue.isEmpty, (nodePair (here t) 0).queue.length == 1]) = true := by
  decide +kernel

/-! ## Helm cores -/

/-- A launch that runs in region 0. -/
def job : Launch :=
  { ltag := 7, part := 1, prio := 0, qsel := 0, order := 0, started := 0, record := List.replicate 256 0, conn := none, phase := .running,
    place := [0], firstPlace := [0], origin := 0, dims := (1, 1, 1), phys := [], gdig := 0, nsec := 1, wide := false, cut := none, cutSeq := 0,
    wantEbb := false, wantSnap := false, window := 0, win := [], fills := [], commits := [], snap := none, rollbacks := 0, aborts := 0,
    fault := none, hits := [], fatalRec := 0, recurred := false, overflow := false, lowered := false, migPosted := none, thermal := false, repost := none,
    declined := [], forHead := none, again := none, quietSince := none, abandon := false, chains := [], chainSince := [], peers := [], partials := [],
    engines := [], ending := false, taken := [], raceFlag := false, raceNow := [] }

/-- A device whose region 0 runs a launch. -/
def graph (x : Launch) (g : Region) : State :=
  { State.reset with regions := [(0, { g with launch := some 0 })], launches := [(0, x)], agent := .helm 0 }
/-- A region by its helm core. -/
def reg (f : Helm → Helm) : Region := { Region.reset with helm := f Helm.reset }
/-- A helm core that executes in a launch, with scalars. -/
def inGraph (l : List Nat) (f : Helm → Helm) : State := graph job (reg (fun h => f { h with node := { h.node with regs := sregs l }, running := true }))

/-- A flight whose operation writes a port. -/
def flying (t : Option Trap) : State := elem (fun n => { n with flight := some ⟨0, { regs := sregs [5], out := [], coal := none }, t⟩ })
theorem witness_HeldOperations : isLong (.mul 0 8 9 10 0) ∧ isLong (.fadd 0 8 9 10 2) ∧ isLong (.cvt 0 8 9 0 2) ∧ isLong (.rsum 0 0 16 0) ∧
    yes [issuesB (.mul 0 8 9 10 0) (elem id), issuesB (.fadd 0 8 9 10 2) (elem id), graphRuns (flying none) 0,
      !ebbSaved (flying none) 0 (getE (flying none) 0 0).saved, (getN (flying none) 0 0 0).flight.isSome,
      (getN (flying (some ⟨6, 1, 0, 0⟩)) 0 0 0).flight.isSome, fires { getN (flying none) 0 0 0 with flight := none } { regs := sregs [5], out := [], coal := none }] = true := by
  refine ⟨.inl ⟨_, .tail _ (.tail _ (.tail _ (.tail _ (.tail _ (.head _))))), rfl, 0, 8, 9, 10, 0, rfl⟩, .inr (.inl ⟨_, .head _, 0, 8, 9, 10, 2, rfl⟩),
    .inr (.inr (.inl ⟨_, .head _, 0, 8, 9, 0, 2, rfl⟩)),
    .inr (.inr (.inr ⟨_, .tail _ (.tail _ (.tail _ (.tail _ (.tail _ (.head _))))), rfl, 0, 0, 16, 28, 0, rfl⟩)), ?_⟩
  decide +kernel
theorem test_held : leads (.mul 0 8 9 10 1) (elem (fun n => { n with regs := sregs [0, 3, 4] })) (fun t => getS (here t).regs 0 == 0 && (here t).flight.isSome) = true ∧
    leads (.operationComplete 0 0 0) (flying none) (fun t => getS (getN t 0 0 0).regs 0 == 5 && (getN t 0 0 0).flight.isNone) = true := by decide +kernel

/-- R316, R317, at PC 512: BR −1, CALL +2, RET through s7, LOOP with 2 and with 1. -/
theorem test_flow : leads (.br 0 0x3FFFF) (withS []) (fun t => (getH t 0).pc == 508) = true ∧
    leads (.call 0 2) (withS []) (fun t => (getH t 0).pc == 520 && getS (here t).regs 7 == 516) = true ∧
    leads (.ret 0 8) (withS [0x100600]) (fun t => (getH t 0).pc == 0x600) = true ∧
    leads (.loop 0 8 0xFE) (withS [2]) (fun t => (getH t 0).pc == 504 && getS (here t).regs 0 == 1) = true ∧
    leads (.loop 0 8 0xFE) (withS [1]) (fun t => (getH t 0).pc == 516 && getS (here t).regs 0 == 0) = true := by decide +kernel
/-- A core that has a message and a copy in flight. -/
def busy : State := core (fun h => { h with recv := [1], copies := [⟨0, 0, 0, 0, 0, 0, 0, [], false⟩] })
theorem witness_FlowResults : yes [issuesB (.br 0 0) (withS []), issuesB (.call 0 0x1FFFF) (core id), issuesB (.ret 0 15) (withS []),
    issuesB (.loop 0 8 0) (withS []), issuesB (.halt 0) (withS []), issuesB (.halt 0) busy, issuesB (.yield 0 28) busy, yieldSet (getH busy 0) == 1,
    issuesB (.yield 0 8) (withS []), yieldSet (getH (withS []) 0) == 0] = true := by decide +kernel
theorem test_halt : leads (.halt 0) (withS []) (fun t => (getH t 0).halted) = true ∧ leads (.halt 0) busy (fun t => !(getH t 0).halted && (getH t 0).wait == .halt &&
    (getH t 0).pc == 512) = true ∧ leads (.yield 0 8) busy (fun t => getS (here t).regs 0 == 1) = true := by decide +kernel

theorem witness_TrapReturn : yes [issuesB (.retZ 0) (core (fun h => { h with epc := 0x208, status := 2 })),
    leads (.retZ 0) (core (fun h => { h with epc := 0x208, status := 2 })) (fun t => (getH t 0).pc == 0x208 && (getH t 0).status == 3)] = true := by decide +kernel
/-- R319, R320: TRAP 5. -/
theorem witness_TrapInstruction : yes [issuesB (.trap 0 5) (trapping id), (getH (trapping id) 0).status.getLsbD 0, (getH (trapping id) 0).trapvec != 0, !(getH (trapping id) 0).halted,
    issuesB (.trap 0 5) (elem id), leads (.trap 0 5) (trapping id) (fun t => yes [(getH t 0).pc == 1024, (getH t 0).epc == 516, (getH t 0).status == 2,
      (getH t 0).cause == 0x20010005])] = true := by decide +kernel
theorem witness_BrkInstruction : yes [issuesB (.brk 0 5) (trapping id), issuesB (.brk 0 5) (elem id), leads (.brk 0 5) (trapping id) (fun t => yes [(getH t 0).pc == 1024,
    (getH t 0).epc == 516, (getR t 0).stopReq == [(4, 5, 256, 0, 0)]])] = true := by decide +kernel
theorem witness_FetchFaults : yes [staticFault true 0x00BC0000 == some (0x10, 0x2F), leads (.undefinedWord 0x00BC0000) (trapping id) (fun t => yes [(getH t 0).epc == 512, (getH t 0).tval == 0x00BC0000,
    Bits.nat (getH t 0).cause 23 16 == 0x10]), leads .fetchFault (trapping id) (fun t => Bits.nat (getH t 0).cause 23 16 == 0x18 && (getH t 0).tval == 512)] = true := by decide +kernel
/-- A trap delivered for a memory fault, and a timer interrupt enabled and pending. -/
def due : State := trapping (fun h => { h with delivered := [⟨2, 1, 0x49, 3, 9⟩] })
def timed : State := core (fun h => { h with status := 0x221, trapvec := 1024, running := true, pc := 512 })
theorem witness_AsyncEntry : yes [firstDelivered (getH due 0) (getH due 0).delivered == some ⟨2, 1, 0x49, 3, 9⟩, firstDelivered (getH timed 0) (getH timed 0).delivered == none,
    dueInterrupt (getH timed 0) == some 4, leads (.trapEntry 0) due (fun t => (getH t 0).pc == 1024 && (getH t 0).cause == 0x20490003 && (getH t 0).epc == 512),
    leads (.trapEntry 0) timed (fun t => (getH t 0).pc == 1024 && (getH t 0).cause == 0x80040000)] = true := by decide +kernel
/-- R321: SYSC 0, 1, 2, 3 and 4. -/
theorem witness_ServiceResults : yes [issuesB (.syscEcho 0 8) (withS [5]), issuesB (.syscUnassigned 0 8 4) (withS [5]), issuesB (.syscQdepth 0 8) (withS [5]), issuesB (.syscSediment 0 8) (withS [5]),
    issuesB (.syscSnap 0 8) (inGraph [5] id), (launchOf (inGraph [5] id) 0).isSome, issuesB (.syscSnap 0 8) (withS [5]), (launchOf (withS [5]) 0).isNone,
    res (.syscUnassigned 0 8 4) (withS [5]) 0 (fun t => getS (here t).regs 0) == 0xFFFFFFFFFFFFFFFF, res (.syscSnap 0 8) (inGraph [5] id) 0 (fun t => getS (here t).regs 0) == 1,
    res (.syscSediment 0 8) (withS [5]) 0 (fun t => (t.sediment.getLastD 0).extractLsb' 24 8) == 0x8C] = true := by decide +kernel
/-- Two cores of a launch: region 0 with logical id 0, region 8 with 1. -/
def pair (f : Helm → Helm) : State :=
  { State.reset with regions := [(0, { reg (fun h => { h with node := { h.node with regs := setV (sregs [0, 1]) 0 (vec [11]) }, running := true }) with launch := some 0 }),
                                 (8, { reg (fun h => f { h with lid := 1, running := true }) with launch := some 0, sect := 1 })],
                     launches := [(0, { job with place := [0, 8] })], agent := .helm 0 }
theorem witness_MessageResults : yes [msgTarget (pair id) 0 1 |>.isOk, issuesB (.sendm 0 0 9) (pair id), issuesB (.sendm 0 0 9) (pair (fun h => { h with halted := true })),
    issuesB (.sendm 0 0 9) (pair (fun h => { h with recv := List.replicate 64 0 })), issuesB (.sendmt 0 8 0 9) (pair id),
    issuesB (.recvm 0 0) (core (fun h => { h with recv := [5] })),
    leads (.sendm 0 0 9) (pair id) (fun t => match (getH t 8).recv with | [m] => m.get 0 == 11 && m.get 15 == 0 | _ => false),
    leads (.sendmt 0 8 0 9) (pair (fun h => { h with recv := List.replicate 64 0 })) (fun t => getS (here t).regs 0 == 1),
    leads (.sendmt 0 8 0 9) (pair (fun h => { h with halted := true })) (fun t => getS (here t).regs 0 == 2),
    leads (.recvm 0 0) (core (fun h => { h with recv := [5] })) (fun t => getV (here t).regs 0 == 5 && (getH t 0).recv.isEmpty)] = true := by decide +kernel
theorem witness_CsrReads : yes ([0, 1, 2, 3, 4, 5, 6, 8, 9, 12, 13, 0x10, 0x17, 0x20, 0x21, 0x22, 0x25, 0x28, 0x2B, 0x2C].map (fun x => issuesB (.csrr 0 8 (BitVec.ofNat 13 x)) (withS []))
    ++ [res (.csrr 0 8 9) (withS []) 0 (fun t => getS (here t).regs 0) == 0x01000000, res (.csrr 0 8 0) (core (fun h => { h with status := 3, recv := [1, 2] })) 0 (fun t => getS (here t).regs 0) == 0x20103,
      res (.csrr 0 8 2) (core (fun h => { h with epc := 0x208 })) 0 (fun t => getS (here t).regs 0) == 0x208]) = true := by decide +kernel
/-- R326, R327: hs.status with every bit written, IPTIM cleared by a 1; hs.trapvec at its limits. -/
theorem witness_CsrWrites : yes ([0, 1, 2, 3, 4, 5, 6, 7, 8, 10, 11, 12, 13, 0x10, 0x17, 0x2C].map (fun x => issuesB (.csrw 0 8 (BitVec.ofNat 13 x)) (withS [])) ++
    [issuesB (.csrw 0 8 4) (withS [512]), issuesB (.csrw 0 8 4) (withS [508]), issuesB (.csrw 0 8 0x21) (withS [2 ^ 32 * 9]), issuesB (.csrw 0 8 0x21) (withS [2 ^ 32 * 25]),
     leads (.csrw 0 8 0) (core (fun h => { h with status := 0x200, node := { h.node with regs := sregs [2 ^ 64 - 1] } })) (fun t => (getH t 0).status == 0x73),
     leads (.csrw 0 8 4) (withS [512]) (fun t => (getH t 0).trapvec == 512),
     leads (.csrw 0 8 4) (trapping (fun h => { h with node := { h.node with regs := sregs [508] } })) (fun t => (getH t 0).cause == 0x20270004 && (getH t 0).tval == 508)]) = true := by decide +kernel
theorem witness_HeadwaterWrites : yes [matrixDrained Region.reset, (0x1 : W64) &&& mxReserved 0 == 0, graphOf (inGraph [] id) 0 == [0],
    leads (.obsctlStopWrite 0 true) (inGraph [] id) (fun t => (getR t 0).obsctl == 2), leads (.obsctlPrecWrite 0 true) (inGraph [] id) (fun t => (getR t 0).obsctl == 4 && (getR t 0).clock == 0),
    leads (.obsctlSperWrite 0 10) (inGraph [] id) (fun t => (getR t 0).obsctl == 10 * 2 ^ 32), leads (.obsctlSperWrite 0 25) (inGraph [] id) (fun t => (getR t 0).obsctl == 0),
    leads (.obsbkWrite 0 3 0xFFFF) (inGraph [] id) (fun t => vGet 0 (getR t 0).obsbk 3 == 0xF000), leads (.stillWrite 0 5) (inGraph [] id) (fun t => (getH t 0).stillLimit == 5),
    leads (.mxregWrite 0 0 1) (inGraph [] id) (fun t => vGet 0 (getR t 0).mx 0 == 1), leads (.registerWrite 0 3 9) (inGraph [] id) (fun t => (getH t 0).tval == 9),
    leads (.bgateWrite 0 5) (inGraph [] id) (fun t => (getR t 0).bgate == 5), leads (.bgateWrite 0 (2 ^ 48)) (inGraph [] id) (fun t => (getR t 0).bgate == 0)] = true := by decide +kernel
/-- R334 to R338. -/
theorem witness_SystemResults : yes ([Instr.perfrd 0 8 0, .timerRead 0 8, .migr 0 8, .idrdPartCode 0 8, .idrdPhysicalPosition 0 8, .idrdLogicalId 0 8, .idrdPartition 0 8, .idrdSpareMap 0 8,
    .idrdStepping 0 8, .idrdSerialLow 0 8, .idrdSerialHigh 0 8, .timerArm 0 8, .timerDisarm 0 28, .trace 0 8 5].map (fun i => issuesB i (withS [7])) ++
    [issuesB (.migr 0 8) (core (fun h => { h with migPosted := true })), res (.idrdPartCode 0 8) (withS []) 0 (fun t => getS (here t).regs 0) == 0x7140,
     leads (.timerArm 0 8) (withS [7]) (fun t => (getH t 0).timer == 7 && (getH t 0).armed), leads (.timerRead 0 8) (core (fun h => { h with timer := 6, armed := true })) (fun t => getS (here t).regs 0 == 6),
     leads (.timerDisarm 0 8) (core (fun h => { h with timer := 6, armed := true, status := 0x200 })) (fun t => !(getH t 0).armed && (getH t 0).status == 0),
     leads (.trace 0 8 5) (withS [7]) (fun t => (getR t 0).ringNext == 1)]) = true := by decide +kernel
/-- A core with an address and a selector, and a context of class SEED with W at 4 and a RELOAD head. -/
def mover : State := inGraph [64, 0] (fun h => { h with node := { h.node with regs := { h.node.regs with p := 9 } } })
def seeded : State := elem (fun n => onCh 0 (tok 1 7 0 0 3 0 [1, 0]) { n with regs := { sregs [64] with p := 9 }, classes := [(0, ⟨3, 2, 0, 4, 0⟩)] })
theorem witness_ContextMoves : yes [issuesB (.ctxrs 0 8 9) mover, issuesB (.ctxsv 0 8 9) mover, ctxCheck 64 0 == none, !ctxBusy (getN mover 0 0 0),
    (bufReadTest mover 0 1 (numbered 64 640)).isNone, (wakeHold mover 0 ((List.range 10).map (fun j => (1, 64 + 64 * j)))).isNone, issuesB (.chkp 0 28) seeded,
    issuesB (.chkp 0 28) (elem id), (classEnt (here (elem id)) 0).cls != 3, (classEnt (here seeded) 0).w % 2 == 0, chkCtx (here seeded) 28 == 0,
    (List.range 10).all (fun k => (bankTest seeded 0 1 (640 + 64 * k)).isNone), issuesB (.chkl 0 16) seeded, checkpointAt [] 0 0 == some 0,
    (bufReadTest seeded 0 1 (numbered 0 640)).isNone,
    leads (.chkp 0 28) seeded (fun t => memRead (getBuf (getR t 0) 1).mem (640 + 576) == 9 && memNat (getBuf (getR t 0) 1).mem (640 + 584) 8 == 4),
    leads (.chkl 0 16) seeded (fun t => (here t).regs.p == 0 && (classEnt (here t) 0).w == 0),
    leads (.ctxsv 0 8 9) mover (fun t => (getH t 0).pc == 516)] = true := by decide +kernel
theorem witness_ContextMoves_memory : seeded.memOk ∧ ∀ k < 10, quiet seeded 1 0 (640 + 64 * k) 64 :=
  ⟨memOk_of _ (by decide +kernel), fun _ _ => quiet_of _ rfl _ _ _ _⟩

/-! ## Memory -/

/-- A helm core with scalars and vectors, and its buffer A. -/
def withW (l : List Nat) (m : Mem) (full : List Nat) : State :=
  { State.reset with regions := [(0, { Region.reset with helm := { Helm.reset with node := { Node.reset with regs := setV (setV (sregs l) 0 (vec [0x11223344, 5])) 1 (vec [0, 4, 4]) } },
                                                         bufs := vSet Region.reset.bufs 1 { mem := m, full := full, poison := [] } })] }
/-- Word 64 of A holds 7 and is full; word 68 holds 8. -/
def wbuf : State := withW [64, 0, 0xABCD] [(64, 7), (68, 8)] [64, 68]

theorem witness_BufferLoads : yes [issuesB (.ldb 0 10 8 28 2) wbuf, addrOf (here wbuf) 8 28 0 |>.isOk, (myArm wbuf (wordOf (.ldb 0 10 8 28 3))).isNone, !outFull wbuf,
    (bufCheck 1 64 8).isNone, (bufCheck 1 0xFFFF8 8).isNone, (bufCheck 1 0x100000 8).isSome, (bufCheck 1 65 4).isSome,
    (bufReadTest wbuf 0 1 (numbered 64 8)).isNone, (numbered 64 8).all (fun w => bfull wbuf 0 1 w.2), issuesB (.ldb 0 10 9 28 3) wbuf,
    (numbered 0 8).any (fun w => !bfull wbuf 0 1 w.2), placeFree wbuf 1 0 0, issuesB (.ldbg 0 2 8 1 2) wbuf,
    (firstFault ((laneAddrs (here wbuf) 64 1).map (fun w => bufCheck 1 w.2 4))).isNone, (bufReadTest wbuf 0 1 (laneAddrs (here wbuf) 64 1)).isNone] = true := by decide +kernel
theorem test_loads : leads (.ldb 0 10 8 28 2) wbuf (fun t => getS (here t).regs 2 == 0x800000007 && (getH t 0).pc == 516) = true ∧
    leads (.ldbg 0 2 8 1 2) wbuf (fun t => (getV (here t).regs 2).get 0 == 7 && (getV (here t).regs 2).get 1 == 8 && (getV (here t).regs 2).get 3 == 7) = true ∧
    leads (.ldb 0 10 9 28 3) wbuf (fun t => t.arms.length == 1 && (getH t 0).outstanding.length == 1 && (getH t 0).pc == 516 && getS (here t).regs 2 == 0xABCD) = true ∧
    leads (.ldb 0 10 8 28 2) (trapping (fun h => { h with node := { h.node with regs := sregs [65] } })) (fun t => (getH t 0).cause == 0x201B0003 && (getH t 0).tval == 65) = true := by
  decide +kernel

/-- The same in an element, whose context holds the address. -/
def elemW : State := elem (fun n => { n with regs := sregs [64, 0, 0xABCD] })
theorem witness_BufferStores : yes [issuesB (.stb 0 10 8 28 2) wbuf, memOkB wbuf, (bankTest wbuf 0 1 64).isNone, (journalLine (getR wbuf 0) 1 1).isSome, issuesB (.stb 0 0 9 28 3) wbuf,
    issuesB (.stb 0 10 8 28 3) { wbuf with regions := [(0, { getR wbuf 0 with elems := [(0, { Elem.reset with ctxs := [(0, here wbuf)] })] })], agent := .elem 0 0 0 0 },
    ((wordsOf 64 8).find? (bfull wbuf 0 1)).isSome, issuesB (.stbs 0 0 8 1 2) wbuf, (List.range 16).all (fun k => (bufCheck 1 (64 + (k % 2) * 4) 4).isNone && (bankTest wbuf 0 1 (64 + (k % 2) * 4)).isNone),
    (dataBytes (here wbuf) 10).length == 8, (dataBytes (here wbuf) 0).length == 64] = true ∧ wbuf.memOk ∧ quiet wbuf 1 0 64 8 :=
  ⟨by decide +kernel, memOk_of _ (by decide +kernel), quiet_of _ rfl _ _ _ _⟩
theorem test_stores : leads (.stb 0 10 9 28 2) wbuf (fun t => yes [memRead (getBuf (getR t 0) 1).mem 0 == 0xCD, memRead (getBuf (getR t 0) 1).mem 1 == 0xAB, memRead (getBuf (getR t 0) 1).mem 64 == 7,
      bfull t 0 1 0, bfull t 0 1 4, !bfull t 0 1 8, (getH t 0).pc == 516]) = true ∧
    leads (.stbs 0 0 9 1 2) wbuf (fun t => memNat (getBuf (getR t 0) 1).mem 0 4 == 0 && memNat (getBuf (getR t 0) 1).mem 4 4 == 0 && bfull t 0 1 4) = true := by decide +kernel

/-- A walk that maps the first 1 GB at 0 for partition 1, FE where asked (R125). -/
def table (fe : Bool) : Mem := [(0x1000, 1), (0x1001, 0x20), (0x2000, 1), (0x2001, 0x30), (0x3000, if fe then 0xCF else 0xC7), (0x3005, 1)]
/-- A graph of partition 1 with that table, memory and scalars. -/
def paged (fe : Bool) (m : Mem) (l : List Nat) (f : Helm → Helm) : State :=
  let s := inGraph l f
  { s with hbm := table fe ++ m, parts := [(1, { Partition.reset with present := true, roots := [0x1000] })] }
theorem witness_GlobalAccesses : yes [memWf (paged false [(0x10000, 7)] [0x10000] id).hbm, addrOf (here (paged false [(0x10000, 7)] [0x10000] id)) 8 28 3 |>.isOk,
    xlate (paged false [(0x10000, 7)] [0x10000] id) 1 0x10000 0 |>.isOk, xlate (paged false [(0x10000, 7)] [0x10000] id) 1 0x10000 1 |>.isOk, populated 0x10000,
    !readPoison (paged false [] [0x10000] id) (some 0) 0x10000, issuesB (.ldg 0 9 8 28) (paged false [(0x10000, 7)] [0x10000] id), issuesB (.stg 0 8 8 28) (paged true [] [0x10000] id),
    issuesB (.pref 0 8 28) (paged false [] [0x10000] id), issuesB (.fence 0 0) (paged false [] [0x10000] id), (alignCheck 0x10000 8).isNone, (alignCheck 0x10001 8).isSome,
    viewFull (paged true [] [0x10000] id) (some 0) 0x10000 == false, shareTest (paged true [] [0x10000] id) job 0x10000 8 == 0] = true := by decide +kernel
theorem test_global : leads (.ldg 0 9 8 28) (paged false [(0x10000, 7)] [0x10000] id) (fun t => getS (here t).regs 1 == 7) = true ∧
    leads (.stg 0 8 8 28) (paged false [] [0x10000] id) (fun t => viewByte t (some 0) 0x10002 == 1 && memRead t.hbm 0x10002 == 0) = true := by decide +kernel
theorem witness_EmptyResults : yes [issuesB (.empty 0 9 8 28 1) (withW [64, 8] [(64, 7)] [64, 68, 72]), (emptyCheck 1 64 8 65536).isNone, (emptyCheck 1 66 8 65536).isSome, (emptyCheck 1 64 3 65536).isSome,
    (bufEmpty (getR wbuf 0) 1 64 8).isSome, issuesB (.empty 0 9 8 28 3) (paged true [] [0x10000, 8] id), xlate (paged true [] [0x10000, 8] id) 1 0x10000 1 |>.isOk, (emptyCheck 3 0x10000 8 (pageLeft (paged true [] [0x10000, 8] id) 1 0x10000)).isNone,
    leads (.empty 0 9 8 28 1) (withW [64, 8] [(64, 7)] [64, 68, 72]) (fun t => !bfull t 0 1 64 && !bfull t 0 1 68 && bfull t 0 1 72 && memRead (getBuf (getR t 0) 1).mem 64 == 7)] = true := by decide +kernel

/-- s2 and the word at 64 after an atomic on A with B in s1. -/
def atom (i : Instr) (b d : Nat) : List Nat :=
  res i (withW [64, b, d] [(64, 7)] []) [] (fun t => [(getS (here t).regs 2).toNat, memNat (getBuf (getR t 0) 1).mem 64 8])
/-- R174, R280: the old value in D, the new one in the word. -/
theorem test_atomics : [atom (.atomAdd 0 10 8 2) 0 0xFFFFFFFF, atom (.atomMin 0 10 8 2) 0 0xFFFFFFFF, atom (.atomMax 0 10 8 2) 0 0xFFFFFFFF, atom (.atomXchg 0 10 8 2) 0 5, atom (.atomAnd 0 10 8 2) 0 5,
    atom (.atomOr 0 10 8 2) 0 8, atom (.atomrAdd 0 10 8 2) 0 (2 ^ 64 - 1), atom (.atomrMin 0 10 8 2) 0 (2 ^ 64 - 1), atom (.atomrMax 0 10 8 2) 0 9, atom (.atomrXchg 0 10 8 2) 0 (2 ^ 40),
    atom (.atomrAnd 0 10 8 2) 0 3, atom (.atomrOr 0 10 8 2) 0 8, atom (.cas 0 10 8 9 2) 9 7, atom (.cas 0 10 8 9 2) 9 6] =
   [[7, 6], [7, 0xFFFFFFFF], [7, 7], [7, 5], [7, 5], [7, 15], [7, 6], [7, 2 ^ 64 - 1], [7, 9], [7, 2 ^ 40], [7, 3], [7, 15], [7, 9], [7, 7]] := by decide +kernel
theorem witness_AtomicResults : yes ((List.range 14).flatMap (fun k => match atomRows[k]? with
    | some row => [issuesB (row.term 0 10 8 9 2) (withW [64, 1, 1] [(64, 7)] []), issuesB (row.term 0 10 8 9 6) (paged false [(0x10000, 7)] [0x10000, 1] id), (bufCheck 1 64 row.bytes).isNone,
        (bufCheck 1 0x100000 row.bytes).isSome]
    | none => [false]) ++ [memOkB (paged false [(0x10000, 7)] [0x10000, 1] id), xlate (paged false [(0x10000, 7)] [0x10000, 1] id) 1 0x10000 2 |>.isOk, classOf 10 == 2,
      shareTest (paged false [(0x10000, 7)] [0x10000, 1] id) job 0x10000 4 == 0,
      leads (.atomFadd 0 10 8 6) (paged false [(0x10002, 0x80), (0x10003, 0x3F)] [0x10000, 0, 0x3F800000] id) (fun t => viewNat t (some 0) 0x10000 4 == 0x40000000)]) = true := by decide +kernel

/-- An element context that owns words 0 to 15 of C, with pairs (0, 5) and (1, 6) on i0. -/
def owner (idx : Nat) : State :=
  elem (fun n => onCh 0 (tok 0 6 0 0 3 0 [0, idx, 0, 0, 0, 0, 0, 0, 5, 6]) { n with ranges := [⟨0, 64, 2, 3, true, false, 0⟩] })
theorem witness_PairAtomics : yes [issuesB (.atomPair 0 28 0 0 2) (owner 1), issuesB (.atomPair 0 24 0 5 2) (owner 1), !isHelm (owner 1), (pairCheck 2 0 64 [(0, 0, 5), (1, 1, 6)]).isNone,
    ownerRange (here (owner 1)) 2 == (0, 64), memOkB (owner 1), (pairCheck 2 0 64 [(0, 16, 5)]).isNone,
    leads (.atomPair 0 28 0 0 2) (owner 1) (fun t => (here t).flight.isSome && memNat (getBuf (getR t 0) 2).mem 0 4 == 0),
    leads (.operationComplete 0 0 0) (let s := owner 1; setHere s { here s with slots := [(0, wordOf (.atomPair 0 28 0 0 2))], flight := some ⟨0, fireRegs (here s).regs, none⟩ })
      (fun t => memNat (getBuf (getR t 0) 2).mem 0 4 == 5 && memNat (getBuf (getR t 0) 2).mem 4 4 == 6)] = true := by decide +kernel
/-- A wait that the core has armed and that has been released with 9, and one that has not. -/
def waiting (v : Option W64) : State :=
  let s := withW [64, 7] [(64, 7)] []
  { s with arms := [⟨.helm 0, .waitNe, 1, false, 64, 7, wordOf (.waitne 0 10 8 9 2), 0, 0, [], [], [], v⟩] }
theorem witness_WaitNotEqual : yes [issuesB (.waitne 0 10 8 9 2) (waiting (some 9)), (myArm (waiting (some 9)) (wordOf (.waitne 0 10 8 9 2))).isSome, issuesB (.waitne 0 10 8 9 2) (waiting none),
    issuesB (.waitne 0 10 8 9 2) wbuf, (bufReadTest wbuf 0 1 [(0, 64)]).isNone, placeFree wbuf 1 0 64, issuesB (.waitne 0 10 8 9 6) (paged false [(0x10000, 7)] [0x10000, 7] id),
    issuesB (.waitne 0 10 8 9 6) (paged true [(0x10000, 7)] [0x10000, 6] id), placeFree (paged true [] [] id) 3 0 0x10000,
    leads (.waitne 0 10 8 9 2) (waiting (some 9)) (fun t => getS (here t).regs 2 == 9 && t.arms.isEmpty), leads (.waitne 0 10 8 9 2) wbuf (fun t => getS (here t).regs 2 == 7),
    leads (.waitne 0 10 8 9 2) (withW [64, 7] [(64, 7)] []) (fun t => t.arms.length == 1 && (getH t 0).pc == 512)] = true := by decide +kernel
/-- A graph with a fence at 0x10000 that holds 3, and a fence log. -/
def fenced (x : Nat) : State :=
  let s := paged false [(0x10000, 3)] [0x10000, x] id
  { s with parts := [(1, { Partition.reset with present := true, roots := [0x1000], areas := [(0x20000, 0x20000, 4)] })] }
theorem witness_FenceInstructions : yes [(alignCheck 0x10000 8).isNone, populated 0x10000, !poisoned (fenced 5) (0x10000 / 64), issuesB (.fsig 0 8 9) (fenced 5), xlate (fenced 5) 1 0x10000 2 |>.isOk,
    memWf (fenced 5).hbm, (fenced 5).hostWaits.isEmpty, issuesB (.fwait 0 10 8 9) (fenced 3), isHelm (fenced 3), xlate (fenced 3) 1 0x10000 0 |>.isOk, issuesB (.fwait 0 10 8 9) (fenced 4),
    placeFree (fenced 4) 3 0 0x10000, leads (.fsig 0 8 9) (fenced 5) (fun t => memNat t.hbm 0x10000 8 == 5 && memNat t.hbm 0x20010 8 == 0x10000 && memNat t.hbm 0x20018 8 == 5 && memNat t.hbm 0x20008 8 == 7),
    leads (.fsig 0 8 9) (fenced 2) (fun t => memNat t.hbm 0x10000 8 == 3), leads (.fwait 0 10 8 9) (fenced 3) (fun t => getS (here t).regs 2 == 3), leads (.fwait 0 10 8 9) (fenced 4) (fun t => t.arms.length == 1)] = true := by
  decide +kernel
theorem witness_FenceReleased : yes [issuesB (.fwait 0 10 8 9) { fenced 4 with arms := [⟨.helm 0, .fence, 3, false, 0x10000, 4, wordOf (.fwait 0 10 8 9), 0, 0, [], [], [], some 4⟩] },
    leads (.fwait 0 10 8 9) { fenced 4 with arms := [⟨.helm 0, .fence, 3, false, 0x10000, 4, wordOf (.fwait 0 10 8 9), 0, 0, [], [], [], some 4⟩] } (fun t => getS (here t).regs 2 == 4)] = true := by decide +kernel

/-- A with a barrier at 64: PEND, PHASE, EXPECT, ARRIVE; s0 its address. -/
def barred (l : List Nat) (pend expect arrive : Nat) : State :=
  withW l ((memWriteN [] 64 (Bits.bytesOf 16 (pend * 2 ^ 72 + expect * 2 ^ 32 + arrive)))) []
/-- PEND, PHASE, EXPECT and ARRIVE after an instruction. -/
def barAfter (i : Instr) (s : State) : Nat × Bool × Nat × Nat :=
  res i s (9, true, 9, 9) (fun t => let o := memNat (getBuf (getR t 0) 1).mem 64 16; (o / 2 ^ 72 % 2 ^ 56, o.testBit 71, o / 2 ^ 32 % 2 ^ 32, o % 2 ^ 32))
/-- R144, R145, R285. -/
theorem test_barriers : [barAfter (.bari 0 8 9 1) (barred [64, 5] 0 0 0), barAfter (.bara 0 8 1) (barred [64] 0 3 1), barAfter (.bara 0 8 1) (barred [64] 0 2 1), barAfter (.bara 0 8 1) (barred [64] 8 2 1),
    barAfter (.barx 0 8 9 1) (barred [64, 2] 0 3 2)] = [(0, false, 5, 0), (0, false, 3, 2), (0, true, 2, 0), (8, false, 2, 2), (0, true, 2, 0)] := by decide +kernel
theorem witness_BarrierResults : yes [issuesB (.bari 0 8 9 1) (barred [64, 5] 0 0 0), issuesB (.bari 0 8 9 1) (barred [64, 0] 0 0 0), issuesB (.bari 0 8 9 1) (barred [64, 2 ^ 32] 0 0 0), issuesB (.bari 0 8 9 1) (barred [64, 5] 8 2 0),
    issuesB (.bara 0 8 1) (barred [64] 0 3 1), issuesB (.barx 0 8 9 1) (barred [64, 2] 0 3 2), issuesB (.bart 0 10 8 9 1) (barred [64, 1] 0 3 2), issuesB (.barw 0 8 9 1) (barred [64, 1] 0 3 2), issuesB (.barw 0 8 9 1) (barred [64, 0] 0 3 2),
    (bufCheck 1 64 16).isNone, (bufReadTest (barred [64] 0 3 1) 0 1 [(0, 64)]).isNone, (journalLine (getR (barred [64] 0 3 1) 0) 1 1).isSome, placeFree (barred [64] 0 3 1) 1 0 64, memOkB (barred [64] 0 3 1),
    res (.bart 0 10 8 9 1) (barred [64, 1] 0 3 2) 9 (fun t => getS (here t).regs 2) == 1, leads (.barw 0 8 9 1) (barred [64, 1] 0 3 2) (fun t => (getH t 0).pc == 516),
    leads (.barw 0 8 9 1) (barred [64, 0] 0 3 2) (fun t => (getH t 0).pc == 512 && t.arms.length == 1)] = true ∧ barIs (barred [64] 8 3 1) 0 1 64 (8, false, 3, 1) ∧
    (barred [64] 8 3 1).memOk := ⟨by decide +kernel, by unfold barIs; decide +kernel, memOk_of _ (by decide +kernel)⟩

/-! ## Copies, streams and demand -/

/-- A stream parameter block of 4-byte elements: BASE, COUNT0, WR, DMODE with DMUL and DDIV 1, TSTEP 1 (R129). -/
def spb (base count : Nat) (wr dm : Bool) : Lanes :=
  BitVec.ofNat 512 (base + 4 * 2 ^ 128 + count * 2 ^ 160 + 2 ^ 192 + 2 * 2 ^ 248 + (if wr then 2 ^ 254 else 0) +
    (if dm then 2 ^ 240 + 2 ^ 255 + 2 ^ 336 + 2 ^ 352 else 0))
/-- The memory that streams read: words 7 and 8 at 0x10000. -/
def words : Mem := [(0x10000, 7), (0x10004, 8)]
/-- A graph's helm core with vectors v0 and v1 as well. -/
def paged' (l : List Nat) (x y : Lanes) (f : Helm → Helm) : State :=
  paged false words l (fun h => f { h with node := { h.node with regs := setV (setV h.node.regs 0 x) 1 y } })
/-- CPY, CPYS, CPYQ: destination 64 in A, barrier at 0x100 in C, CPYQ's source 64 bytes of A at 128. -/
def copier : State := paged' [64, 0x80000100, 64 * 2 ^ 32 + 0x100000 + 128] (spb 0x10000 2 false false) (spb 0x40 2 true false) id
/-- A copy in flight, of 8 bytes, whose barrier counts them. -/
def flown (sz : Nat) : State :=
  let s := paged' [] 0 0 (fun h => { h with copies := [⟨spb 0x10000 2 false false, 0, 0x20000, 0x100, 0xAF, BitVec.ofNat 3 sz, 8, [], false⟩] })
  { s with regions := [(0, { getR s 0 with bufs := vSet Region.reset.bufs 1 { mem := memWriteN [] 0x100 (Bits.bytesOf 16 (8 * 2 ^ 72 + 2 ^ 32)), full := [], poison := [] } })] }
theorem witness_CopyResults : yes [issuesB (.cpy 0 8 0 9 1) copier, issuesB (.cpys 0 1 0 9 1) copier, issuesB (.cpyq 0 8 10 9 1) copier, (bufCheck 2 0x100 16).isNone, (bufCheck 2 (0x70000 - 16) 16).isNone, (bufCheck 2 (0x70000 - 15) 16).isSome,
    (bufReadTest copier 0 2 [(0, 0x100)]).isNone, (journalLine (getR copier 0) 2 4).isSome, (spbBad (spb 0x10000 2 false false) false false false 0).isNone, (blockRange (spb 0x10000 2 false false) 3).isNone,
    (rangeCheck 1 64 8 4).isNone, (spbBad (spb 0x40 2 true false) false true false 0).isNone, (blockRange (spb 0x40 2 true false) 1).isNone, (cpyqBad (BitVec.ofNat 64 (64 * 2 ^ 32 + 0x100000 + 128)) 1 64).isNone,
    (rangeCheck 1 128 64 1).isNone, memOkB copier,
    leads (.cpy 0 8 0 9 1) copier (fun t => (getH t 0).copies.length == 1 && memNat (getBuf (getR t 0) 2).mem 0x100 16 == 8 * 2 ^ 72 && (getH t 0).pc == (getH copier 0).pc + 4),
    leads (.cpys 0 1 0 9 1) copier (fun t => memNat (getBuf (getR t 0) 2).mem 0x100 16 == 8 * 2 ^ 72), leads (.cpyq 0 8 10 9 1) copier (fun t => memNat (getBuf (getR t 0) 2).mem 0x100 16 == 64 * 2 ^ 72),
    (getH (flown 6) 0).copies.length == 1, graphRuns (flown 6) 0, !ebbSaved (flown 6) 0 (getH (flown 6) 0).saved,
    leads (.copyComplete 0 0) (flown 2) (fun t => memNat (getBuf (getR t 0) 1).mem 0x20000 4 == 7 && memNat (getBuf (getR t 0) 1).mem 0x20004 4 == 8 && memNat (getBuf (getR t 0) 1).mem 0x100 16 == 2 ^ 32 && (getH t 0).copies.isEmpty),
    leads (.copyComplete 0 0) (flown 6) (fun t => viewNat t (some 0) 0x20000 4 == 7 && viewNat t (some 0) 0x20004 4 == 8 && (getH t 0).copies.isEmpty)] = true ∧ copier.memOk ∧ quiet copier 2 0 0x100 16 :=
  ⟨by decide +kernel, memOk_of _ (by decide +kernel), quiet_of _ rfl _ _ _ _⟩

/-- A helm core with a demand block in v0 and a data head on i0. -/
def streamer (x : Lanes) (t : Nat) : State :=
  paged' [] x (spb 0x10000 2 true false) (fun h => { h with node := onCh 0 (tok 0 7 0 0 3 t [1, 0]) { h.node with pairs := h.node.pairs.map (fun p => { p with tstep := 1 }), ports := h.node.ports.map (fun p => { p with tstep := 1, dests := [2 ^ 44], dset := [[⟨0, 16, 1, 0⟩]] }) } })
theorem witness_StreamResults : yes [issuesB (.srd 0 24 0) (streamer (spb 0x10000 2 false true) 0), (spbBad (spb 0x10000 2 false true) true false true 1).isNone, (spbBad (spb 0x10000 0 false true) true false true 1).isSome,
    (nodePort (here (streamer (spb 0x10000 2 false true) 0)) 0).spb.isNone, issuesB (.swr 0 16 0) (streamer (spb 0x10000 2 true true) 0), (spbBad (spb 0x10000 2 true true) true true true 1).isNone,
    srcStep (here (streamer 0 0)) 16 == 1, (headOf (here (streamer 0 0)) 16).isSome, issuesB (.sscat 0 16 1) (streamer 0 0), (spbBad (spb 0x10000 2 true false) false true true 0).isNone,
    issuesB (.sgath 0 2 16 1) (streamer 0 0), (myArm (streamer 0 0) (wordOf (.sgath 0 2 16 1))).isNone, !outFull (streamer 0 0), issuesB (.scls 0 24) (streamer 0 0),
    xlate (streamer 0 0) 1 0x10000 0 |>.isOk, xlate (streamer 0 0) 1 0x10004 1 |>.isOk, !readPoison (streamer 0 0) (some 0) 0x10004,
    leads (.srd 0 24 0) (streamer (spb 0x10000 2 false true) 0) (fun t => (nodePort (here t) 0).spb == some (spb 0x10000 2 false true)),
    leads (.swr 0 16 0) (streamer (spb 0x10000 2 true true) 0) (fun t => viewNat t (some 0) 0x10000 4 == 1 && viewNat t (some 0) 0x10004 4 == 0),
    leads (.sgath 0 2 16 1) (streamer 0 0) (fun t => (getV (here t).regs 2).get 0 == 8 && (getV (here t).regs 2).get 1 == 7),
    leads (.sgath 0 25 16 1) (streamer 0 0) (fun t => (nodePort (here t) 1).queue.map (fun o => [(o.tok.pay.get 0).toNat, (o.tok.pay.get 1).toNat, (hMask o.tok.hdr).toNat, hT o.tok.hdr]) == [[8, 7, 3, 0]])] = true := by decide +kernel
/-- SSCAT writes each value of a pair to the element that the pair's index names: element 1 takes 9, element 0 takes 6. -/
theorem test_scatter : leads (.sscat 0 0 1) (paged' [] (vec [1, 0, 0, 0, 0, 0, 0, 0, 9, 6]) (spb 0x10000 2 true false) (fun h => { h with node := { h.node with regs := setV h.node.regs 0 (vec [1, 0, 1, 1, 1, 1, 1, 1, 9, 6, 9, 9, 9, 9, 9, 9]) } }))
    (fun t => viewNat t (some 0) 0x10000 4 == 6 && viewNat t (some 0) 0x10004 4 == 9) = true := by decide +kernel
/-- A bound port of a helm core, whose next demand is for times 0 to 2. -/
def source (v : List Ival) : State :=
  paged' [] 0 0 (fun h => { h with node := setPort h.node 0 { nodePort h.node 0 with spb := some (spb 0x10000 2 false true), tstep := 1, pending := v, dests := [2 ^ 44], dset := [[⟨0, 16, 1, 0⟩]] } })
theorem witness_StreamReads : yes [(nodePort (here (source [⟨0, 1, 1, 0⟩])) 0).pending == [⟨0, 1, 1, 0⟩], portFree (nodePort (here (source [⟨0, 2, 1, 0⟩])) 0), graphRuns (source []) 0, !ebbSaved (source []) 0 (savedAt (source []) 0 256),
    sourceLanes (spb 0x10000 2 false true) ⟨0, 1, 1, 0⟩ == ([(0, 0, 0)], 0, 15), sourceLanes (spb 0x10000 2 false true) ⟨0, 16, 1, 0⟩ == ([(0, 0, 0), (1, 1, 1)], 7, streamEnd),
    sourceLanes (spb 0x10000 2 false true) ⟨5, 16, 1, 0⟩ == ([], 7, streamEnd),
    leads (.streamReadComplete ⟨0, 256, 0, 0⟩) (source [⟨0, 16, 1, 0⟩]) (fun t => (nodePort (here t) 0).queue.map (fun o => [(o.tok.pay.get 0).toNat, (o.tok.pay.get 1).toNat, hEnd o.tok.hdr, hT o.tok.hdr]) == [[7, 8, 7, 0]] &&
      (nodePort (here t) 0).pending.isEmpty && (nodePort (here t) 0).spb == some (spb 0x10000 2 false true))] = true := by decide +kernel

/-- A sink on i0 that output 1 of the same helm core feeds. -/
def sinkNode (ask held : List Demand) (n : Node) : Node :=
  let n := setPort n 1 { nodePort n 1 with dests := [BitVec.ofNat 64 (2 ^ 44 + 256 * 2 ^ 47)] }
  setPair n 0 { nodePair n 0 with ctxset := 1, sink := true, fed := true, asked := ask, held := held }
/-- A graph whose helm core has that sink, with v0 a demand word for times 3 to 9. -/
def sinker (ask held : List Demand) : State :=
  paged' [3, 9, 256] (BitVec.ofNat 512 (3 * 2 ^ 92 + 9 * 2 ^ 56 + 2 ^ 48)) 0 (fun h => { h with node := sinkNode ask held h.node })
/-- A demand on its way to output 1, and one held at the sink. -/
def asking (held : List Demand) : State := { sinker [] held with dlinks := [⟨⟨0, 256, 0, 0⟩, ⟨0, 256, 0, 1⟩, ⟨3, 9, 1, 0, 0, false⟩, 0⟩] }
def holding : State := asking [⟨3, 9, 1, 0, 0, false⟩]
theorem witness_DemandResults : yes [issuesB (.dmd 0 16 8 9) (sinker [] []), dmdLegal (sinker [] []) 256 0 0, !dmdLegal (sinker [] []) 256 0 1, !dmdLegal (sinker [] []) 257 0 0, issuesB (.dmd 0 16 9 8) (sinker [] []), issuesB (.dmdr 0 16 0 10) (sinker [] []),
    (match dmdTarget (sinker [] []) 10 with | .ok x => x == (256, 256, 0) | .error _ => false), (demandOf (srcLanes (here (sinker [] [])) 0)).1 == ⟨3, 9, 1, 0⟩, (demandOf (srcLanes (here (sinker [] [])) 1)).1.step == 0,
    issuesB (.dmdk 0 16 28 10) (sinker [] []), issuesB (.dmdk 0 16 28 10) (sinker [⟨0, 1, 1, 0, 0, false⟩] []), issuesB (.dmdk 0 16 0 10) (sinker [⟨0, 1, 1, 0, 0, false⟩] []), issuesB (.rtfw 0 16 0 10) (sinker [] []),
    rtfBad ((srcLanes (here (sinker [] [])) 0).setWidth 128) == false, rtfBad (BitVec.ofNat 128 (6 * 2 ^ 125)), ((asking []).dlinks.find? (fun x => x.dst == ⟨0, 256, 0, 1⟩)).isSome,
    !demandStalls (asking []) ⟨⟨0, 256, 0, 0⟩, ⟨0, 256, 0, 1⟩, ⟨3, 9, 1, 0, 0, false⟩, 0⟩, demandStalls holding ⟨⟨0, 256, 0, 0⟩, ⟨0, 256, 0, 1⟩, ⟨3, 9, 1, 0, 0, false⟩, 0⟩, (nodePair (here holding) 0).held.length == 1,
    leads (.dmd 0 16 8 9) (sinker [] []) (fun t => t.dlinks == [⟨⟨0, 256, 0, 0⟩, ⟨0, 256, 0, 1⟩, ⟨3, 9, 1, 0, 0, false⟩, 0⟩] && (nodePair (here t) 0).pending == [⟨3, 9, 1, 0⟩]),
    leads (.dmdr 0 16 0 10) (sinker [] []) (fun t => t.dlinks.length == 1), leads (.dmdk 0 16 28 10) (sinker [⟨0, 1, 1, 0, 0, false⟩] []) (fun t => (nodePair (here t) 0).asked.isEmpty && t.dlinks.isEmpty),
    leads (.rtfw 0 16 0 10) (sinker [] []) (fun t => (nodePair (here t) 0).rtf == BitVec.ofNat 128 (3 * 2 ^ 92 + 8 * 2 ^ 56)),
    leads (.demandArrival ⟨0, 256, 0, 1⟩) (asking []) (fun t => t.dlinks.isEmpty && (nodePort (here t) 1).dset == [[⟨3, 9, 1, 0⟩]]),
    leads (.demandHeldRelease ⟨0, 256, 0, 0⟩) holding (fun t => t.dlinks.length == 2 && (nodePair (here t) 0).held.isEmpty)] = true := by decide +kernel

/-! ## The matrix node, the cutter and the KV unit -/

/-- A matrix command: lane 0, K0 and K. -/
def mmcmdTok (l0 k0 k : Nat) : Token := tok 1 7 0 0 7 0 [l0, k0, k]
/-- A graph's region in matrix mode with commands queued; A holds 1.0 and W 2.0, both FP32; rows of C are 64 bytes apart. -/
def matrix (q : List Token) (f : Region → Region) : State :=
  graph job (f { reg (fun h => { h with running := true }) with mxmode := true, mmq := q, mx := vSet Region.reset.mx 2 (64 * 2 ^ 32), sticky := 1, mmaCount := 3, acc := [(0, 5), (8 * 256, 9)], bufs := vSet (vSet Region.reset.bufs 1 { mem := [(2, 0x80), (3, 0x3F)], full := [], poison := [] }) 0 { mem := [(3, 0x40)], full := [], poison := [] } })
/-- A helm core with a command scalar and K bounds, one port. -/
def commander : State := withNode (fun n => setPort { n with regs := setV (sregs [0x8010000, 0x300000004]) 0 (vec [16, 48]) } 0 { nodePort n 0 with dests := [2 ^ 44], dset := [[⟨0, 100, 1, 0⟩]] })
theorem witness_MatrixResults : yes [issuesB (.mmcmd 0 24 0 8) commander, issuesB (.accrd 0 24 8) commander, issuesB (.accclr 0 28 8) commander, fires (here commander) (fireTok (here commander).regs 0 (mmcmdTok 0 0 0) true),
    fires (here commander) (fireRegs (here commander).regs), issuesB (.mxmodeLeave 0) (withS []), !(getR (withS []) 0).mxmode, issuesB (.mxmodeLeave 0) (matrix [] id), (getR (matrix [] id) 0).mxmode,
    matrixDrained (getR (matrix [] id) 0), issuesB (.mxmodeEnter 0) (matrix [] id), issuesB (.mxmodeEnter 0) (withS []), regionQuiet (withS []) 0, mmActs (matrix [mmcmdTok (2 ^ 28) 0 1] id) 0,
    (mmRefused (getR (matrix [] id) 0) (mmWide (matrix [] id) 0) (mmcmdTok (2 ^ 28) 0 1)).isNone, mmOp (mmcmdTok (2 ^ 28) 0 1) == 1, (mmReadTest (matrix [] id) 0 (mmReads (getR (matrix [] id) 0) (mmcmdTok (2 ^ 28) 0 1))).isNone,
    (mmRefused (getR (matrix [] id) 0) false (mmcmdTok (2 * 2 ^ 28 + 2 ^ 27) 7 0)).isNone, (getR (matrix [] id) 0).mmDrain.isNone,
    (wakeHold (matrix [] id) 0 ((rangeLines (mmDrains (getR (matrix [] id) 0) (mmcmdTok (2 * 2 ^ 28) 7 0))).map (fun x => (2, x.2.2)))).isNone,
    (mmRefused (getR (matrix [] id) 0) false (mmcmdTok (3 * 2 ^ 28) 0 0)).isNone, mmRefused (getR (matrix [] id) 0) false (mmcmdTok (2 ^ 28 + 5 * 2 ^ 13) 0 1) == some 2,
    leads (.matrixMma 0) (matrix [mmcmdTok (2 ^ 28) 0 1] id) (fun t => yes [accGet (getR t 0) 0 0 == 0x40000000, accGet (getR t 0) 1 0 == 0, accGet (getR t 0) 8 0 == 9, (getR t 0).mmaCount == 4, (getR t 0).mmq.isEmpty]),
    leads (.matrixMma 0) (matrix [mmcmdTok (2 ^ 28 + 2 ^ 27) 0 0] id) (fun t => accGet (getR t 0) 0 0 == 5),
    leads (.matrixAccrd 0) (matrix [mmcmdTok (2 * 2 ^ 28 + 2 ^ 27) 7 0] id) (fun t => yes [memNat (getBuf (getR t 0) 2).mem 0 4 == 5, accGet (getR t 0) 0 0 == 0, accGet (getR t 0) 8 0 == 9, (getR t 0).mmaCount == 0, (getR t 0).sticky == 0,
      (getR t 0).mmDrain.map (fun x => [(x.pay.get 0).toNat, (x.pay.get 1).toNat, (x.pay.get 2).toNat]) == some [7, 1, 3]]),
    leads (.matrixAccclr 0) (matrix [mmcmdTok (3 * 2 ^ 28) 0 0] id) (fun t => accGet (getR t 0) 0 0 == 0 && accGet (getR t 0) 8 0 == 9),
    leads (.accrdResponse 0) (matrix [] (fun g => { g with mmDrain := some (mmcmdTok 0 0 0), mmResp := 2 ^ 44 })) (fun t => (getR t 0).mmOut.length == 1 && (getR t 0).mmDrain.isNone),
    (getR (matrix [] (fun g => { g with mmDrain := some (mmcmdTok 0 0 0) })) 0).mmDrain.isSome] = true := by decide +kernel
/-- MMCMD's token: OP 1 and b[27:0], K0, K (R291); ACCRD's: OP 2, a[27:0], a[47:32] (R293). -/
theorem test_commands : leads (.mmcmd 0 24 0 8) commander (fun t => (nodePort (here t) 0).queue.map (fun o => [(o.tok.pay.get 0).toNat, (o.tok.pay.get 1).toNat, (o.tok.pay.get 2).toNat]) == [[0x18010000, 16, 32]]) = true ∧
    leads (.accrd 0 24 9) commander (fun t => (nodePort (here t) 0).queue.map (fun o => [(o.tok.pay.get 0).toNat, (o.tok.pay.get 1).toNat]) == [[0x20000004, 3]]) = true := by decide +kernel

/-- A matrix header: 2 rows and columns, 3 entries, pointers 0, 1, 3 at 0x11000 (R162). -/
def mh (csc : Bool) : Lanes := BitVec.ofNat 512 ((if csc then 2 ^ 12 else 0) + 2 * 2 ^ 192 + 2 * 2 ^ 224 + 3 * 2 ^ 256 + 0x11000 * 2 ^ 320)
/-- A graph with that header in memory at 0x10000 and in its slots; s0 budgets or the header's address, s1 the cursor or slot. -/
def cutter (a b : Nat) (ha hb : Bool) : State :=
  let s := paged false (memWriteN [(0x11004, 1), (0x11008, 3)] 0x10000 (Bits.bytesOf 64 (mh false).toNat)) [a, b] id
  { s with regions := [(0, { getR s 0 with ha := mh ha, haValid := true, hb := mh hb, hbValid := true, cont := some ⟨0, BitVec.ofNat 64 a, 1⟩ })] }
/-- lo, hi, nA, nB and FLAGS that a cut leaves. -/
def tileOf (i : Instr) (s : State) : List Nat := res i s [] (fun t => (List.range 5).map (fun k => (vGet 0 (getR t 0).bounds k).toNat))
/-- R166 over row counts 1 and 2: a budget of 2, its next tile, all at once, an oversize row, past the end; then by columns
and by contraction. -/
theorem test_cuts : [tileOf (.cutRows 0 28 8 9) (cutter 2 0 false false), tileOf (.cutRows 0 28 8 9) (cutter 2 1 false false), tileOf (.cutRows 0 28 8 9) (cutter 9 0 false false), tileOf (.cutRows 0 28 8 9) (cutter 1 1 false false),
    tileOf (.cutRows 0 28 8 9) (cutter 2 2 false false), tileOf (.cutCols 0 28 8 9) (cutter (9 * 2 ^ 32) 0 false true), tileOf (.cutContract 0 28 8 9) (cutter (9 * 2 ^ 32 + 2) 0 true false), tileOf (.cutr 0 28 28) (cutter 2 0 false false)] =
    [[0, 1, 1, 0, 1], [1, 2, 2, 0, 8], [0, 2, 3, 0, 8], [1, 2, 1, 0, 17], [2, 2, 0, 0, 12], [0, 2, 0, 3, 8], [0, 1, 1, 1, 1], [1, 2, 2, 0, 8]] := by decide +kernel
theorem witness_CutterResults : yes [issuesB (.cutRows 0 28 8 9) (cutter 2 0 false false), issuesB (.cutCols 0 24 8 9) (cutter (9 * 2 ^ 32) 0 false true), issuesB (.cutContract 0 28 8 9) (cutter (9 * 2 ^ 32 + 2) 0 true false),
    (cutRefusal (getR (cutter 2 0 false false) 0) 0 2 0).isNone, cutRefusal (getR (cutter 2 0 false false) 0) 0 0 0 == some 3, (cutInside (cutCounts (cutter 2 0 false false) 0 (some (mh false)) none) 2 2 (2 ^ 24 - 1) 0 0 0).isOk,
    (cutTile (cutCounts (cutter 2 0 false false) 0 (some (mh false)) none) 2 2 (2 ^ 24 - 1) 0 0 0).isOk, issuesB (.cutr 0 28 28) (cutter 2 0 false false), issuesB (.cutr 0 28 28) (withS []), (getR (withS []) 0).cont.isNone,
    issuesB (.cutb 0 8 5) (withS []), issuesB (.sphdr 0 8 8 9) (cutter 0x10000 1 false false), (unitRead (cutter 0x10000 1 false false) 0 0x10000 64).isOk, issuesB (.sphdr 0 8 8 9) (cutter 0x10000 2 false false),
    issuesB (.sphdr 0 8 8 9) (cutter 0x10020 1 false false), leads (.sphdr 0 8 8 9) (cutter 0x10000 1 false true) (fun t => getS (here t).regs 0 == 0 && (getR t 0).hb == mh false && (getR t 0).cont.isNone),
    leads (.cutb 0 8 5) (core id) (fun t => getS (here t).regs 0 == 0),
    leads (.cutRows 0 24 8 9) (let s := cutter 2 0 false false; setHere s (setPort (here s) 0 { nodePort (here s) 0 with dests := [2 ^ 44] })) (fun t =>
      (nodePort (here t) 0).queue.map (fun o => (List.range 7).map (fun k => (o.tok.pay.get k).toNat)) == [[0, 1, 1, 0, 1, 0, 0]])] = true := by decide +kernel

/-- A block-table entry: position, frame, tag, sealed, fill. -/
def be (pos frame tag : Nat) (sealed : Bool) (fill : Nat) : Nat := pos * 2 ^ 96 + frame * 2 ^ 32 + tag * 2 ^ 9 + (if sealed then 2 ^ 8 else 0) + fill * 8
/-- A sequence header: BTAB, PTAB, OXT, NEXT and HWM, NBLK, MAXBLK 4, CTAG 1; pool at 0x10200 (R147). -/
def sh (btab ptab oxt next nblk : Nat) : Nat :=
  btab * 2 ^ 448 + 0x10200 * 2 ^ 384 + ptab * 2 ^ 320 + oxt * 2 ^ 256 + next * 2 ^ 224 + next * 2 ^ 192 + nblk * 2 ^ 176 + 4 * 2 ^ 160 + 2 ^ 110
/-- A sequence at 0x10000 of 17 positions: a sealed block of tag 0, an open one of tag 1, a pool with one frame; an empty
one at 0x10040. -/
def kvMem (ptab : Nat) : Mem :=
  ([(0x10000, 64, sh 0x10100 ptab 0x10500 17 2), (0x10040, 64, sh 0x10900 0 0x10A00 0 0), (0x10100, 16, be 0 0x10600 0 true 16), (0x10110, 16, be 16 0x10700 1 false 1), (0x10200, 24, 2 ^ 64 + 4 * 2 ^ 128), (0x10240, 8, 0x10800),
    (0x10400, 4, 0xFFFF), (0x10600, 4, 1), (0x10700, 4, 1)] : List (Nat × Nat × Nat)).foldl (fun m w => memWriteN m w.1 (Bits.bytesOf w.2.1 w.2.2)) []
/-- A graph with that memory: s0 the sequence, s1 an operand. -/
def kv (ptab b : Nat) : State := paged false (kvMem ptab) [0x10000, b] id
/-- The header's NEXT, NBLK and CTAG, and entry 1's SEALED and FILL. -/
def seqAt (t : State) : List Nat :=
  let h := viewNat t (some 0) 0x10000 64
  let e := viewNat t (some 0) 0x10110 16
  [h / 2 ^ 224 % 2 ^ 32, h / 2 ^ 176 % 2 ^ 16, h / 2 ^ 110 % 8, e / 2 ^ 8 % 2, e / 8 % 32]
theorem witness_KvResults : yes ([Instr.kvapp 0 10 8, .kvapp 0 2 8, .kvseal 0 10 8, .kvfork 0 10 8 9, .kvmask 0 10 8 9, .kvlook 0 2 8 9, .kvnext 0 2 8 9, .kvtag 0 8 3, .retspanKeep 0 8 1, .retspanRewind 0 8 1].map (fun i => issuesB i (kv 0 0x10040)) ++
    [issuesB (.kvpar 0 10 8 9) (kv 0x10400 0x100000001), (kvOpen (kv 0 0) 0 0x10000).isOk, (kvOpen (kv 0x10400 0) 0 0x10000).isOk, (kvAppend (kv 0 0) 0 0x10000 (BitVec.ofNat 512 (sh 0x10100 0 0x10500 17 2))).isOk,
     (kvHeader (kv 0 0) 0 0x10040).isOk, (kvRetire (kv 0 0) 0 0x10000 1 true false (BitVec.ofNat 512 (sh 0x10100 0 0x10500 17 2))).isOk,
     leads (.kvapp 0 10 8) (kv 0 0) (fun t => getS (here t).regs 2 == 17 && seqAt t == [18, 2, 1, 0, 2]), leads (.kvseal 0 10 8) (kv 0 0) (fun t => getS (here t).regs 2 == 1 && seqAt t == [17, 2, 1, 1, 1]),
     leads (.kvapp 0 2 8) (kv 0 0) (fun t => ((List.range 4).map (fun k => ((getV (here t).regs 2).get k).toNat)) == [17, 0xFFFFFFFF, 1, 1]),
     leads (.kvfork 0 10 8 9) (kv 0 0x10040) (fun t => yes [getS (here t).regs 2 == 1, viewNat t (some 0) 0x10900 16 == be 0 0x10600 0 true 16, viewNat t (some 0) 0x10910 16 == be 16 0x10800 1 false 1, viewNat t (some 0) 0x10600 4 == 2,
       viewNat t (some 0) 0x10800 4 == 1, viewNat t (some 0) 0x10200 8 == 1]),
     leads (.kvmask 0 10 8 9) (kv 0 (0xFFFF00000005)) (fun t => getS (here t).regs 2 == 0), leads (.kvmask 0 10 8 9) (kv 0 5) (fun t => getS (here t).regs 2 == 0x3F),
     leads (.kvpar 0 10 8 9) (kv 0x10400 0x100010000) (fun t => getS (here t).regs 2 == 0xFFFF && viewNat t (some 0) 0x10400 4 == 0x80000001),
     leads (.kvlook 0 2 8 9) (kv 0 16) (fun t => ((List.range 5).map (fun k => ((getV (here t).regs 2).get k).toNat)) == [16, 0xFFFFFFFF, 0, 1, 0x10700]),
     leads (.kvnext 0 2 8 9) (kv 0 1) (fun t => ((List.range 7).map (fun k => ((getV (here t).regs 2).get k).toNat)) == [16, 1, 1, 0x10700, 0, 0xFFFFFFFF, 1]),
     leads (.kvtag 0 8 3) (kv 0 0) (fun t => seqAt t == [17, 2, 3, 1, 1]),
     leads (.retspanKeep 0 8 1) (kv 0 0) (fun t => (getR t 0).kvPass == some (.helm 0) && t.hbm == (kv 0 0).hbm),
     leads (.retspanKeep 0 8 1) (setPass (kv 0 0) 0 true) (fun t => (getR t 0).kvPass.isNone && yes [(seqAt t).take 2 == [17, 1], viewNat t (some 0) 0x10208 8 == 2, viewNat t (some 0) 0x10248 8 == 0x10700, viewNat t (some 0) 0x10500 8 == 16 + 17 * 2 ^ 32]),
     leads (.retspanRewind 0 8 1) (setPass (kv 0 0) 0 true) (fun t => (seqAt t).take 2 == [16, 1])]) = true := by decide +kernel
/-- A helm core of logical id 3 with a port, and a ring token on i0. -/
def ringer (x : Nat) : State := core (fun h => { h with lid := 3, node := onCh 0 (tok 1 7 0 0 3 0 [x, 9]) (setPort { h.node with regs := { sregs [77] with p := 0x80 } } 0 { nodePort h.node 0 with dests := [2 ^ 44] }) })
theorem witness_KvResults_ring : yes [issuesB (.ring 0 24 8) (ringer 3), (headOf (here (ringer 3)) 8).isNone, issuesB (.ring 0 24 16) (ringer 3), (headOf (here (ringer 3)) 16).isSome,
    leads (.ring 0 24 8) (ringer 3) (fun t => (nodePort (here t) 0).queue.map (fun o => [(o.tok.pay.get 0).toNat, (o.tok.pay.get 1).toNat]) == [[3, 77]]),
    leads (.ring 0 24 16) (ringer 3) (fun t => (here t).regs.p == 0x80 && (nodePort (here t) 0).queue.isEmpty), leads (.ring 0 24 16) (ringer 4) (fun t => (here t).regs.p == 0 && (nodePort (here t) 0).queue.length == 1)] = true := by decide +kernel

/-! ## Launches and cuts -/

/-- A launch record for partition 1 (R88 to R91): one level of domain 3 with extent 1, the image at 0x20000, HENTRY 516, ARGS 77, a
save area of the least size at 0x1000000; byte 4 more, SIGADDR 0x40000 and SIGVAL. -/
def record (flags sigval : Nat) : List Byte :=
  Bits.bytesOf 256 (1 + 2 ^ 8 + (1 + flags) * 2 ^ 32 + 0x20000 * 2 ^ 64 + 516 * 2 ^ 192 + 77 * 2 ^ 256 + 0x1000000 * 2 ^ 320 + 0x1601000 * 2 ^ 384 +
    (if sigval = 0 then 0 else 0x40000 * 2 ^ 960 + sigval * 2 ^ 1024) + (3 * 2 ^ 61 + 2 ^ 58 + 1) * 2 ^ 1088)
/-- A HELM record of 516 bytes: TEXTEND 516 (R102). -/
def helmSect : Nat := 516 + 0xFFFF * 2 ^ 40 + 9 * 2 ^ 56 + 516 * 2 ^ 64
/-- Its image of one section (R97, R98), and the record at 0x30000. -/
def imgMem : Mem :=
  memWriteN (memWriteN (memWriteN (memWriteN [] 0x20000 (Bits.bytesOf 64 (1 + 64 * 2 ^ 96 + 2 ^ 80 + 2 ^ 72 + 2 ^ 64 + 2 ^ 61 + 5 * 2 ^ 448))) 0x20040
    (Bits.bytesOf 32 (128 * 2 ^ 160 + 524 * 2 ^ 128))) 0x20080 (Bits.bytesOf 524 helmSect)) 0x30000 (record 0 0)
/-- A device whose partition 1 owns region 0, with launches. -/
def fleet (g : Region) (ls : Assoc Launch) : State :=
  { State.reset with regions := [(0, g)], launches := ls, nextLaunch := ls.length, agent := .helm 0, hbm := table false ++ imgMem,
                     parts := [(1, { Partition.reset with present := true, roots := [0x1000], regions := 1 })] }
/-- A launch of that record in a phase, with a placement, and one that waits. -/
def live (ph : Phase) (pl : List Nat) : Launch := { job with record := record 0 0, phase := ph, place := pl, firstPlace := pl, gdig := 5 }
def queued (pr : Nat) : Launch := { live .waiting [] with prio := pr, firstPlace := [] }
/-- Region 0 holds launch 0, and its cache the launch's section. -/
def mine : Region := { reg (fun h => { h with running := true, node := { h.node with regs := sregs [0x30000, 0x20040, 0x20000] } }) with launch := some 0, cache := [(5, 0, Bits.bytesOf 524 helmSect)] }
/-- A section that the cache holds passes the check of its signature (R104). -/
theorem cached_sectCheck (k : Bool) (c : LoadCtx) (e : SecEnt) (b : List Byte) : sectCheck c (if k = true then { e with sig := sigOf b } else e) b =
    if k = true then (match recsCheck c [] (records b).1 with | some f => some f | none => (records b).2.map (pastEnd c)) else sectCheck c e b := by
  cases k
  · simp
  · simp [sectCheck] <;> rfl
/-- The load of a launch whose section is in the cache succeeds. -/
theorem loads_loading : (loadGraph (fleet mine [(0, live .loading [0])]) 0 []).isOk = true := by
  unfold loadGraph sectFails; simp only [cached_sectCheck]; decide +kernel
/-- A preempted launch that has taken its place again. -/
def restoring : State :=
  let f := (imageOf (fleet mine []) 1 (record 0 0)).getD (imgOf [], [])
  takePlace (fleet { mine with launch := none } [(0, live .preempted [])]) 0 (live .preempted []) 0 f.1 f.2
theorem loads_restored : (loadGraph restoring 0 []).isOk = true := by
  unfold loadGraph sectFails; simp only [cached_sectCheck]; decide +kernel
/-- Region 0 runs launch 0, changed. -/
def running (f : Launch → Launch) : State := fleet mine [(0, f (live .running [0]))]
/-- Nothing of a slot is poisoned where nothing is. -/
theorem clean_slot (s : State) (h : s.poison = [] ∧ s.pcs = []) (x : Launch) (k : Nat) : slotPoison s x k = none := by
  have hp : ∀ n, poisoned s n = false := fun n => by simp [poisoned, h.1, h.2, setHas]
  unfold slotPoison runPoison
  refine List.findSome?_eq_none_iff.2 fun j _ => List.findSome?_eq_none_iff.2 fun y _ => ?_
  split
  · rfl
  · simp [hp]
theorem witness_LaunchResults_restore : (pickLaunch (fleet { mine with launch := none } [(0, live .preempted [])])).isSome = true ∧
    slotPoison restoring (live .preempted []) (restoreSlot restoring (live .preempted [])) = none ∧ (loadGraph restoring 0 []).isOk = true :=
  ⟨by decide +kernel, clean_slot _ (by decide +kernel) _ _, loads_restored⟩
theorem witness_LaunchResults : yes [issuesB (.launch 0 10 8) (running id), (alignCheck 0x30000 64).isNone, (viewRead (running id) 0 0x30000 256).isOk, (recordStatus (running id) 1 (record 0 0)).isNone,
    recordStatus (running id) 1 (record 0x20 0) == none, recordStatus (running id) 1 (record 8 0) == some 1, issuesB (.cfgld 0 11 9 10) (running id), cfgQuiet (running id) 0, (viewRead (running id) 0 0x20040 32).isOk, (viewRead (running id) 0 (0x20000 + 128) 524).isOk,
    (pickLaunch (fleet Region.reset [(0, queued 0)])).isSome, (pickLaunch (fleet Region.reset [(0, live .preempted [])])).isSome,
    !(loadGraph (fleet Region.reset [(0, { live .loading [0] with record := record 0 0, nsec := 2, place := [0, 1] })]) 0 []).isOk,
    (running (fun x => { x with record := record 16 0, wantEbb := true })).launches.length == 1, rcPersist (record 16 0), launchMoves (live .running []), allParked (running (fun x => { x with place := [1] })) (live .running [1]),
    !allParked (running id) (live .running [0]), (stuckHead (fleet mine [(0, live .running [0]), (1, queued 1)]) 1).isSome, (victimOf (fleet mine [(0, live .running [0]), (1, queued 1)]) 1 1 1).isSome, cuttable (live .running [0]),
    leads (.launch 0 10 8) (running id) (fun t => getS (here t).regs 2 == 2 ^ 63 + 1 && t.nextLaunch == 2 && (getL t 1).any (fun y => y.phase == .waiting && y.record == record 0 0)),
    leads (.launch 0 10 9) (running id) (fun t => getS (here t).regs 2 == 1 && t.nextLaunch == 1)] = true := by decide +kernel
/-- A dispatched launch takes region 0; launches end, are asked to move, give way. -/
theorem test_launches : yes [leads .launchDispatch (fleet Region.reset [(0, queued 0)]) (fun t => (getR t 0).launch == some 0 && (getL t 0).any (fun y => y.phase == .loading && y.place == [0])),
    leads (.launchEnd 0) (running (fun x => { x with ending := true, record := record 0 9 })) (fun t => memNat t.hbm 0x40000 8 == 9 && (getR t 0).launch.isNone && (getL t 0).any (fun y => y.phase == .ended)),
    leads (.migrationRequest 0) (running (fun x => { x with record := record 16 0, wantEbb := true })) (fun t => (getH t 0).migPosted && (getL t 0).any (fun y => y.migPosted == some 0)),
    leads (.migrationCut 0) (let s := running (fun x => { x with record := record 16 0, wantEbb := true, migPosted := some 0 }); setH s 0 { getH s 0 with parked := true }) (fun t => (getL t 0).any (fun y => y.cut.any (fun c => c.kind == 2 && c.seq == 1))),
    leads (.migrationTimeout 0) { running (fun x => { x with record := record 16 0, wantEbb := true, forHead := some 1, migPosted := some 0 }) with now := 1000000 } (fun t => (getL t 0).any (fun y => y.migPosted.isNone && y.declined == [1])),
    leads (.migrationTimeout 0) { running (fun x => { x with record := record 16 0, wantEbb := true, migPosted := some 0 }) with now := 999999 } (fun t => (getL t 0).any (fun y => y.migPosted == some 0)),
    leads (.quiescentPreempt 0) { fleet mine [(0, { live .running [0] with quietSince := some 0, engines := [(.helm 0, 0)] }), (1, queued 0)] with now := 100000 } (fun t => (getP t 1).preempting == some 0),
    leads (.preempt 1) (fleet mine [(0, live .running [0]), (1, queued 1)]) (fun t => (getP t 1).preempting == some 0 && (getL t 0).any (fun y => y.wantEbb))] = true := by decide +kernel

/-- A cut in flight. -/
def cutNow (kind : Nat) (closing : Bool) : Cut := { kind := kind, seq := 1, closing := closing, first := false, image := [], arms := [] }
/-- Launch 0 with a cut, its helm core changed. -/
def cutting (k : Nat) (f : Region → Region) : State := fleet (f mine) [(0, { live .running [0] with cut := some (cutNow k false), cutSeq := 1 })]
/-- A bound port with a marker to inject. -/
def marking : State := cutting 1 (fun g => { g with helm := { g.helm with node := setPort g.helm.node 0 { nodePort g.helm.node 0 with spb := some (spb 0x10000 2 false true), dests := [2 ^ 44], top := 6, post := some (cutMarker 1 1 9 0) } } })
/-- One element with one context. -/
def withElem (g : Region) : Region := { g with elems := [(3, { Elem.reset with ctxs := [(0, { Node.reset with regs := sregs [4] })] })] }
theorem witness_CutResults : yes [allHalted (fleet { mine with helm := { mine.helm with halted := true } } []) (live .running [0]), !allHalted (running id) (live .running [0]), snapDue (running id) { live .running [0] with wantSnap := true },
    !snapDue (running id) (live .running [0]), launchMoves (live .running [0]), allSaved (cutting 1 (fun g => { g with helm := { g.helm with saved := some 1 } })) (live .running [0]) 1, markersHome (cutting 1 id) (live .running [0]),
    (launchOf marking 0).isSome, (nodePort (here marking) 0).post.isSome, (nodePort (here marking) 0).spb.isSome, (cutOf (cutting 1 id) 0).isSome, regionCuts (cutting 1 id) 0, !(getE (cutting 1 withElem) 0 3).ctxs.isEmpty,
    elemReadyToSave (cutting 1 withElem) 0 3, marksIn (cutting 1 id) 0 256 [(getH (cutting 1 id) 0).node], isCutMarker (cutMarker 1 1 0 0),
    leads (.snapCutPost 0) (running (fun x => { x with wantSnap := true })) (fun t => (getL t 0).any (fun y => y.cut.any (fun c => c.kind == 1 && c.seq == 1 && !c.closing))),
    leads (.snapCutPost 0) (fleet { mine with helm := { mine.helm with halted := true } } [(0, live .running [0])]) (fun t => (getL t 0).any (fun y => y.cut.any (fun c => c.closing))), leads (.snapCutPost 0) (running id) (fun t => (getL t 0).any (fun y => y.cut.isNone)),
    leads (.windowApply 0 0) (running (fun x => { x with commits := [(0, [(0x50000, 7)], [0x50000], 0)] })) (fun t => memRead t.hbm 0x50000 == 7 && setHas t.full 0x50000 && (getL t 0).any (fun y => y.commits.isEmpty)),
    leads (.sourceMarkerInject ⟨0, 256, 0, 0⟩) marking (fun t => let p := nodePort (here t) 0; p.post.isNone && p.cutHold && p.queue.map (fun o => [(o.tok.pay.get 0).toNat, (o.tok.pay.get 1).toNat, hT o.tok.hdr]) == [[1, 1, 6]]),
    leads (.elementSave 0 3) (cutting 1 withElem) (fun t => (getE t 0 3).saved == some 1 && (getL t 0).any (fun y => y.cut.any (fun c => (aFind c.image 0).any (fun g => getS (aGet Node.reset (aGet Elem.reset g.elems 3).ctxs 0).regs 0 == 4)))),
    leads (.helmSave 0) (cutting 1 id) (fun t => (getH t 0).saved == some 1), leads (.matrixMarkerSave 0) (cutting 1 (fun g => { g with mmq := [cutMarker 1 1 0 0] })) (fun t => (getR t 0).mmSaved == some 1 && (getR t 0).mmq.isEmpty),
    leads (.matrixMarkerSave 0) (cutting 1 (fun g => { g with mmq := [cutMarker 1 1 0 0], mmSaved := some 1 })) (fun t => (getR t 0).mmq.isEmpty && t.links.isEmpty)] = true := by decide +kernel

/-! ## Messages -/

/-- A message of a type with a payload of n bytes, SEQ 7, TAG 9, for partition 1 or for management. -/
def msg (mgmt : Bool) (typ n p : Nat) : Msg :=
  { port := 0, conn := 0, rod := false, dest := if mgmt then Config.mgmtAddr else 5,
    hdr := BitVec.ofNat 256 (2 ^ 248 + typ * 2 ^ 240 + (if mgmt then 0 else 2 ^ 235) + n * 2 ^ 192 + 7 * 2 ^ 128 + 9 * 2 ^ 64), payload := Bits.bytesOf n p }
/-- A running device whose partition 1 has endpoint 5, and a connection with a ring of 64 entries at 0x4000 in host memory. -/
def hosted (f : State → State) (c : Conn → Conn) (p : Partition → Partition) : State :=
  f { State.reset with booted := true, fw := vSet State.reset.fw 0 { Slot.reset with valid := true }, hbm := table false ++ imgMem,
                       parts := [(1, p { Partition.reset with present := true, roots := [0x1000], endpoints := [5], regions := 1, areas := [(0x50000, 0x50000, 4)], ranges := [(0, 2 ^ 30)], pools := [(0x80000, 0x10000, 0x80000)] })],
                       conns := [(0, c { connNew with hello := true, features := 0x7FF, ring := 0x4000, count := 64, free := 64, data := 0x8000, dlen := 4096 })] }
/-- The hypotheses of taken, as a test, but for the endpoint. -/
def takenB (s : State) (m : Msg) (row : Row) (ep : Option Nat) : Bool :=
  let c := getC s m.conn
  arrives s m && typeRow m == row && c.hello && !behindHeld c row m && !ringHolds c row && !c.seqs.contains (mSeq m) && !c.rod && !fallback s && !hdrBad m &&
    (match (gateOf row).1 with | .partition => ep.isSome | .management => ep.isNone | .both => true) && (match (gateOf row).2 with | some b => c.features.getLsbD b | none => true) &&
    (match ep with | some p => mPart m == p | none => true)
theorem taken_of (s : State) (m : Msg) (row : Row) (ep : Option Nat) (he : endpointOf s m.dest = some ep) (h : takenB s m row ep = true) : taken s m row ep := by
  simp only [takenB, Bool.and_eq_true, beq_iff_eq, bne_iff_ne, Bool.not_eq_true', List.isEmpty_iff] at h
  obtain ⟨⟨⟨⟨⟨⟨⟨⟨⟨⟨⟨h1, h2⟩, h3⟩, h4⟩, h5⟩, h6⟩, h7⟩, h8⟩, h9⟩, h10⟩, h11⟩, h12⟩ := h
  refine ⟨⟨h1, ?_, he, ?_, h4, h5, fun hr => ?_⟩, h8, h9, ?_, ?_, ?_⟩
  · simp [msgRow, he, h3, h2]
  · simpa using h6
  · simp [onRod, h3, h7] at hr
  · intro p hp; subst hp; simpa using h12
  · revert h10; cases (gateOf row).1 <;> cases ep <;> simp
  · intro b hb; rw [hb] at h11; exact h11
/-- Management's address reaches management. -/
theorem mgmt_endpoint (s : State) (h : s.parts.all (fun e => e.2.endpoints.isEmpty) = true) : endpointOf s Config.mgmtAddr = some none := by
  have : s.parts.find? (fun e => e.2.present && e.2.endpoints.contains Config.mgmtAddr) = none :=
    List.find?_eq_none.2 fun e he => by
      have := List.all_eq_true.1 h e he
      rw [List.isEmpty_iff] at this
      simp [this]
  unfold endpointOf; rw [this]; simp
/-- A device that management reaches. -/
def managed (f : State → State) : State := hosted f id (fun p => { p with endpoints := [] })

/-- A fence message: OP, address, value. -/
def fence (op va x : Nat) : Msg := msg false 4 32 (op * 2 ^ 120 + x * 2 ^ 128 + va * 2 ^ 192)
/-- The completion that stands in the ring's first entry: STATUS, VALUE, TAG, PHASE. -/
def firstComp (t : State) : List Nat := let w := memNat t.host 0x4000 32; [w / 2 ^ 112 % 256, w / 2 ^ 128 % 2 ^ 64, w / 2 ^ 192, w / 2 ^ 64 % 2]
/-- The first completion that a message leaves. -/
def answerOf (i : Instr) (s : State) : List Nat := res i s [] firstComp
def plain : State := hosted id id id

theorem witness_ConnectionMessages : yes [arrives plain (fence 0 0 0), takenB plain (fence 0 0x30000 0) .fenceRead (some 1), msgRow (hosted id (fun _ => connNew) id) (fence 0 0 0) == .notHello,
    (getC (hosted id (fun c => { c with free := 0 }) id) 0).free == 0, hdrBad { fence 0 0 0 with payload := [] }, mPart (msg false 4 32 0) == 1, (getC (hosted id (fun c => { c with features := 1 }) id) 0).features.getLsbD 6 == false,
    typeRow (msg false 12 0 0) == .unknown, ringOk (msg false 1 64 (64 * 2 ^ 288 + 0x4000 * 2 ^ 320 + 5 * 2 ^ 384)), !ringOk (msg false 1 64 (63 * 2 ^ 288)), ringOk (msg false 1 64 (65536 * 2 ^ 288)), !ringOk (msg false 1 64 (131072 * 2 ^ 288)),
    setupStatus (msg false 1 64 (64 * 2 ^ 288 + 0x4000 * 2 ^ 320 + 5 * 2 ^ 384)) (some 1) true == 0, setupStatus (msg false 1 64 (64 * 2 ^ 288 + 0x4000 * 2 ^ 320 + 4 * 2 ^ 384)) (some 1) true == 2, (getC (hosted id (fun _ => connNew) id) 0).hello == false,
    typeRow (msg false 1 64 (1 + 3 * 2 ^ 256)) == .helloCredit, (aFind plain.conns 0).isSome,
    answerOf (.fenceRead (fence 0 0x30000 0)) plain == [0, (1 + 2 ^ 8 + 2 ^ 32), 9, 1], answerOf (.fenceRead { fence 0 0 0 with payload := [] }) plain == [1, 0, 9, 1], answerOf (.unknownMessageType (msg false 12 0 0)) plain == [1, 0, 9, 1],
    leads (.fenceRead (fence 0 0x30000 0)) (hosted id (fun c => { c with seqs := [7], done := [⟨9, 3, 4, 0, 1, 7⟩] }) id) (fun t => firstComp t == [0, 3, 9, 1] && (getC t 0).seqs.length == 1),
    leads (.helloSetup (msg false 1 64 (64 * 2 ^ 288 + 0x4000 * 2 ^ 320 + 5 * 2 ^ 384))) (hosted id (fun _ => connNew) id) (fun t => firstComp t == [0, 5, 9, 1] && (getC t 0).hello && (getC t 0).free == 63),
    leads (.helloCredit (msg false 1 64 (1 + 3 * 2 ^ 256))) (hosted id (fun c => { c with free := 0, withheld := [⟨9, 3, 4, 0, 1, 6⟩] }) id) (fun t => firstComp t == [0, 3, 9, 1] && (getC t 0).free == 2),
    leads (.firstMessageNotHello (fence 0 0 0)) (hosted id (fun _ => connNew) id) (fun t => (getC t 0).closed), leads (.packetDiscard 3) plain (fun t => (aGet EthPort.reset t.ports 3).errors == 1),
    (aFind plain.conns 0).isSome] = true := by decide +kernel
/-- Of two addresses that no partition has, one is not management's. -/
theorem no_endpoint (s : State) (h6 : s.parts.find? (fun e => e.2.present && e.2.endpoints.contains 6) = none)
    (h7 : s.parts.find? (fun e => e.2.present && e.2.endpoints.contains 7) = none) : ∃ d, endpointOf s d = none := by
  by_cases e : (6 : BitVec 128) = Config.mgmtAddr
  · refine ⟨7, ?_⟩
    unfold endpointOf; rw [h7]; exact if_neg (by rw [← e]; decide)
  · refine ⟨6, ?_⟩
    unfold endpointOf; rw [h6]; exact if_neg e
/-- R438: what was withheld is kept for the partition of the connection's endpoint. -/
theorem witness_ConnectionMessages_kept : leads (.connectionFailure 0) (hosted id (fun c => { c with dest := 5, withheld := [⟨9, 3, 4, 0, 2, 6⟩] }) id)
    (fun t => (getP t 1).kept.length == 1 && (getP t 2).kept.isEmpty && (getC t 0).closed) = true := by decide +kernel
theorem witness_ConnectionMessages_lost : (∃ d, endpointOf plain d = none) ∧ arrives plain (fence 0 0 0) = true :=
  ⟨no_endpoint plain (by decide +kernel) (by decide +kernel), by decide +kernel⟩
/-- A fence message is taken; a fence at 0x30000 lies on a page. -/
theorem witness_HostMessages_fence : taken plain (fence 0 0x30000 0) .fenceRead (some 1) ∧ taken plain (fence 1 0x30000 5) .fenceRaise (some 1) ∧ taken plain (fence 2 0x30000 5) .fenceWait (some 1) ∧
    yes [xlate plain 1 0x30000 3 |>.isOk, !poisoned plain 0xC00, memWf plain.hbm, plain.hostWaits.isEmpty, (areaOf (getP plain 1) 0) == (0x50000, 0x50000, 4), placeFree plain 3 0 0x30000,
      leads (.fenceRaise (fence 1 0x60000 5)) plain (fun t => memNat t.hbm 0x60000 8 == 5 && memNat t.hbm 0x50010 8 == 0x60000 && memNat t.hbm 0x50018 8 == 5 && memNat t.hbm 0x50008 8 == 9 && firstComp t == [0, 5, 9, 1]),
      leads (.fenceWait (fence 2 0x60000 5)) plain (fun t => t.hostWaits.length == 1 && t.host.isEmpty), answerOf (.fenceWait (fence 2 0x60000 0)) plain == [0, 0, 9, 1]] = true :=
  ⟨taken_of _ _ _ _ (by decide +kernel) (by decide +kernel), taken_of _ _ _ _ (by decide +kernel) (by decide +kernel), taken_of _ _ _ _ (by decide +kernel) (by decide +kernel), by decide +kernel⟩

/-- A PIN message of OP on 0x100 bytes at 0x30000, whose page is the 1 GB at 0. -/
def pinMsg (op : Nat) : Msg := msg false 6 32 (op * 2 ^ 120 + 0x100 * 2 ^ 128 + 0x30000 * 2 ^ 192)
def pinned (n : Nat) : State := hosted (fun s => { s with pins := if n = 0 then [] else [(pinKey 1 0, n)] }) id id
/-- A MAP message: OP, virtual and physical address, count, TYPE and the attributes R, W, FE, COMP. -/
def mapMsg (op va pa n typ attrs : Nat) : Msg := msg false 5 64 (op * 2 ^ 367 + attrs * 2 ^ 369 + typ * 2 ^ 374 + n * 2 ^ 376 + pa * 2 ^ 408 + va * 2 ^ 448)
theorem witness_HostMessages_pages : yes [takenB (pinned 0) (pinMsg 0) .pin (some 1), pagesOf (pinned 0) 1 0x30000 0x100 == some [0], pinCount (pinned 65535) 1 0 == 65535, pinCount (pinned 0) 1 0 == 0, takenB (pinned 1) (pinMsg 1) .unpin (some 1),
    takenB plain (mapMsg 0 (2 ^ 30) (2 ^ 29) 2 1 3) .mapPages (some 1), (List.range 2).all (fun k => insideRanges [(0, 2 ^ 30)] (2 ^ 29 + k * 65536) 65536 && !touchesPin plain 1 (2 ^ 30 + k * 65536) 65536), !pageOffline plain (2 ^ 29) 65536,
    ((List.range 2).foldl (fun (acc : Option State) k => acc.bind (mapLeaf 1 (2 ^ 30 + k * 65536) 1 (leafEntry 1 1 3 (2 ^ 29 + k * 65536)) walkLevels 0x1000)) (some plain)).isSome,
    takenB plain (mapMsg 1 0 0 1 3 0) .mapUnmap (some 1), (findLeaf plain.hbm 0 3 walkLevels 0x1000).isOk, !touchesPin (hosted id id (fun p => { p with areas := [] })) 1 0 (2 ^ 30), takenB plain (msg false 5 64 (2 * 2 ^ 367 + 77 * 2 ^ 351)) .mapThreshold (some 1),
    answerOf (.pin (pinMsg 0)) (pinned 0) == [0, 1, 9, 1], answerOf (.pin (pinMsg 0)) (pinned 65535) == [5, 0, 9, 1], answerOf (.unpin (pinMsg 1)) (pinned 0) == [3, 0, 9, 1], answerOf (.unpin (pinMsg 1)) (pinned 2) == [0, 1, 9, 1],
    leads (.mapPages (mapMsg 0 (2 ^ 30) (2 ^ 29) 2 1 3)) plain (fun t => firstComp t == [0, 2, 9, 1] && (xlate t 1 (2 ^ 30 + 65537) 1 |>.isOk) && !(xlate t 1 (2 ^ 30 + 131072) 0 |>.isOk)),
    leads (.mapUnmap (mapMsg 1 0 0 1 3 0)) (hosted id id (fun p => { p with areas := [] })) (fun t => firstComp t == [0, 1, 9, 1] && !(xlate t 1 0x30000 0 |>.isOk)),
    leads (.mapThreshold (msg false 5 64 (2 * 2 ^ 367 + 77 * 2 ^ 351))) plain (fun t => (getP t 1).thresh == 77)] = true := by decide +kernel
/-- A REQUEST to node 4 of the launch with LTAG 7 for times 3 to 9. -/
def reqMsg (ltag : Nat) : Msg := msg false 3 32 (2 ^ 80 + 9 * 2 ^ 88 + 3 * 2 ^ 124 + 4 * 2 ^ 160 + ltag * 2 ^ 192)
/-- Launch 7 runs, and its helm core has a sink that the node map calls node 4. -/
def sinking (ph : Phase) : State := hosted (fun s => { s with launches := [(0, { job with phase := ph })], regions := [(0, { reg (fun h => { h with node := sinkNode [] [] h.node }) with launch := some 0, nmap := [(512 * 256, BitVec.ofNat 128 (4 * 2 ^ 96))] })] }) id id
theorem witness_HostMessages_launch : yes [takenB plain (msg false 2 256 (Bits.ofBytes (record 0 0))) .launch (some 1), !usesInred plain 1 (record 0 0), recordStatus plain 1 (record 8 0) == some 1, (recordStatus plain 1 (record 0 0)).isNone,
    takenB (sinking .running) (reqMsg 7) .request (some 1), (sinkOf (sinking .running) job 4).isSome, launchMoves job, !launchMoves { job with phase := .loading }, (nodePair (getN (sinking .running) 0 256 0) 0).held.isEmpty,
    leads (.launchMessage (msg false 2 256 (Bits.ofBytes (record 0 0)))) plain (fun t => t.nextLaunch == 1 && t.host.isEmpty && (getL t 0).any (fun y => y.phase == .waiting && y.ltag == 9)),
    answerOf (.launchMessage (msg false 2 256 (Bits.ofBytes (record 8 0)))) plain == [1, 0, 9, 1], answerOf (.request (reqMsg 8)) (sinking .running) == [5, 0, 9, 1],
    leads (.request (reqMsg 7)) (sinking .loading) (fun t => t.reqs.isEmpty && t.host.isEmpty),
    leads (.request (reqMsg 7)) (sinking .running) (fun t => t.reqs.map (·.left) == [[⟨3, 9, 1, 0⟩]] && t.dlinks.length == 1)] = true := by decide +kernel

/-- A DUMPREAD of WHAT for entry SEL: 64 bytes from OFF to host address 0x9000. -/
def readMsg (what sel off : Nat) : Msg := msg false 7 32 (what * 2 ^ 80 + 2 ^ 83 + sel * 2 ^ 88 + (if what = 4 then 0 else off * 2 ^ 96 + 64 * 2 ^ 160 + 0x9000 * 2 ^ 192))
/-- A partition with an image of 2,048 bytes in entry 1 of its dump area, and a frozen ring; with an update complete. -/
def dumped : State :=
  hosted (fun s => { s with hbm := s.hbm ++ [(0x140000, 7)], sediment := [BitVec.ofNat 256 (2 ^ 16 + 2 ^ 32)], regions := [(0, { Region.reset with ringFrozen := true, ring := [(1, 6)] })] }) id
    (fun p => { p with areas := [(0, 0x20000, 0), (0, 0, 0), (0, 0, 0), (0, 0, 0), (0, 0, 0), (0x100000, 0x100000, 4194304)], dumps := [⟨1, 0, 0x40000, 2048, false, 0, 2, false⟩] })
theorem witness_EvidenceMessages : yes [(entryOf dumped 1 1).isSome, (entryOf dumped 1 2).isNone, (linePoison dumped 0x140000 1024).isNone, takenB dumped (readMsg 0 1 0) .dumpCleartext (some 1), dumpreadOk (readMsg 0 1 0), dumpreadOk (readMsg 0 63 0), !dumpreadOk (readMsg 0 0 0),
    takenB dumped (readMsg 1 1 0) .dumpBody (some 1), takenB dumped (readMsg 4 1 0) .dumpRelease (some 1), dumpreadOk (readMsg 4 1 0), takenB dumped (readMsg 2 0 0) .dumpSediment (some 1), dumpreadOk (readMsg 2 0 0), takenB dumped (readMsg 3 0 0) .dumpRing (some 1),
    (frozenRing dumped 1 0).isSome, (frozenRing dumped 1 1).isNone, memWf dumped.hbm, takenB plain (msg false 8 32 (0x1100 * 2 ^ 160 + 0x9000 * 2 ^ 192)) .resync (some 1), takenB plain (msg false 9 32 0) .attest (some 1),
    leads (.dumpreadCleartext (readMsg 0 1 0)) dumped (fun t => firstComp t == [0, 64, 9, 1] && memRead t.host 0x9000 == 7), leads (.dumpreadSediment (readMsg 2 0 0)) dumped (fun t => memNat t.host 0x9020 32 == 2 ^ 16 + 2 ^ 32),
    leads (.dumpreadWakeRing (readMsg 3 0 0)) dumped (fun t => memNat t.host 0x9010 16 == 6), answerOf (.dumpreadWakeRing (readMsg 3 1 0)) dumped == [5, 0, 9, 1], leads (.dumpreadRelease (readMsg 4 1 0)) dumped (fun t => (getP t 1).dumps.isEmpty && firstComp t == [0, 0, 9, 1]),
    answerOf (.resync (msg false 8 32 (0x1000 * 2 ^ 160))) plain == [5, 0x1100, 9, 1]] = true ∧
    (∀ b, Config.decrypt 1 0 0 (memReadN dumped.hbm 0x140000 64) (memReadN dumped.hbm 0x140400 1024) 0 = some b → memNat dumped.hbm 0x14004C 4 = (getP dumped 1).keygen) := ⟨by decide +kernel, fun _ _ => by decide +kernel⟩
/-- Firmware messages reach management; an update of four bytes is whole. -/
def updating (got : List Nat) : State := managed (fun s => { s with update := some ⟨4, got, false⟩ })
theorem witness_EvidenceMessages_update : taken (managed id) (msg true 10 36 (4 * 2 ^ 160 + 0x01020304 * 2 ^ 256)) .updatePiece none ∧ taken (updating [0, 1, 2, 3]) (msg true 10 32 (2 ^ 152)) .updateCommit none ∧
    taken (updating [0]) (msg true 10 32 (2 * 2 ^ 152)) .updateAbort none ∧ (updating [0, 1, 2, 3]).update.any (fun x => x.got.length == x.total) = true ∧ (managed (fun s => { s with pendingSwitch := true })).pendingSwitch = true ∧
    leads .firmwareSwitch (managed (fun s => { s with pendingSwitch := true })) (fun t => t.running && !t.pendingSwitch) = true :=
  ⟨taken_of _ _ _ _ (mgmt_endpoint _ (by decide +kernel)) (by decide +kernel), taken_of _ _ _ _ (mgmt_endpoint _ (by decide +kernel)) (by decide +kernel),
   taken_of _ _ _ _ (mgmt_endpoint _ (by decide +kernel)) (by decide +kernel), by decide +kernel, by decide +kernel, by decide +kernel⟩

/-- A PARTCTL message for a partition: OP, region, REGIONS, ranges of 32 MiB in every stack, and with a create the pools and
areas. -/
def partMsg (op p r regions : Nat) (full : Bool) : Msg :=
  msg true 11 576 (op + p * 2 ^ 8 + r * 2 ^ 16 + regions * 2 ^ 256 + (if op < 2 then (List.range 8).foldl (fun n k => n + (k * 2 ^ 37) * 2 ^ (8 * (0x40 + 16 * k)) + 2 ^ 25 * 2 ^ (8 * (0x48 + 16 * k)) +
      (if full then (k * 2 ^ 37) * 2 ^ (8 * (0xC0 + 16 * k)) + 65536 * 2 ^ (8 * (0xC8 + 16 * k)) else 0)) 0 else 0) +
    (if full then (List.range 6).foldl (fun n k => n + (k * 0x10000) * 2 ^ (8 * (0x140 + 32 * k)) + (0x200000 + k * 0x10000) * 2 ^ (8 * (0x148 + 32 * k)) + (if k = 5 then 4194304 else if k = 1 then 64 else 1) * 2 ^ (8 * (0x150 + 32 * k))) 0 else 0))
/-- Partition 1 stands on region 0 as its messages have it. -/
def parted (f : State → State) : State := managed (fun s => f { s with hbm := [], parts := s.parts.map (fun e => (e.1, { e.2 with ranges := [(0, 2 ^ 25)], areas := [], pools := [], roots := [0x1000] })) })
/-- A PARTCTL message is taken. -/
theorem partTaken_of (s : State) (m : Msg) (row : Row) (op : Nat) (hd : m.dest = Config.mgmtAddr) (h : s.parts.all (fun e => e.2.endpoints.isEmpty) = true) (h' : (takenB s m row none && !partctlBad m op) = true) : partTaken s m row op := by
  rw [Bool.and_eq_true, Bool.not_eq_true'] at h'
  exact ⟨taken_of s m row none (hd ▸ mgmt_endpoint s h) h'.1, h'.2⟩
theorem witness_PartitionMessages : partTaken (managed (fun s => { s with parts := [] })) (partMsg 0 2 0 6 true) .partCreate 0 ∧ partTaken (parted id) (partMsg 1 1 0 3 false) .partResize 1 ∧ partTaken (parted id) (partMsg 2 1 0 0 false) .partDelete 2 ∧
    partTaken (parted id) (partMsg 3 1 0 0 false) .partReset 3 ∧ partTaken (parted id) (partMsg 4 1 0 0 false) .partSpare 4 :=
  ⟨partTaken_of _ _ _ _ rfl (by decide +kernel) (by decide +kernel), partTaken_of _ _ _ _ rfl (by decide +kernel) (by decide +kernel), partTaken_of _ _ _ _ rfl (by decide +kernel) (by decide +kernel),
   partTaken_of _ _ _ _ rfl (by decide +kernel) (by decide +kernel), partTaken_of _ _ _ _ rfl (by decide +kernel) (by decide +kernel)⟩
theorem witness_PartitionMessages_rest : yes [(pcRanges (partMsg 0 2 0 6 true)).all rangeOk, ((List.range 8).zip (pcPools (partMsg 0 2 0 6 true))).all (fun x => poolOk (pcRanges (partMsg 0 2 0 6 true)) x.1 x.2),
    ((List.range 6).zip (pcAreas (partMsg 0 2 0 6 true))).all (fun x => areaOk x.1 x.2 && insideRanges (pcRanges (partMsg 0 2 0 6 true)) x.2.2.1 (up64K (areaLen x.1 x.2.2.2))),
    (List.range 6).all (fun k => payAt (partMsg 0 2 0 6 true) (0x158 + 32 * k) 8 == 0), regionList (pcRegions (partMsg 0 2 0 6 true)) == [1, 2], !takenBy (parted id) 2 1, takenBy (parted id) 2 0, (getP (parted id) 1).present,
    payAt (partMsg 1 1 0 3 false) 0xC0 384 == 0, (pcRanges (partMsg 1 1 0 3 false)).all (fun x => !rangeTaken (parted id) 1 x), (pagesMapped (parted id) 1).isEmpty, !anyLive (parted id) 1, resetReady (parted id) 1, sparesUsed (parted id) 0 == 0,
    (getR (parted id) 0).launch.isNone, anyLive (parted (fun s => { s with launches := [(0, job)] })) 1, !resetReady (parted (fun s => { s with dredges := [0] })) 1] = true := by decide +kernel
theorem witness_PartitionMessages_tables : (createPart (noted (managed (fun s => { s with parts := [] })) (partMsg 0 2 0 6 true) .partCreate) (partMsg 0 2 0 6 true) 2).isSome = true := by decide +kernel

/-! ## Recovery, fabric and device -/

/-- A complete cut of region 0, or the state that its load left. -/
def snapOf (kind slot : Nat) : Snap := { kind := kind, seq := 1, window := 1, slot := slot, rerun := false, image := [(0, mine)], arms := [] }
/-- Launch 0 rolls back to a cut, with a line of buffer W journalled as 7 and 9 in it now. -/
def rolling (n code : Nat) (c : Snap) : State :=
  fleet { mine with bufs := vSet mine.bufs 0 { Buf.reset with mem := [(64, 9)] }, journal := [⟨0, 1, 7 :: List.replicate 63 0, 1, false⟩] }
    [(0, { live .running [0] with phase := .rolling, rollbacks := n, fault := some code, snap := some c })]
/-- The same with the first line of the cut's image poisoned. -/
def spoilt : State := { rolling 0 0x49 (snapOf 1 1) with poison := [(0x1000000 + imageOff 1 1 0) / 64] }
/-- The firing at element 3 takes its fault again. -/
def again : State := fleet { mine with helm := { mine.helm with trapvec := 1024 } } [(0, { live .running [0] with phase := .rerun, hits := [(.elem 0 3 0 0, ⟨6, 1, 0, 0⟩)] })]
/-- Launch 0 has ended fatally, with a dump area of a length, and images in it. -/
def dredging (flags len : Nat) (ds : List Dump) : State :=
  let s := fleet mine [(0, { live .dredging [0] with record := record flags 0 })]
  { s with dredges := [0], parts := s.parts.map (fun e => (e.1, { e.2 with areas := [(0, 0, 0), (0, 0, 0), (0, 0, 0), (0x60000, 0x60000, 2), (0, 0, 0), (0x2000000, 0x2000000, len)], dumps := ds })) }
/-- Region 0 stands still, can trap, and has hung so often. -/
def stuck (hangs : Nat) (hung : Bool) (now : Nat) : State :=
  { fleet { mine with helm := { mine.helm with trapvec := 1024, stillLimit := 5 }, still := 5, hangs := hangs, hung := hung } [(0, live .running [0])] with now := now }
/-- Two cores that wait at SENDM for each other's queue. -/
def ringed (now : Nat) : State :=
  let text := memWriteN [] 512 (bytesOfWord (wordOf (.sendm 0 0 9)))
  let full := fun (h : Helm) => { h with text := text, textEnd := 516, wait := .msgSend, recv := List.replicate 64 0, trapvec := 1024 }
  let s := pair (fun h => full { h with node := { h.node with regs := sregs [0, 0] } })
  { setH s 0 (full (getH s 0)) with now := now }
/-- The configuration store of region 0 has an error, and its section was this one. -/
def badStore : State := fleet { mine with cfgErr := some 64, cfgFrom := (0x20080, 524, 0) } [(0, live .running [0])]
/-- A section whose signature agrees. -/
def goodStore : State := let s := badStore; setR s 0 { getR s 0 with cfgFrom := (0x20080, 524, sigOf (virtBytes s 1 none 0x20080 524 |>.getD [])), cache := [] }

theorem witness_RecoveryResults : yes [(slotPoison spoilt (live .running [0]) 1).isSome, (rolling 0 0x49 (snapOf 0 0)).launches.all (fun e => e.2.snap.any (fun c => c.arms.isEmpty)), (rolling 0 0x63 (snapOf 0 0)).launches.all (fun e => !e.2.overflow),
    (getR (rolling 0 0x49 (snapOf 0 0)) 0).journal.length == 1, (getR (rolling 0 0x49 (snapOf 0 0)) 0).bgate == 0, memWf (getBuf (getR (rolling 0 0x49 (snapOf 0 0)) 0) 0).mem,
    (getL again 0).any (fun x => x.hits.length == 1 && x.phase == .rerun), (getH again 0).trapvec != 0, !(getH again 0).halted, (dumpOf (dredging 0 0 []) 0 (live .dredging [0])).isNone, rcDump (record 0x20 0) == 1, rcDump (record 0 0) == 0,
    (match dumpAlloc (freezeRings (dredging 0x20 0 []) 0) 0 { live .dredging [0] with record := record 0x20 0 } with | .error k => k == 1 | .ok _ => false),
    (match dumpAlloc (freezeRings (dredging 0x20 4194304 []) 0) 0 { live .dredging [0] with record := record 0x20 0 } with | .error _ => false | .ok t => (getP t 1).dumps == [⟨1, 0, 0x10000, 0x12400, false, 0, 1, true⟩]),
    (dumpOf (dredging 0x20 4194304 [⟨1, 0, 0x10000, 0x12400, false, 0, 1, true⟩]) 0 (live .dredging [0])).isSome, (dredging 0x20 0 []).dredges.head? == some 0,
    !stillHeld (stuck 0 false 0) 0 (getR (stuck 0 false 0) 0), (getR (stuck 0 false 0) 0).still == 5, (getR (stuck 1 false 0) 0).hangs == 1, escDue (stuck 1 true 10000000) 0 == some (0, 0), escDue (stuck 1 true 9999999) 0 == none, escDue (stuck 2 true 0) 0 == some (0, 0),
    resetReady (stuck 1 true 10000000) 1, !resetReady { stuck 1 true 10000000 with dredges := [0] } 1, sendChain (ringed 100000) 0 == ([0, 8], some 0), ringFrom (ringed 100000) [0, 8] == [0, 8], !sendStays (ringed 100000) 0, !sendStays (ringed 100000) 8,
    graphMoves (ringed 100000) 0, (getH (ringed 100000) 0).trapvec != 0, (getR badStore 0).cfgErr == some 64, (launchOf badStore 0).isSome, !(getR (stuck 0 false 0) 0).frozen] = true := by decide +kernel
theorem witness_RecoveryResults_reload : sigOf (reloadBytes goodStore 0) = (getR goodStore 0).cfgFrom.2.2 ∧ (reloadBytes goodStore 0).length = (getR goodStore 0).cfgFrom.2.1 := by
  have h : reloadBytes goodStore 0 = ((virtBytes badStore 1 none 0x20080 524).getD []) := by decide +kernel
  rw [h]; exact ⟨rfl, by decide +kernel⟩
/-- A rolled-back graph has its journal's bytes again; the fault that recurs stops its region. -/
theorem test_recovery : yes [leads (.rollback 0) (rolling 0 0x49 (snapOf 0 0)) (fun t => memRead (getBuf (getR t 0) 0).mem 64 == 7 && (getR t 0).journal.isEmpty && (getL t 0).any (fun y => y.phase == .rerun && y.rollbacks == 1)),
    leads (.rollback 0) (rolling 0 0x63 (snapOf 0 0)) (fun t => (getL t 0).any (fun y => y.phase == .running && y.overflow)), leads (.rollback 0) (rolling 8 0x49 (snapOf 0 0)) (fun t => (getL t 0).any (fun y => y.phase == .dredging)),
    leads (.rerunFaultStop 0 0) again (fun t => (getH t 0).delivered.map (fun d => (d.cls, d.code, d.arg)) == [(1, 6, 1)] && (getL t 0).any (fun y => y.recurred && y.hits.isEmpty)),
    leads (.fatalEnd 0) (dredging 0 0 []) (fun t => (getR t 0).launch.isNone && t.dredges.isEmpty && (getL t 0).any (fun y => y.phase == .ended)),
    leads (.stillwaterHang 0) (stuck 0 false 3) (fun t => (getR t 0).hung && (getR t 0).hungAt == 3 && (getH t 0).delivered.map (·.code) == [0x4A]),
    leads (.sendring 0) (ringed 100000) (fun t => (getH t 0).sendAbort.isSome && (getH t 0).delivered.map (fun d => (d.code, d.arg)) == [(0x4B, 2)]), leads (.sendring 0) (ringed 99999) (fun t => (getH t 0).delivered.isEmpty),
    leads (.hangesc 0) (stuck 1 true 10000000) (fun t => (getL t 0).any (fun y => y.phase == .waiting && y.place.isEmpty)),
    leads (.cfgStoreError 0 false 64) (stuck 0 false 0) (fun t => (getR t 0).frozen && (getR t 0).cfgErr == some 64)] = true := by decide +kernel

/-- Element 3 of region 0 in a running launch, with tokens on their way. -/
def mesh (f : Node → Node) (ls : List Link) : State :=
  { fleet { mine with elems := [(3, { Elem.reset with ctxs := [(0, f Node.reset)] })] } [(0, live .running [0])] with links := ls, agent := .elem 0 3 0 0 }
/-- A destination entry for a channel of an element. -/
def toward (e ch : Nat) : W64 := BitVec.ofNat 64 (2 ^ 44 + e * 2 ^ 47 + ch * 2 ^ 45)
/-- Output 0 holds a token for i1 of the element itself. -/
def sending : State :=
  mesh (fun n => setPort (setPair n 1 { nodePair n 1 with ctxset := 1, fmtmask := 0xFF }) 0 { nodePort n 0 with dests := [toward 3 1], queue := [⟨tok 0 0 0 0 1 6 [5], [(toward 3 1, tok 0 0 0 0 1 6 [5])], 6, false⟩] }) []
/-- A token of a format from output 0 of the element, on its way to a channel of an element. -/
def link (e ch fmt : Nat) : Link := ⟨⟨0, 3, 0, 0⟩, ⟨0, e, 0, ch⟩, tok 0 fmt 0 0 1 6 [5]⟩
/-- It comes to i1 of the element, which takes FP32 only. -/
def arriving (fmt : Nat) (conv : Option (Nat × Nat)) : State := mesh (fun n => setPair n 1 { nodePair n 1 with ctxset := 1, fmtmask := 1, conv := conv }) [link 3 1 fmt]
/-- Its conversion node, element 3 itself, sends it back. -/
def returning (fmt : Nat) : State :=
  mesh (fun n => setPair n 1 { nodePair n 1 with ctxset := 1, fmtmask := 1, conv := some (3, 0), queue := [⟨tok 0 2 0 0 1 6 [9], true, false, false⟩] }) [link 3 1 fmt]
/-- A chain of two hops of reach edges, and what waits at its hops. -/
def chained (ps : List Partial) : State :=
  let s := mesh id []
  { s with launches := s.launches.map (fun e => (e.1, { e.2 with chains := [BitVec.ofNat 512 (2 + (toward 3 1).toNat * 2 ^ 64)], partials := ps })) }
def part0 (hop : Nat) (inc : Bool) (x : Nat) : Partial := (0, hop, inc, ⟨0, 3, 0, 0⟩, tok 0 0 0 0 1 6 [x])

theorem witness_FabricEvents : yes [regionSends sending 0, !ebbSaved sending 0 (savedAt sending 0 3), (nodePort (getN sending 0 3 0) 0).debt.isNone, (pickCopy sending ⟨0, 3, 0, 0⟩ (copyList sending 0 (nodePort (getN sending 0 3 0) 0).queue) []).isSome,
    linkOf (mesh id [link 257 0 0]) ⟨0, 257, 0, 0⟩ == some (link 257 0 0), graphMoves (mesh id []) 0, !isCutMarker (link 257 0 0).tok, linkOf (mesh id [link 3 0 0]) ⟨0, 3, 0, 0⟩ == some (link 3 0 0), linkOf (mesh id [link 256 3 0]) ⟨0, 256, 0, 3⟩ == some (link 256 3 0), (pairOf (mesh id []) 0 3 0 0).isNone,
    linkOf (arriving 2 none) ⟨0, 3, 0, 1⟩ == some (link 3 1 2), pairOf (arriving 2 none) 0 3 1 0 == some 0, wrongFmt (nodePair (getN (arriving 2 none) 0 3 0) 1) (link 3 1 2).tok, !wrongFmt (nodePair (getN (arriving 2 none) 0 3 0) 1) (link 3 1 0).tok,
    !isReturn (nodePair (getN (arriving 2 (some (4, 0))) 0 3 0) 1) 0 ⟨0, 3, 0, 0⟩, isReturn (nodePair (getN (returning 0) 0 3 0) 1) 0 ⟨0, 3, 0, 0⟩, graphRuns (returning 0) 0, wrongFmt (nodePair (getN (returning 2) 0 3 0) 1) (link 3 1 2).tok,
    (getL (chained [part0 0 false 1]) 0).any (fun x => launchMoves x && hopGidx (chainHop (x.chains.getD 0 0) 0) == launchGidx x && hopUp (chained []) (chainHop (x.chains.getD 0 0) 0) && chainHops (x.chains.getD 0 0) == 2), chainPairs (part0 1 true 1) (part0 1 false 2),
    leads (.tokenSend ⟨0, 3, 0, 0⟩) sending (fun t => t.links == [link 3 1 0] && (nodePort (getN t 0 3 0) 0).queue.isEmpty), leads (.tokenArrival ⟨0, 3, 0, 1⟩) (arriving 0 none) (fun t => t.links.isEmpty && ((nodePair (getN t 0 3 0) 1).queue.map (·.tok)) == [tok 0 0 0 0 1 6 [5]]),
    leads (.tokenArrival ⟨0, 3, 0, 1⟩) (arriving 2 (some (4, 2))) (fun t => t.links.map (fun l => (l.src, l.dst)) == [(⟨0, 3, 0, 1⟩, ⟨0, 4, 0, 2⟩)] && (nodePair (getN t 0 3 0) 1).queue.map (·.away) == [true]),
    leads (.tokenArrival ⟨0, 257, 0, 0⟩) (mesh id [link 257 0 0]) (fun t => (getR t 0).mmq == [tok 0 0 0 0 1 6 [5]]),
    leads (.conversionReturn ⟨0, 3, 0, 1⟩) (returning 0) (fun t => (nodePair (getN t 0 3 0) 1).queue == [⟨tok 0 0 0 0 1 6 [5], false, false, true⟩]),
    leads (.chainHopAdd 0 0 0) (chained [part0 0 false 7]) (fun t => (getL t 0).any (fun x => x.partials == [(0, 1, true, ⟨0, 258, 0, 0⟩, tok 0 0 0 0 1 6 [7])])),
    leads (.chainHopAdd 0 0 1) (chained [part0 1 true 0x3F800000, part0 1 false 0x40000000]) (fun t => t.links == [⟨⟨0, 258, 0, 1⟩, ⟨0, 3, 0, 1⟩, tok 0 0 0 0 1 6 [0x40400000]⟩] && (getL t 0).any (fun x => x.partials.isEmpty))] = true := by decide +kernel

/-- Region 0 alone, changed. -/
def alone (f : Region → Region) : State := fleet (f Region.reset) []
/-- A notice queue of four entries with CONS 1 and PROD 3. -/
def noticed : State :=
  let s := alone id
  { s with hbm := memPutNat (memPutNat s.hbm 0x70000 8 3) 0x70008 8 1, parts := s.parts.map (fun e => (e.1, { e.2 with nqFull := true, areas := [(0, 0, 0), (0, 0, 0), (0, 0, 0), (0, 0, 0), (0x70000, 0x70000, 4)] })) }
/-- 50 µs after a governor's last decision, with the cycles it has counted, its clock code and its sensor. -/
def governed (x : Nat × Nat × Nat × Nat) (clock : BitVec 3) : State :=
  { alone (fun g => { g with govCycles := x, clock := clock }) with now := 50000 }
/-- Launch 0's chain has an Ethernet hop at port 2. -/
def crossed (up : Bool) (now : Nat) : State :=
  let s := fleet mine [(0, { live .running [0] with chains := [BitVec.ofNat 512 (2 + (2 ^ 9 + 1) * 2 ^ 128)], chainSince := if up then [] else [(2, 0)] })]
  { s with now := now, ports := [(2, ⟨up, 0, 0, 0, false⟩)] }
/-- Launch 0 asks again whether it may move. -/
def reposting (temp now : Nat) (own : Region → Region) : State := { fleet (own { mine with temperature := temp }) [(0, { live .running [0] with repost := some 100 })] with now := now }
/-- Partition 1 has region 1 too, which is cool. -/
def roomy (temp : Nat) : State := let s := reposting temp 100 id; { s with parts := s.parts.map (fun e => (e.1, { e.2 with regions := 3 })) }

theorem witness_DeviceEvents : yes [(getH (alone (fun g => { g with helm := { g.helm with armed := true } })) 0).armed, (getH (alone (fun g => { g with helm := { g.helm with armed := true } })) 0).timer == 0, !(getH (alone id) 0).armed,
    (getR (alone (fun g => { g with waking := 2 })) 0).waking.getLsbD 1, !(getR (alone id) 0).rwoff, (getR (alone (fun g => { g with sinceWheel := 4096 })) 0).sinceWheel == 4096, Bits.nat (getR (alone (fun g => { g with obsctl := 3 * 2 ^ 32, sinceSample := 8 })) 0).obsctl 39 32 == 3,
    (areaOf (getP noticed 1) 4).2.2 == 4, memNat noticed.hbm 0x70008 8 == 1, memNat noticed.hbm 0x70000 8 == 3, memWf noticed.hbm, (getR (alone (fun g => { g with stopReq := [(4, 9, 3, 1, 2)] })) 0).stopReq.length == 1,
    populated 0x1000, !populated (80 * 2 ^ 30), (alone id).pcs.isEmpty, !(alone id).booted, { alone id with booted := true }.booted, crossing (crossed true 0) 2 == [0], launchMoves (live .running [0]), (aGet EthPort.reset (crossed true 0).ports 2).up, !(aGet EthPort.reset (crossed false 0).ports 2).up,
    (getL (crossed false 100000000) 0).any (fun x => isPlaced x && crosses x 2 && x.phase == .running), !(getR (alone id) 0).gfix, !isPrec (getR (alone id) 0), (launchOf (crossed true 0) 0).isSome,
    (getL (reposting 95 99 id) 0).any (fun x => x.repost == some 100), (getR (reposting 94 100 id) 0).temperature == 94, coolPlace (roomy 95) 0 (live .running [0]), !coolPlace (reposting 95 100 id) 0 (live .running [0]), cuttable (live .running [0]),
    retireDue (alone (fun g => { g with cfgErrTimes := [1, 3600000000001] }) |> (getR · 0)), !retireDue (alone (fun g => { g with cfgErrTimes := [1, 3600000000002] }) |> (getR · 0)), (launchOf (alone id) 0).isNone, sparesUsed { alone id with spares := [(0, 0), (1, 1), (2, 2), (3, 3)] } 0 == 4] = true := by decide +kernel
/-- What the device does of itself. -/
theorem test_device : yes [leads (.helmTimerExpiry 0) (alone (fun g => { g with helm := { g.helm with armed := true } })) (fun t => (getH t 0).status == 0x200 && !(getH t 0).armed),
    leads (.bankWakeEnd 0 1 false) (alone (fun g => { g with waking := 6 })) (fun t => (getR t 0).waking == 4 && (getR t 0).bgate == 2), leads (.noticeConsWrite 1 3) noticed (fun t => memNat t.hbm 0x70008 8 == 3 && !(getP t 1).nqFull),
    leads (.wheelRewrite 0) (alone (fun g => { g with sinceWheel := 4096, elems := [(3, { Elem.reset with ctxs := [(1, { Node.reset with slots := [(0, 0)] })] })] })) (fun t => (getR t 0).nextWheel == some 0x1111111111111111),
    leads (.rowspare 0x1000) (alone id) (fun t => t == alone id),
    leads (.linkdown 2) (crossed true 5) (fun t => !(aGet EthPort.reset t.ports 2).up && (getL t 0).any (fun x => x.phase == .rolling && x.fault == some 0x50)), leads (.chaindownTimeout 2 0) (crossed false 100000000) (fun t => t.dredges == [0]), leads (.chaindownTimeout 2 0) (crossed false 99999999) (fun t => t.dredges.isEmpty),
    leads (.governorDecision 0 2 0 80) (governed (4, 2, 10, 0) 6) (fun t => (getR t 0).clock == 5), leads (.governorDecision 0 2 1 89) (governed (4, 2, 4, 1) 0) (fun t => (getR t 0).clock == 1), leads (.governorDecision 0 0 1 90) (governed (0, 0, 4, 1) 0) (fun t => (getR t 0).clock == 0),
    leads (.governorDecision 0 2 1 89) { governed (4, 2, 4, 1) 0 with now := 49999 } (fun t => (getR t 0).clock == 0), leads (.governorDecision 0 3 1 89) (governed (4, 2, 4, 1) 0) (fun t => t == governed (4, 2, 4, 1) 0), leads (.governorDecision 0 0 0 105) (crossed true 50000) (fun t => t.dredges == [0] && (getR t 0).tripped), leads (.thermalRepost 0) (roomy 95) (fun t => (getL t 0).any (fun x => x.thermal && x.wantEbb)), leads (.thermalRepost 0) (reposting 95 100 id) (fun t => (getL t 0).any (fun x => x.repost == some 10000100)),
    leads (.retire 0) (alone (fun g => { g with cfgErrTimes := [1, 2] })) (fun t => t.spares == [(0, 0)] && (getR t 0).cfgErrTimes.isEmpty)] = true := by decide +kernel

/-! ## The machine -/

/-- Helm core 0 executes a word at its PC, its turn comes, and so does that of element 3, which holds the word in slot 2. -/
def turning (w : W32) (pc : Nat) (ts : List Turn) (f : Helm → Helm) : State :=
  let s := fleet { mine with wheel := 0, helm := f { mine.helm with pc := BitVec.ofNat 20 pc, text := memWriteN [] 512 (bytesOfWord w), textEnd := 516 },
                             elems := [(3, { Elem.reset with ctxs := [(0, { Node.reset with slots := [(2, w)] })] })] } [(0, live .running [0])]
  { s with todo := ts }
theorem witness_StepRunsDecoded : yes [helmRuns (turning 0x00000000 512 [.helm 0] id) 0, !trapDue (getH (turning 0 512 [] id) 0), decodeWord (fieldsWord 0 0 28 28 28 0) |>.isOk, !(decodeWord 0x00BC0000 |>.isOk), pcValid (getH (turning 0x00BC0000 512 [.helm 0] id) 0),
    fetchWord (getH (turning 0x00BC0000 512 [.helm 0] id) 0) == 0x00BC0000, BitVec.ofNat 32 (memNat (getH (turning 0x73CE0 512 [] id) 0).text 512 4) == 0x73CE0, !pcValid (getH (turning 0 516 [] id) 0), !pcValid (getH (turning 0 511 [] id) 0), pcValid (getH (turning 0 512 [] id) 0),
    trapDue (getH (turning 0 512 [] (fun h => { h with status := 1, trapvec := 1024, delivered := [⟨2, 1, 0x49, 3, 9⟩] })) 0), !helmRuns (turning 0 512 [.helm 0] (fun h => { h with halted := true })) 0,
    wheelCtx (getR (turning 0x73CE0 512 [] id) 0) == 0, regionFires (turning 0x73CE0 512 [] id) 0, !ebbSaved (turning 0x73CE0 512 [] id) 0 (getE (turning 0x73CE0 512 [] id) 0 3).saved, !(getE (turning 0x73CE0 512 [] id) 0 3).fired, (getN (turning 0x73CE0 512 [] id) 0 3 0).held.isNone,
    !isPrec (getR (turning 0x73CE0 512 [] id) 0), chooseSlot (getE (turning 0x73CE0 512 [] id) 0 3) (getN (turning 0x73CE0 512 [] id) 0 3 0) == some 2, slotWord (getN (turning 0x73CE0 512 [] id) 0 3 0) 2 == 0x73CE0,
    (staticFault true (fieldsWord 63 0 28 28 28 0)).isNone, !(trigHere (turning 0 512 [] id) 63).2, issuesB (.nop 0) (turning 0 512 [] id),
    (match step (turning 0x73CE0 512 [.helm 0] id) with | .next t => (getH t 0).pc == 516 && t.todo.isEmpty | _ => false),
    (match step (turning 0x73CE0 512 [.elem 0 3] id) with | .next t => (getE t 0 3).fired && (getN t 0 3 0).rr == 3 | _ => false)] = true := by decide +kernel
/-- The three buffers are all there are. -/
theorem bufsWf_of (g : Region) (h : (List.range 3).all (fun k => memWf (vGet Buf.reset g.bufs k).mem) = true) : bufsWf g := by
  intro k
  by_cases hk : k < 3
  · exact List.all_eq_true.1 h k (List.mem_range.2 hk)
  · rw [vGet, dif_neg hk]; rfl
theorem witness_StepKeepsMemory : memoryKept (turning 0x73CE0 512 [.helm 0] id) ∧ ∃ t, Sys2Proof.Machine.StepsTo (turning 0x73CE0 512 [.helm 0] id) t := by
  refine ⟨⟨by decide +kernel, by decide +kernel, fun e he => ?_, fun e he => ?_⟩, ?_⟩
  · cases List.mem_singleton.1 he
    exact bufsWf_of _ (by decide +kernel)
  · cases List.mem_singleton.1 he
    exact ⟨fun c h => by (change none = some c at h; cases h), fun c h => by (change none = some c at h; cases h)⟩
  · have h : (match step (turning 0x73CE0 512 [.helm 0] id) with | .next _ => true | _ => false) = true := by decide +kernel
    unfold Sys2Proof.Machine.StepsTo
    revert h
    cases step (turning 0x73CE0 512 [.helm 0] id) <;> simp
theorem witness_DecodeEncode : (Instr.add 3 8 9 10 6).wf = true ∧ encode (.add 3 8 9 10 6) = some (fieldsWord 3 4 8 9 10 6) ∧ (Instr.br 0 0x3FFFF).wf = true ∧ (encode (.br 0 0x3FFFF)).isSome = true := by decide +kernel

/-! ## Further clauses -/

/-- A launch's two cores, the first with other scalars. -/
def pairS (l : List Nat) : State :=
  let s := pair id
  setH s 0 { getH s 0 with node := { (getH s 0).node with regs := setV (sregs l) 0 (vec [11]) } }
/-- R322, R390: each form has a target, a full and a halted one, and none; RECVM on an empty queue. -/
theorem witness_MessageResults_forms : yes [coreOf (pair id) 0 1 == some 8, coreOf (pair id) 0 2 == none, issuesB (.sendmt 0 8 0 9) (pair id),
    issuesB (.sendmt 0 8 0 9) (pair (fun h => { h with recv := List.replicate 64 0 })), issuesB (.sendmt 0 8 0 9) (pair (fun h => { h with halted := true })),
    issuesB (.sendm 0 0 9) (pairS [0, 2]), issuesB (.sendmt 0 8 0 9) (pairS [0, 256]), issuesB (.recvm 0 0) (core id),
    leads (.sendm 0 0 9) (pair (fun h => { h with halted := true })) (fun t => t == retire (.sendm 0 0 9) (pair (fun h => { h with halted := true })) (here (pair id))),
    leads (.sendm 0 0 9) (pair (fun h => { h with recv := List.replicate 64 0 })) (fun t => (getH t 0).wait == .msgSend && (getH t 0).pc == (getH (pair id) 0).pc),
    leads (.sendm 0 0 9) (pairS [0, 2]) (fun t => t == faultHere (pairS [0, 2]) ⟨0x28, 0, 2, 0⟩), leads (.sendmt 0 8 0 9) (pairS [0, 256]) (fun t => t == faultHere (pairS [0, 256]) ⟨0x28, 0, 256, 0⟩),
    leads (.sendm 0 0 9) (pairS [0, 0]) (fun t => (getH t 0).recv.length == 1),
    leads (.recvm 0 0) (core id) (fun t => (getH t 0).wait == .msgRecv && (getH t 0).pc == (getH (core id) 0).pc)] = true := by decide +kernel

/-- Output 1 of an element that has been asked for times 0 to 9 of CTX 0, which has a state class, is asked again. -/
def asked (cls : BitVec 3) (d : Demand) (f : Port → Port) : State :=
  { elem (fun n => setPort { n with classes := [(0, ⟨cls, 2, 0, 4, 0⟩)] } 1 (f { nodePort n 1 with dset := [[⟨0, 9, 1, 0⟩]] })) with dlinks := [⟨⟨0, 5, 0, 0⟩, ⟨0, 0, 0, 1⟩, d, 0⟩] }
/-- The demand set of that output after the arrival. -/
def asks (i : Instr) (s : State) : List (List Ival) := res i s [] (fun t => (nodePort (here t) 1).dset)
/-- R53, R60, R61: no class; HISTORY below W; a bound port and an ended one; SEED restarts from the checkpoint of time 0. -/
theorem witness_DemandResults_classes : yes [(classExtend (here (asked 1 ⟨3, 12, 1, 0, 0, false⟩ id)) [] [⟨0, 9, 1, 0⟩] ⟨3, 12, 1, 0⟩).isOk, asks (.demandArrival ⟨0, 0, 0, 1⟩) (asked 1 ⟨3, 12, 1, 0, 0, false⟩ id) == [[⟨0, 12, 1, 0⟩]],
    asks (.demandArrival ⟨0, 0, 0, 1⟩) (asked 2 ⟨1, 3, 1, 0, 0, false⟩ id) == [[⟨0, 9, 1, 0⟩]], (match classExtend (here (asked 2 ⟨1, 3, 1, 0, 0, false⟩ id)) [] [⟨0, 9, 1, 0⟩] ⟨1, 3, 1, 0⟩ with | .ok none => true | _ => false),
    asks (.demandArrival ⟨0, 0, 0, 1⟩) (asked 3 ⟨1, 12, 1, 0, 0, false⟩ (fun p => { p with spb := some 0 })) == [[⟨0, 12, 1, 0⟩]], asks (.demandArrival ⟨0, 0, 0, 1⟩) (asked 3 ⟨1, 12, 1, 0, 0, false⟩ (fun p => { p with ended := true })) == [[⟨0, 12, 1, 0⟩]],
    (match classExtend (here (asked 3 ⟨1, 12, 1, 0, 0, false⟩ id)) [] [⟨0, 9, 1, 0⟩] ⟨1, 12, 1, 0⟩ with | .ok (some (_, _, some c)) => c == 0 | _ => false),
    asks (.demandArrival ⟨0, 0, 0, 1⟩) (asked 3 ⟨1, 12, 1, 0, 0, false⟩ id) == [[⟨1, 12, 1, 0⟩]]] = true := by decide +kernel

/-- R209: OBSCTL as a whole, with an allowed and a refused period. -/
theorem witness_HeadwaterWrites_whole : yes [graphOf (withS []) 0 == [0], leads (.registerWrite 0 0x21 0xC0000000F) (withS []) (fun t => (getR t 0).obsctl == 0xC0000000E),
    leads (.registerWrite 0 0x21 0x90000000F) (withS []) (fun t => t == withS [])] = true := by decide +kernel

/-- R71, R210: a long operation in flight meets a breakpoint at once; it completes in a later cycle only. -/
theorem witness_HeldOperations_breaks : yes [leads (.mul 0 8 9 10 0) (elem (fun n => { n with regs := sregs [0, 3, 4] })) (fun t => (here t).flight.isSome && getS (here t).regs 0 == 0),
    leads (.mul 0 8 9 10 0) (setR (elem id) 0 { getR (elem id) 0 with obsbk := vSet Region.reset.obsbk 0 0xFFFFF000 }) (fun t => (getR t 0).stopReq == [(0, 0, 0, 0, 0)]),
    leads (.operationComplete 0 0 0) (setE (flying none) 0 0 { getE (flying none) 0 0 with fired := true }) (fun t => (here t).flight.isSome)] = true := by decide +kernel

/-- R292, R295: a step of a command of two, its last one, a command of none, and a refused one. -/
theorem witness_MatrixResults_steps : yes [mmSteps (mmcmdTok (2 ^ 28) 0 2) == 2, mmSteps (mmcmdTok (2 ^ 28) 0 0) == 0, (mmReadTest (matrix [mmcmdTok (2 ^ 28) 0 2] id) 0 (mmStepReads (getR (matrix [] id) 0) (mmcmdTok (2 ^ 28) 0 2))).isNone,
    mmRefused (getR (matrix [] id) 0) false (mmcmdTok (2 ^ 28 + 1) 0 2) == some 1, (mmRefused (getR (matrix [] id) 0) false (mmcmdTok (2 ^ 28) 0 0)).isNone,
    leads (.matrixMma 0) (matrix [mmcmdTok (2 ^ 28) 0 2] id) (fun t => (getR t 0).mmAt == 1 && (getR t 0).mmq.length == 1 && (getR t 0).mmaCount == 3 && accGet (getR t 0) 0 0 == 0x40000000 && accGet (getR t 0) 8 0 == 9),
    leads (.matrixMma 0) (matrix [mmcmdTok (2 ^ 28) 0 2] (fun g => { g with mmAt := 1 })) (fun t => (getR t 0).mmAt == 0 && (getR t 0).mmq.isEmpty && (getR t 0).mmaCount == 4),
    leads (.matrixMma 0) (matrix [mmcmdTok (2 ^ 28) 0 0] id) (fun t => (getR t 0).mmq.isEmpty && (getR t 0).mmaCount == 4 && accGet (getR t 0) 0 0 == 0 && accGet (getR t 0) 8 0 == 9),
    leads (.matrixMma 0) (matrix [mmcmdTok (2 ^ 28 + 1) 0 2] id) (fun t => t == elemFault { matrix [mmcmdTok (2 ^ 28 + 1) 0 2] id with agent := mmAgent 0 } (mmAgent 0) ⟨0x25, 1, 2 ^ 28 + 1, (mmcmdTok 0 0 0).hdr⟩)] = true := by decide +kernel

/-- A core's request that its engine holds. -/
def queuedReq : Outstanding := ⟨wordOf (.ldg 0 10 8 28), 0x10000, 0, 0, 99, none, true, [], []⟩
/-- R262, R287, R377: a helm core's request is held, and the core goes on. -/
def heldB (i : Instr) (s : State) : Bool :=
  issuesB i s && leads i s (fun t => match (getH t 0).outstanding.drop (getH s 0).outstanding.length with
    | [o] => o.word == wordOf i && o.queued && o.failed.isNone && (getH t 0).pc == (getH s 0).pc + 4 && (here t).regs == (here s).regs
    | _ => false)
/-- Something else stands before it at the cutter and the KV unit of region 0. -/
def behind (k : Nat) (s : State) : State :=
  let s := setE s 0 3 { Elem.reset with ctxs := [(0, { Node.reset with held := some 2 })] }
  setR s 0 { getR s 0 with unitQ := [(k, .elem 0 3 0 2)] }
theorem witness_held_requests : yes [heldB (.ldg 0 9 8 28) (paged false [] [0x10000] (fun h => { h with outstanding := [queuedReq] })), heldB (.stg 0 9 8 28) (paged false [] [0x10000] (fun h => { h with outstanding := [queuedReq] })),
    heldB (.ldg 0 9 8 28) (paged false [] [2 ^ 31] id), heldB (.stg 0 9 8 28) (paged false [] [2 ^ 31] id), engineHolds (paged false [] [0x10000] (fun h => { h with outstanding := [queuedReq] })), !(xlate (paged false [] [2 ^ 31] id) 1 (2 ^ 31) 0 |>.isOk),
    heldB (.cutRows 0 28 8 9) (behind 0 (cutter 2 0 false false)), heldB (.cutr 0 28 8) (behind 0 (cutter 2 0 false false)), unitAhead (behind 0 (cutter 2 0 false false)) 0 0, !unitAhead (cutter 2 0 false false) 0 0,
    heldB (.kvapp 0 10 8) (behind 1 (kv 0 0)), !engineHolds (kv 0 0), (getR (kv 0 0) 0).kvUndo.isNone, !cutPending (cutter 2 0 false false),
    leads (.cutb 0 8 0) (behind 0 (cutter 2 0 false false)) (fun t => (here t).regs == (here (cutter 2 0 false false)).regs && (getH t 0).wait == .unit)] = true := by decide +kernel

/-- R87, R347: a CPYQ waits for an earlier deferred read of its core whose word it copies. -/
def fromWord (off : Nat) : Copy := ⟨BitVec.ofNat 512 (4 * 2 ^ 32 + 0x100000 + off), 0, 0, 0, 0xB1, 2, 4, [], false⟩
theorem witness_CopyResults_own : [ownReads (withW [] [] []) 0 (fromWord 64),
    ownReads { withW [] [] [] with arms := [⟨.helm 0, .read, 1, false, 64, 0, 0, 0, 0, [(0, 64)], [], [], none⟩] } 0 (fromWord 64),
    ownReads { withW [] [] [] with arms := [⟨.helm 0, .read, 1, false, 64, 0, 0, 0, 0, [(0, 64)], [], [], none⟩] } 0 (fromWord 68)] = [[], [64], []] := by decide +kernel

/-- R110, R355: a core that has halted waits for its markers in the closing cut too; a port whose binding has ended still injects its marker. -/
theorem witness_CutResults_closing : yes [helmReadyToSave (cutting 1 id) 0, !helmReadyToSave (cutting 1 (fun g => { g with helm := { g.helm with halted := true, node := sinkNode [] [] g.helm.node } })) 0, hasEngine { Port.reset with ended := true }, !hasEngine Port.reset,
    leads (.sourceMarkerInject ⟨0, 256, 0, 0⟩) (let s := marking; setH s 0 { getH s 0 with node := setPort (here s) 0 { nodePort (here s) 0 with spb := none, ended := true } }) (fun t => (nodePort (here t) 0).cutHold)] = true := by decide +kernel

/-- A ROD connection. -/
def onRodConn (f : Conn → Conn) : State := hosted id (fun c => f { c with rod := true }) id
/-- R19, R20: on ROD a message behind a held one waits, one that the ring cannot take is held and then goes first, and credit
passes it. -/
theorem witness_ConnectionMessages_rod : yes [behindHeld (getC (onRodConn (fun c => { c with held := some 6 })) 0) .fenceRead (fence 0 0x30000 0), ringHolds (getC (onRodConn (fun c => { c with free := 0 })) 0) .fenceRead,
    leads (.fenceRead (fence 0 0x30000 0)) (onRodConn (fun c => { c with held := some 6 })) (fun t => t == onRodConn (fun c => { c with held := some 6 })),
    leads (.fenceRead (fence 0 0x30000 0)) (onRodConn (fun c => { c with free := 0 })) (fun t => (getC t 0).held == some 7 && t.host.isEmpty),
    leads (.fenceRead (fence 0 0x30000 0)) (onRodConn (fun c => { c with held := some 7 })) (fun t => (getC t 0).held.isNone && (getC t 0).last == some 7 && firstComp t == [0, (1 + 2 ^ 8 + 2 ^ 32), 9, 1]),
    leads (.helloCredit (msg false 1 64 (1 + 3 * 2 ^ 256))) (onRodConn (fun c => { c with free := 0, held := some 6 })) (fun t => (getC t 0).free == 3 && (getC t 0).held == some 6 && (getC t 0).last.isNone)] = true := by decide +kernel
/-- A deferred read under the translation of a page keeps a MAP of it back (R128). -/
theorem witness_HostMessages_old : yes [!oldUsed plain 1 0 (2 ^ 30), oldUsed { plain with arms := [⟨.helm 0, .read, 3, false, 64, 0, 0, 0, 0, [(0, 64)], [], [], none⟩], regions := [(0, { Region.reset with launch := some 0 })], launches := [(0, job)] } 1 0 65536,
    nodeHolds (sinkNode [] [⟨3, 9, 1, 0, 0, false⟩] Node.reset), !nodeHolds (sinkNode [] [] Node.reset), ivEmpty ⟨9, 9, 1, 0⟩,
    leads (.mapUnmap (mapMsg 1 0 0 1 3 0)) (hosted (fun s => { s with arms := [⟨.helm 0, .read, 3, false, 64, 0, 0, 0, 0, [(0, 64)], [], [], none⟩], regions := [(0, { Region.reset with launch := some 0 })], launches := [(0, job)] }) (fun c => { c with rod := true }) (fun p => { p with areas := [] }))
      (fun t => (getC t 0).held == some 7 && t.host.isEmpty && (xlate t 1 0x30000 0 |>.isOk))] = true := by decide +kernel

/-- R79, R288, R335: an element's ordered operation waits until every element before it has had its turn; what the core's
engine holds is tried again at its turn. -/
theorem witness_StepRunsDecoded_ordered : yes [elemOrdered (getR (turning 0x73CE0 512 [] id) 0) (wordOf (.trace 0 8 0)), !elemOrdered (getR (turning 0x73CE0 512 [] id) 0) 0x73CE0,
    (getR (turning 0x73CE0 512 [] id) 0).ordNow == 0, retryReqs { turning 0x73CE0 512 [.helm 0] id with todo := [] } 0 == { turning 0x73CE0 512 [.helm 0] id with todo := [] }] = true := by decide +kernel

/-! ## Clauses on held, deferred and late effects -/

/-- R143: a store covers no CONS word where no notice queue is set, or away from the one that is. -/
theorem witness_offCons : offCons (paged false [] [0x10000] id) 0x10000 8 ∧ offCons noticed 0x50000 8 ∧ ¬ offCons noticed 0x70008 8 ∧ offCons (fenced 5) 0x10000 8 := by
  unfold offCons; decide +kernel

/-- R179: a word that another element of the graph has written in the same region cycle may be read as it was. -/
def raced : State :=
  let s := graph { job with raceFlag := true, raceNow := [(.elem 0 5 0 0, 0, 1, 64, 3)] } { Region.reset with elems := [(3, { Elem.reset with ctxs := [(0, { Node.reset with regs := sregs [64] })] })] }
  { s with agent := .elem 0 3 0 0 }
theorem witness_BufferLoads_race : mayRead raced 1 false 64 9 3 ∧ ¬ mayRead raced 1 true 64 9 3 ∧ mayRead raced 1 true 64 9 9 ∧ issuesB (.ldb 0 10 8 28 2) raced = true := by
  unfold mayRead; decide +kernel

/-- R71, R191, R244: in an element a row has its result, its trap, or a head of a type that it does not take. -/
theorem witness_HeldOperations_rows : yes [issuesB (.mul 0 8 9 10 1) (elem (fun n => { n with regs := sregs [0, 3, 4] })), issuesB (.mul 0 0 1 2 1) (elem id), issuesB (.fadd 0 8 9 10 2) (elem id), issuesB (.fadd 0 0 1 2 2) (elem id),
    issuesB (.cvt 0 0 1 0 2) (elem id), issuesB (.qnt 0 8 9 10 5) (elem id), issuesB (.cvt 0 8 9 2 0) (elem id), issuesB (.cvts 0 8 9 2 0) (elem id), issuesB (.pack 0 2 0 1 3) (elem id), issuesB (.rsum 0 2 0 2) (elem id), issuesB (.rsum 0 8 9 3) (elem id),
    issuesB (.rsum 0 8 0 2) (elem id), issuesB (.rmax 0 8 16 7) (elem (fun n => onCh 0 (tok 0 7 0 0 1 0 [5]) n)),
    (match effTy (here (elem (fun n => onCh 0 (tok 0 7 0 0 1 0 [5]) n))) 0x30 16 7 with | .error _ => true | .ok _ => false),
    (match effTy (here (elem id)) 0x30 0 2 with | .ok ty => ty == 2 | .error _ => false),
    leads (.fadd 0 8 9 10 2) (elem (fun n => { n with regs := { sregs [0, 0x7F800000, 0xFF800000] with fp := 0x1F00 } })) (fun t => (here t).flight.any (fun f => f.trap.isSome)),
    leads (.mul 0 8 9 10 1) (elem (fun n => { n with regs := sregs [0, 3, 4] })) (fun t => (here t).flight.any (fun f => f.trap.isNone && getS f.fire.regs 0 == 12))] = true := by decide +kernel

/-- R123, R209, R324, R398: hs.still, the bank gates, OBSCTL, a breakpoint word and a matrix register, by CSRW. -/
theorem witness_CsrWrites_more : yes [leads (.csrw 0 8 9) (setR (inGraph [5] id) 0 { getR (inGraph [5] id) 0 with hung := true, still := 7 }) (fun t => (getH t 0).stillLimit == 5 && !(getR t 0).hung && (getR t 0).still == 0),
    leads (.csrw 0 8 0x20) (inGraph [5] id) (fun t => (getR t 0).bgate == 5), leads (.csrw 0 8 0x20) (setR (inGraph [4] id) 0 { getR (inGraph [4] id) 0 with bgate := 6 }) (fun t => (getR t 0).waking == 2),
    leads (.csrw 0 8 0x21) (inGraph [2 ^ 32 * 10 + 4] id) (fun t => (getR t 0).obsctl == 2 ^ 32 * 10 + 4), leads (.csrw 0 8 0x23) (inGraph [0xFFFFF] id) (fun t => vGet 0 (getR t 0).obsbk 1 == 0xFF000),
    leads (.csrw 0 8 0x28) (inGraph [1] id) (fun t => vGet 0 (getR t 0).mx 0 == 1), !matrixDrained (getR (matrix [mmcmdTok (2 ^ 28) 0 2] id) 0), issuesB (.csrw 0 8 0x28) { matrix [mmcmdTok (2 ^ 28) 0 2] id with agent := .helm 0 },
    issuesB (.csrw 0 8 0x20) (withS [2 ^ 48]), issuesB (.csrw 0 8 0x28) (withS [2 ^ 63])] = true := by decide +kernel
/-- R325: the selectors that name a core, a dump area, a ring, logical ids, breakpoints and matrix registers. -/
theorem witness_CsrReads_more : yes ([7, 10, 11, 0x11, 0x16, 0x23, 0x24, 0x29, 0x2A].map (fun x => issuesB (.csrr 0 8 (BitVec.ofNat 13 x)) (withS []))) = true := by decide +kernel
/-- R335: the record of a TRACE, of type 5, at cycle 0. -/
theorem witness_SystemResults_trace : leads (.trace 0 8 5) (withS [7]) (fun t => aGet 0 (getR t 0).ring 0 == 5 * 2 ^ 124 + 5 * 2 ^ 64 + 7) = true := by decide +kernel

/-- R281: a core that has found no place compares again once there is one. -/
def placeless : State :=
  let s := withW [64, 6] [(64, 7)] [64]
  { s with arms := [⟨.helm 0, .waitNe, 1, false, 64, 7, wordOf (.waitne 0 10 8 9 2), 0, 0, [], [(0, 64)], [], none⟩] }
theorem witness_WaitNotEqual_place : yes [(myArm placeless (wordOf (.waitne 0 10 8 9 2))).any (fun m => !m.more.isEmpty && m.released.isNone && m.addr == 64), placeFree placeless 1 0 64,
    leads (.waitne 0 10 8 9 2) placeless (fun t => t.arms.isEmpty && getS (here t).regs 2 == 7)] = true := by decide +kernel

/-- R283, R284: a copy done behind its core's save stays in flight, and leaves PEND after the cut. -/
def saved (d : Bool) (v : Option Nat) : State :=
  let s := flown 2
  setH s 0 { getH s 0 with saved := v, copies := (getH s 0).copies.map (fun c => { c with done := d }) }
theorem witness_CopyResults_late : yes [(wakeHold { saved false (some 1) with agent := copyAgent 0 0 } 0 (copyRows ((getH (saved false none) 0).copies.getD 0 ⟨0, 0, 0, 0, 0, 0, 0, [], false⟩))).isNone, graphRuns (saved false (some 1)) 0,
    leads (.copyComplete 0 0) (saved false (some 1)) (fun t => (getH t 0).copies.map (·.done) == [true] && memNat (getBuf (getR t 0) 1).mem 0x20000 4 == 7 && memNat (getBuf (getR t 0) 1).mem 0x100 16 == 8 * 2 ^ 72 + 2 ^ 32),
    leads (.copyComplete 0 0) (saved true none) (fun t => (getH t 0).copies.isEmpty && memNat (getBuf (getR t 0) 1).mem 0x20000 4 == 0 && memNat (getBuf (getR t 0) 1).mem 0x100 16 == 2 ^ 32)] = true := by decide +kernel

/-- R389: a request whose refusal would withhold its trigger's action keeps its core. -/
def setting : State := let s := behind 0 (cutter 2 0 false false); setH s 0 { getH s 0 with trig := [(20, 2 ^ 24)] }
theorem witness_CutterResults_stands : yes [bareHere (behind 0 (cutter 2 0 false false)) (wordOf (.cutRows 0 28 8 9)), !bareHere setting (wordOf (.cutRows 20 28 8 9)),
    leads (.cutRows 20 28 8 9) setting (fun t => (getH t 0).wait == .unit && (getH t 0).outstanding.isEmpty)] = true := by decide +kernel

/-! ## Clauses on demand -/

/-- R53 to R57: mapping, reduction, union and service have their hypotheses met. -/
theorem witness_DemandResults_sets : yes [rtfBad (BitVec.ofNat 128 (2 ^ 125 + 2 ^ 106 + 2 ^ 90)) == false, rtfMap (BitVec.ofNat 128 (2 ^ 125 + 2 * 2 ^ 106 + 2 ^ 90)) 0 ⟨3, 6, 1, 0⟩ == some ⟨6, 11, 2, 0⟩, rtfMap 0 2 ⟨3, 6, 1, 0⟩ == some ⟨1, 6, 1, 0⟩,
    ivReduce [⟨0, 4, 1, 0⟩] [⟨2, 8, 1, 0⟩] == [⟨4, 8, 1, 0⟩], reduceAt { Pair.reset with served := [⟨0, 4, 1, 0⟩] } 2 ⟨2, 8, 1, 0⟩ == [⟨2, 8, 1, 0⟩], reduceAt { Pair.reset with served := [⟨0, 4, 1, 0⟩], recent := [(0, [3, 2])] } 2 ⟨2, 8, 1, 0⟩ == [⟨4, 8, 1, 0⟩],
    ivAdd [⟨0, 4, 1, 0⟩] ⟨4, 8, 1, 0⟩ == [⟨0, 8, 1, 0⟩], (nodePair (getN (serveTime (elem (fun n => setPair n 1 { nodePair n 1 with pending := [⟨3, 9, 1, 0⟩] })) 0 0 0 1 0 3) 0 0 0) 1).pending == [⟨4, 9, 1, 0⟩]] = true := by decide +kernel
/-- R46, R55: a demand arrives where its graph moves, and the node's input forwards it; a held piece waits. -/
theorem witness_DemandResults_input : yes [graphMoves (asking []) 0, !demandStalls (asked 3 ⟨2, 12, 1, 0, 0, false⟩ id) ⟨⟨0, 5, 0, 0⟩, ⟨0, 0, 0, 1⟩, ⟨2, 12, 1, 0, 0, false⟩, 0⟩, !nodeHolds (getN (asking []) 0 256 0), nodeHolds (getN holding 0 256 0), !(getR (asking []) 0).obsctl.getLsbD 1, (nodePort (getN (asking []) 0 256 0) 1).spb.isNone,
    (ivAdd (nodePair (getN holding 0 256 0) 0).pending ⟨3, 9, 1, 0⟩).length == 1, rtfKind (nodePair (getN (asking []) 0 256 0) 0).rtf == 0, rtfKind (BitVec.ofNat 128 (5 * 2 ^ 125)) == 5,
    (match classExtend (here (asked 3 ⟨2, 12, 1, 0, 0, false⟩ id)) [] [⟨0, 9, 1, 0⟩] ⟨2, 12, 1, 0⟩ with | .error t => t.cause == 0x42 | .ok _ => false)] = true := by decide +kernel

/-! ## Clauses on launches, messages and recovery -/

/-- No line is poisoned, or one of the image's header is. -/
theorem witness_HostMessages_poison : yes [(rcPoison plain 1 (record 0 0) true).isNone, rcPoison { plain with poison := [rcGimg (record 0 0) / 64] } 1 (record 0 0) false == some (rcGimg (record 0 0) / 64 * 64), (tablesPoison plain 1 0x40000 1 1).isNone,
    tablesPoison { plain with poison := [0x1000 / 64] } 1 0x40000 1 1 == some 0x1000, takenB { plain with poison := [rcGimg (record 0 0) / 64] } (msg false 2 256 (Bits.ofBytes (record 0 0))) .launch (some 1), (linePoison plain 0x20000 1024).isNone,
    answerOf (.launchMessage (msg false 2 256 (Bits.ofBytes (record 0 0)))) { plain with poison := [rcGimg (record 0 0) / 64] } == [6, rcGimg (record 0 0) / 64 * 64, 9, 1]] = true := by decide +kernel
/-- R441: a report can be signed or it cannot, and each has its clause. -/
theorem witness_EvidenceMessages_sign (x : List Byte) : Config.sign x = none ∨ Config.sign x ≠ none := Classical.em _

/-- R381, R436: a reset that waits shows. -/
theorem witness_PartitionMessages_wait : leads (.hangesc 0) { stuck 1 true 10000000 with dredges := [0] } (fun t => (getP t 1).resetting && (getL t 0).any (fun y => y.phase == .running)) = true := by decide +kernel

/-- R413: the newest journal entry that has an error, unless its bank is gated. -/
def scarred (gate : BitVec 48) : State := let s := rolling 0 0x49 (snapOf 0 0); setR s 0 { getR s 0 with bgate := gate, journal := [⟨0, 1, 7 :: List.replicate 63 0, 1, true⟩] }
theorem witness_RecoveryResults_journal : yes [byLid (scarred 0) (live .rolling [0]) == [0], journalError (scarred 0) [0] == some (0, 64), journalError (scarred (1 <<< bankOf 0 64)) [0] == none, !(getR (scarred 0) 0).faultNow,
    leads (.rollback 0) (scarred 0) (fun t => (getL t 0).any (fun y => y.phase == .dredging && y.fault == some 0x69))] = true := by decide +kernel
/-- R400: the first abort of a core stands for 20 ms. -/
theorem witness_RecoveryResults_again : leads (.sendring 0) (let s := ringed 200000; setH s 0 { getH s 0 with sendAbort := some (100000, 5) }) (fun t => (getH t 0).sendAbort == some (100000, 5) && (getH t 0).delivered.length == 1) = true := by decide +kernel
/-- R425: a fatal end finds an entry and a stretch of its area, or none. -/
theorem witness_RecoveryResults_image : yes [(dumpFit (dumpGaps 4194304 []) 1 1).isSome, (dumpFit (dumpGaps 0 []) 1 1).isNone,
    (dumpOf (graphFatal (let s := dredging 0x20 4194304 []; { s with dredges := [], launches := s.launches.map (fun e => (e.1, { e.2 with phase := .running })) }) 0 0x49) 0 (live .dredging [0])).any (fun d => d.num == 1 && d.off == 0x10000 && d.state == 1)] = true := by
  decide +kernel

/-- R411: a row with an uncorrectable error, or with three corrected ones in 24 hours, is spared once. -/
def worn (l : List (Bool × Nat)) : State := { alone id with hbmErrs := l.map (fun e => ⟨0x1000, e.1, e.2, false⟩) }
theorem witness_DeviceEvents_row : rowDue (worn [(false, 0)]) (rowAt 0x1000) = true ∧ rowDue (worn [(true, 0), (true, 5), (true, 9)]) (rowAt 0x1000) = true ∧
    rowDue (worn [(true, 0), (true, 5)]) (rowAt 0x1000) = false ∧ rowLeft (worn [(false, 0)]) (rowAt 0x1000) = true := by
  refine ⟨?_, ?_, ?_, ?_⟩ <;> simp [rowDue, worn, rowLeft, alone, fleet, hourNs, State.reset]
/-- R412: three rows of one pseudo-channel that have shown uncorrectable errors within an hour, where the lines lie so. -/
theorem witness_DeviceEvents_pc (h : (Config.pcOf 1 = Config.pcOf 0 ∧ Config.pcOf 2 = Config.pcOf 0)) (hr : [Config.rowOf 0, Config.rowOf 1, Config.rowOf 2].Nodup) :
    pcDue { alone id with hbmErrs := [⟨0, false, 0, false⟩, ⟨64, false, 1, false⟩, ⟨128, false, 2, false⟩] } 0 (Config.pcOf 0).toNat = true := by
  have hn : ([Config.rowOf 0, Config.rowOf 1, Config.rowOf 2].eraseDups).length = 3 := by
    simp only [List.nodup_cons, List.mem_cons, List.not_mem_nil, or_false, not_or] at hr
    simp [List.eraseDups_cons, hr.1.1, hr.1.2, hr.2.1, Ne.symm hr.1.1, Ne.symm hr.1.2, Ne.symm hr.2.1]
  simp [pcDue, inPc, rowAt, h.1, h.2, hourNs, hn]
/-- R210, R214: a stop waits for a new cycle and for what its firing has in hand. -/
theorem witness_DeviceEvents_stop : yes [cycleFresh (getR (alone id) 0), !cycleFresh { getR (alone id) 0 with firedNow := true }, (getN (alone id) 0 3 0).flight.isNone && (getN (alone id) 0 3 0).held.isNone] = true := by decide +kernel
/-- R439: the 100 ms of a graph run from when it met the port; a disabled port does not come up. -/
theorem witness_DeviceEvents_ports : yes [(getL (crossed false 100000000) 0).any (fun x => aFind x.chainSince 2 == some 0), leads (.linkup 2) (crossed false 5) (fun t => (aGet EthPort.reset t.ports 2).up && (getL t 0).any (fun x => x.chainSince.isEmpty)),
    leads (.linkup 2) { crossed false 5 with ports := [(2, ⟨false, 0, 0, 0, true⟩)] } (fun t => !(aGet EthPort.reset t.ports 2).up)] = true := by decide +kernel
/-- R431: an empty copy is never the newest. -/
theorem witness_DeviceEvents_copy : copyOk NvCopy.reset = false := by decide +kernel
/-- R61, R69: no RELOAD stands before a token where none is owed. -/
theorem witness_FabricEvents_reload : yes [(reloadFor (nodePair (getN (arriving 0 none) 0 3 0) 1) (tok 0 0 0 0 1 6 [5])).isNone, (reloadFor { Pair.reset with reload := [(⟨6, 7, 1, 0⟩, 4)] } (tok 0 0 0 0 1 6 [5])).isSome] = true := by decide +kernel

end Sys2Proof.Tests
end

section
/-!
PROOF. What the shared operations leave alone: records, a region alone, a fatal end; bits and sets.
-/

namespace Sys2Proof.Proofs

open Sys2Proof Sys2Proof.Machine Sys2Proof.Claims

/-! ## Bits of a word -/

theorem getLsbD_put_same {w : Nat} (x : BitVec w) {lo : Nat} (h : lo < w) : (Bits.put x lo 1 1).getLsbD lo = true := by
  simp only [Bits.put, Nat.pow_one, Nat.one_mod, Nat.one_mul, BitVec.getLsbD_or, BitVec.getLsbD_ofNat, Nat.testBit_two_pow]
  simp [h]

theorem getLsbD_put_other {w : Nat} (x : BitVec w) {lo k : Nat} (v : Nat) (h : k ≠ lo) :
    (Bits.put x lo 1 v).getLsbD k = x.getLsbD k := by
  have hv : (v % 2 * 2 ^ lo).testBit k = false := by
    rcases Nat.mod_two_eq_zero_or_one v with h2 | h2 <;> simp [h2, Nat.testBit_two_pow_of_ne (Ne.symm h)]
  simp only [Bits.put, BitVec.getLsbD_or, BitVec.getLsbD_and, BitVec.getLsbD_not, BitVec.getLsbD_ofNat, Nat.pow_one, hv]
  have := @BitVec.lt_of_getLsbD w x k
  simpa [Nat.testBit_two_pow, Ne.symm h] using this

/-- The mask of bank `b` holds bit `b` alone. -/
theorem getLsbD_bankMask (b k : Nat) : (BitVec.ofNat 48 (2 ^ b)).getLsbD k = (decide (k < 48) && decide (b = k)) := by
  rw [BitVec.getLsbD_ofNat, Nat.testBit_two_pow]

/-! ## Sorted sets -/

theorem setHas_setAdd (l : List Nat) (a x : Nat) : setHas (setAdd l a) x = (setHas l x || x == a) := by
  induction l with
  | nil => exact (List.contains_cons ..).trans (Bool.or_comm ..)
  | cons k l ih =>
    simp only [setHas] at ih
    unfold setAdd setHas
    split
    · subst_vars; simp only [List.contains_cons]; cases x == k <;> simp
    · split
      · simp only [List.contains_cons, Bool.or_comm]
      · simp only [List.contains_cons, ih, Bool.or_assoc]

theorem setHas_foldl_setAdd (as : List Nat) (x : Nat) : ∀ l, setHas (as.foldl setAdd l) x = (setHas l x || as.contains x) := by
  induction as with
  | nil => simp
  | cons a as ih => intro l; simp only [List.foldl_cons, ih, setHas_setAdd, List.contains_cons, Bool.or_assoc]

/-! ## Folds over the state -/

/-- What each round of a fold keeps, the fold keeps. -/
theorem foldl_keeps {σ α β : Type} (p : σ → β) {f : σ → α → σ} (h : ∀ s a, p (f s a) = p s) (l : List α) :
    ∀ s, p (l.foldl f s) = p s := by
  induction l with
  | nil => intro s; rfl
  | cons a l ih => intro s; rw [List.foldl_cons, ih, h]

/-- What holds of a region whatever is written to another, and of what is written to it, holds after the write. -/
theorem getR_setR_keeps {β : Type} (p : Region → β) {s : State} {r : Nat} {x : Region} (h : p x = p (getR s r)) (q : Nat) :
    p (getR (setR s r x) q) = p (getR s q) := by
  by_cases hq : q = r
  · subst hq; rw [getR_setR_same, h]
  · rw [getR_setR_other _ _ hq]

theorem getR_congr {s u : State} (h : u.regions = s.regions) (r : Nat) : getR u r = getR s r := by simp only [getR, h]
theorem getL_congr {s u : State} (h : u.launches = s.launches) (l : Nat) : getL u l = getL s l := by simp only [getL, h]

theorem launchOf_congr {s u : State} {r : Nat} (hl : u.launches = s.launches) (hr : (getR u r).launch = (getR s r).launch) :
    launchOf u r = launchOf s r := by
  unfold launchOf; rw [hr]; simp only [getL, hl]

/-! ## Records -/

/-- A state but for what writing records may change: the partitions, device memory with its codes and the waits on it, and the
sediment record. -/
def unwritten (s : State) : State := { s with parts := [], hbm := [], clen := [], arms := [], sediment := [], sedSeq := 0 }

/-- Two states differ by nothing but the writing of records. -/
def Recorded (s u : State) : Prop := unwritten u = unwritten s

namespace Recorded

variable {s t u : State}

theorem refl (s : State) : Recorded s s := Eq.refl _
theorem trans (h : Recorded s t) (k : Recorded t u) : Recorded s u := Eq.trans k h

/-- What does not look at them stays as it was. -/
theorem keeps {β : Type} (h : Recorded s u) (p : State → β) (hp : ∀ x, p (unwritten x) = p x) : p u = p s := by
  rw [← hp u, ← hp s, show unwritten u = unwritten s from h]

theorem regions (h : Recorded s u) : u.regions = s.regions := h.keeps State.regions fun _ => Eq.refl _
theorem launches (h : Recorded s u) : u.launches = s.launches := h.keeps State.launches fun _ => Eq.refl _
theorem dredges (h : Recorded s u) : u.dredges = s.dredges := h.keeps State.dredges fun _ => Eq.refl _
theorem poison (h : Recorded s u) : u.poison = s.poison := h.keeps State.poison fun _ => Eq.refl _
theorem hbmErrs (h : Recorded s u) : u.hbmErrs = s.hbmErrs := h.keeps State.hbmErrs fun _ => Eq.refl _
theorem rowspares (h : Recorded s u) : u.rowspares = s.rowspares := h.keeps State.rowspares fun _ => Eq.refl _
theorem pcs (h : Recorded s u) : u.pcs = s.pcs := h.keeps State.pcs fun _ => Eq.refl _
theorem ports (h : Recorded s u) : u.ports = s.ports := h.keeps State.ports fun _ => Eq.refl _
theorem nvram (h : Recorded s u) : u.nvram = s.nvram := h.keeps State.nvram fun _ => Eq.refl _
theorem nvNext (h : Recorded s u) : u.nvNext = s.nvNext := h.keeps State.nvNext fun _ => Eq.refl _
theorem spares (h : Recorded s u) : u.spares = s.spares := h.keeps State.spares fun _ => Eq.refl _
theorem getR (h : Recorded s u) (r : Nat) : getR u r = Machine.getR s r := getR_congr h.regions r
theorem getL (h : Recorded s u) (l : Nat) : getL u l = Machine.getL s l := getL_congr h.launches l
theorem launchOf (h : Recorded s u) (r : Nat) : launchOf u r = Machine.launchOf s r :=
  launchOf_congr h.launches (by rw [h.getR])

/-- A fold whose every round writes records only writes records only. -/
theorem foldl {α : Type} {f : State → α → State} (h : ∀ s a, Recorded s (f s a)) (l : List α) (s : State) :
    Recorded s (l.foldl f s) := foldl_keeps unwritten h l s

end Recorded

theorem recorded_setP (s : State) (p : Nat) (x : Partition) : Recorded s (setP s p x) := Eq.refl (unwritten s)

theorem recorded_hbmPut (s : State) (a : Nat) (bs : List Byte) : Recorded s (hbmPut s a bs) := by
  unfold hbmPut nudge recode
  dsimp only
  split <;> exact Eq.refl (unwritten s)

theorem recorded_hbmPutNat (s : State) (a n v : Nat) : Recorded s (hbmPutNat s a n v) := recorded_hbmPut ..

theorem recorded_sediment (s : State) (x : List (BitVec 256)) (n : Nat) : Recorded s { s with sediment := x, sedSeq := n } :=
  Eq.refl (unwritten s)

theorem recorded_sedimentAdd (s : State) (ltag : W64) (code cls part dev lid src : Nat) (tval : W64) :
    Recorded s (sedimentAdd s ltag code cls part dev lid src tval) := recorded_sediment ..

theorem recorded_putRec (s : State) (part : Nat) (ltag : W64) (window lid : Nat) (place : List (Nat × Nat × Nat))
    (src stack cls : Nat) (t : Trap) : Recorded s (putRec s part ltag window lid place src stack cls t) := by
  unfold putRec
  extract_lets s0 p ar w s1 s2 s3
  have h0 : Recorded s s0 := by
    simp only [s0]
    split
    · exact recorded_sedimentAdd ..
    · exact Recorded.refl s
  have h1 : Recorded s s1 := h0.trans (recorded_setP _ _ _)
  split
  · exact h1
  · exact ((h1.trans (recorded_hbmPutNat _ _ _ _)).trans (recorded_hbmPutNat _ _ _ _)).trans (recorded_setP _ _ _)

theorem recorded_partRec (s : State) (part : Nat) (ltag : W64) (window src stack cls : Nat) (t : Trap) :
    Recorded s (partRec s part ltag window src stack cls t) := recorded_putRec ..

theorem recorded_devRec (s : State) (code cls src : Nat) (tval : W64) : Recorded s (devRec s code cls src tval) :=
  recorded_sedimentAdd ..

theorem recorded_placeRec (s : State) (r e c slot : Nat) (node : W32) (src cls : Nat) (t : Trap) :
    Recorded s (placeRec s r e c slot node src cls t) := recorded_putRec ..

theorem recorded_launchRec (s : State) (l src cls : Nat) (t : Trap) : Recorded s (launchRec s l src cls t) := by
  unfold launchRec
  split
  · exact recorded_partRec ..
  · exact Recorded.refl s

/-- A fault record counts an error of a typed buffer towards its region's retirement; of any other cause it is a record alone. -/
theorem recorded_faultRec (s : State) (r e c slot src stack cls : Nat) {t : Trap} (h : t.cause ≠ 0x69) (k : t.cause ≠ 0x6B) :
    Recorded s (faultRec s r e c slot src stack cls t) := by
  have hb : bufErr s r t.cause = s := by simp [bufErr, h, k]
  unfold faultRec
  dsimp only
  rw [hb]
  exact recorded_putRec ..

theorem recorded_dieRec (s : State) (pa cls code arg : Nat) : Recorded s (dieRec s pa cls code arg) := by
  unfold dieRec
  split
  · exact recorded_partRec ..
  · exact Recorded.refl s

theorem recorded_dumpPut (s : State) (part num v : Nat) : Recorded s (dumpPut s part num v) := recorded_hbmPut ..

theorem recorded_dumpAlloc {s u : State} {l : Nat} {x : Launch} (h : dumpAlloc s l x = .ok u) : Recorded s u := by
  unfold dumpAlloc at h
  dsimp only at h
  split at h
  · cases h
  · split at h
    · cases h
    · cases h
      exact (recorded_setP _ _ _).trans (recorded_dumpPut _ _ _ _)

theorem recorded_imageError (s : State) (pa : Nat) : Recorded s (imageError s pa) := by
  refine Recorded.foldl (fun s e => ?_) _ s
  dsimp only
  split
  · split
    · exact ((recorded_setP _ _ _).trans (recorded_dumpPut _ _ _ _)).trans (recorded_launchRec _ _ _ _ _)
    · exact Recorded.refl s
  · exact Recorded.refl s

theorem recorded_tripRec (s : State) (r t : Nat) : Recorded s (tripRec s r t) := by
  unfold tripRec
  split
  · exact recorded_placeRec ..
  · exact recorded_devRec ..

/-! ## A region alone -/

/-- Every byte of memory, and every other region, is as it was. -/
def Within (s u : State) (r : Nat) : Prop := sameBytes s u ∧ elsewhere s u r

namespace Within

variable {s t u : State} {r : Nat}

theorem refl (s : State) (r : Nat) : Within s s r := ⟨⟨fun _ => rfl, fun _ => rfl, fun _ _ _ => rfl⟩, fun _ _ => rfl⟩

theorem trans (h : Within s t r) (k : Within t u r) : Within s u r := by
  obtain ⟨⟨h1, h2, h3⟩, h4⟩ := h
  obtain ⟨⟨k1, k2, k3⟩, k4⟩ := k
  exact ⟨⟨fun a => (k1 a).trans (h1 a), fun a => (k2 a).trans (h2 a), fun q b a => (k3 q b a).trans (h3 q b a)⟩,
    fun q hq => (k4 q hq).trans (h4 q hq)⟩

end Within

/-- A write of a region that keeps its typed buffers stays within it. -/
theorem within_setR {s : State} {r : Nat} {x : Region} (h : x.bufs = (getR s r).bufs) : Within s (setR s r x) r :=
  ⟨⟨fun _ => rfl, fun _ => rfl, fun q k a => by rw [getR_setR_keeps Region.bufs h q]⟩, fun _ hq => getR_setR_other _ _ hq⟩

theorem within_wake (s : State) (r typ aw bw : Nat) : Within s (wake s r typ aw bw) r := by
  unfold wake
  dsimp only
  split
  · exact Within.refl s r
  · exact within_setR rfl

/-- A record in the wake ring keeps all of a region but its ring. -/
theorem wake_keeps {β : Type} (p : Region → β) (hp : ∀ g a n w, p { g with ring := a, ringNext := n, ringWraps := w } = p g)
    (s : State) (r typ aw bw q : Nat) : p (getR (wake s r typ aw bw) q) = p (getR s q) := by
  unfold wake
  dsimp only
  split
  · rfl
  · exact getR_setR_keeps p (hp _ _ _ _) q

/-! ## A graph that meets a fatal fault -/

theorem freezeRings_launches (s : State) (l : Nat) : (freezeRings s l).launches = s.launches :=
  foldl_keeps State.launches (f := fun s r => setR s r { getR s r with ringFrozen := true }) (fun _ _ => rfl) _ s
theorem freezeRings_dredges (s : State) (l : Nat) : (freezeRings s l).dredges = s.dredges :=
  foldl_keeps State.dredges (f := fun s r => setR s r { getR s r with ringFrozen := true }) (fun _ _ => rfl) _ s

theorem freezeRings_keeps {β : Type} (p : Region → β) (hp : ∀ g b, p { g with ringFrozen := b } = p g) (s : State) (l q : Nat) :
    p (getR (freezeRings s l) q) = p (getR s q) :=
  foldl_keeps (fun s => p (getR s q)) (fun _ _ => getR_setR_keeps p (hp _ _) q) _ s

/-- The image of a graph's end, or the record that says why there is none, once its rings are frozen (R376, R421). -/
theorem graphFatal_placed {s : State} {r l code : Nat} {x : Launch} (h : launchOf s r = some (l, x)) (hx : x.phase ≠ .dredging) :
    Recorded (freezeRings { setL s l { x with phase := .dredging, fault := some code, fatalRec := (getP s x.part).lastRec } with
      dredges := s.dredges ++ [l] } l) (graphFatal s r code) := by
  unfold graphFatal
  simp only [h, beq_iff_eq, hx, if_false]
  split
  · exact Recorded.refl _
  · split
    · exact recorded_launchRec ..
    · exact recorded_dumpAlloc ‹_›

/-- A fatal end keeps what a region holds beside its ring's freeze and its helm core. -/
theorem graphFatal_keeps {β : Type} (p : Region → β) (hp : ∀ g b, p { g with ringFrozen := b } = p g)
    (hh : ∀ g h, p { g with helm := h } = p g) (s : State) (r code q : Nat) :
    p (getR (graphFatal s r code) q) = p (getR s q) := by
  cases h : launchOf s r with
  | none =>
    simp only [graphFatal, h]
    exact getR_setR_keeps p (hh _ _) q
  | some lx =>
    obtain ⟨l, x⟩ := lx
    by_cases hx : x.phase = .dredging
    · simp [graphFatal, h, hx]
    · rw [(graphFatal_placed h hx).getR, freezeRings_keeps p hp]; rfl

end Sys2Proof.Proofs
end

section
/-!
PROOF. A region's own events: the timer, a bank that wakes, a new wheel, a sample, the notice queue's consumer, a stop.
-/

namespace Sys2Proof.Proofs

open Sys2Proof Sys2Proof.Machine Sys2Proof.Claims

/-! ## The timer, a bank that wakes, a new wheel, a sample -/

/-- Writing a helm core stays within its region. -/
theorem within_setH (s : State) (r : Nat) (h : Helm) : Within s (setH s r h) r := within_setR rfl

theorem helmTimerExpiry_due {s : State} {r : Nat} (ha : (getH s r).armed = true) (ht : (getH s r).timer = 0) :
    exec (.helmTimerExpiry r) s =
      .next (setH s r { getH s r with armed := false, status := Bits.put (getH s r).status 9 1 1 }) := by
  show execHelmTimerExpiry r s = _
  simp [execHelmTimerExpiry, ha, ht]

theorem helmTimerExpiry_not_due {s : State} {r : Nat} (h : ¬ ((getH s r).armed = true ∧ (getH s r).timer = 0)) :
    exec (.helmTimerExpiry r) s = .next s := by
  show execHelmTimerExpiry r s = _
  simp only [execHelmTimerExpiry]
  rw [if_neg (by simpa using h)]

/-- What a bank's wake leaves of its region: a region in which the bank is woken, and gated again where its self-test fails. -/
theorem bankWakeEnd_waking {s : State} {r bank : Nat} (hb : bank < 48) (hw : (getR s r).waking.getLsbD bank = true) (ok : Bool) :
    ∃ x : Region, exec (.bankWakeEnd r bank ok) s = .next (setR s r x) ∧ x.bufs = (getR s r).bufs ∧
      x.waking = (getR s r).waking &&& ~~~ BitVec.ofNat 48 (2 ^ bank) ∧
      x.bgate = if ok then (getR s r).bgate else (getR s r).bgate ||| BitVec.ofNat 48 (2 ^ bank) := by
  show ∃ x : Region, execBankWakeEnd r bank ok s = _ ∧ _
  have hn : (decide (48 ≤ bank) || !(getR s r).waking.getLsbD bank) = false := by simp [hb, hw]
  simp only [execBankWakeEnd, hn, Bool.false_eq_true, if_false]
  cases ok
  · exact ⟨_, rfl, rfl, rfl, rfl⟩
  · exact ⟨_, rfl, rfl, rfl, rfl⟩

theorem bankWakeEnd_result {s : State} {r bank : Nat} (hb : bank < 48) (hw : (getR s r).waking.getLsbD bank = true) (ok : Bool) :
    ∃ u, exec (.bankWakeEnd r bank ok) s = .next u ∧
      (getR u r).waking.getLsbD bank = false ∧ (∀ k, k ≠ bank → (getR u r).waking.getLsbD k = (getR s r).waking.getLsbD k) ∧
      (∀ k < 48, (getR u r).bgate.getLsbD k = ((getR s r).bgate.getLsbD k || (!ok && k == bank))) ∧
      sameBytes s u ∧ elsewhere s u r := by
  obtain ⟨x, hx, hbufs, hwake, hgate⟩ := bankWakeEnd_waking hb hw ok
  refine ⟨_, hx, ?_, fun k hk => ?_, fun k hk => ?_, within_setR hbufs⟩
  · rw [getR_setR_same, hwake, BitVec.getLsbD_and, BitVec.getLsbD_not, getLsbD_bankMask]
    simp [hb]
  · rw [getR_setR_same, hwake, BitVec.getLsbD_and, BitVec.getLsbD_not, getLsbD_bankMask]
    have := @BitVec.lt_of_getLsbD 48 (getR s r).waking k
    simpa [Ne.symm hk] using this
  · rw [getR_setR_same, hgate]
    cases ok
    · simp only [Bool.false_eq_true, if_false, BitVec.getLsbD_or, getLsbD_bankMask, hk, decide_true, Bool.not_false, Bool.true_and]
      by_cases hkb : k = bank
      · simp [hkb]
      · simp [hkb, Ne.symm hkb]
    · simp

theorem wheelRewrite_due {s : State} {r : Nat} (hw : (getR s r).rwoff = false) (hc : 4096 ≤ (getR s r).sinceWheel) :
    exec (.wheelRewrite r) s = .next (setR s r { getR s r with
      nextWheel := some (wheelFor (getR s r) (getR s r).weights), weights := [], sinceWheel := 0,
      counters := bump (getR s r).counters 2 }) := by
  show execWheelRewrite r s = _
  simp [execWheelRewrite, hw, Nat.not_lt.2 hc]

/-- A due sample: the next element's turn is counted, and one record of type 6 goes into the region's wake ring. -/
theorem sample_due {s : State} {r : Nat} (hp : Bits.nat (getR s r).obsctl 39 32 ≠ 0)
    (hs : 2 ^ Bits.nat (getR s r).obsctl 39 32 ≤ (getR s r).sinceSample) :
    ∃ f aw bw, exec (.sample r) s = .next (wake { setR s r { getR s r with
      sampleElem := ((getR s r).sampleElem + 1) % 256, sinceSample := 0 } with fresh := f } r 6 aw bw) := by
  show ∃ f aw bw, execSample r s = _
  simp only [execSample]
  rw [if_neg (by simp [hp, Nat.not_lt.2 hs])]
  split
  · exact ⟨s.fresh, _, _, rfl⟩
  · exact ⟨s.fresh + 1, _, _, rfl⟩

/-- Lower fields do not reach a field's bits: TYPE stands in bits 127 to 124 of a wake record (R214). -/
theorem wakeRecord_type (typ cycle aw bw : Nat) (h : typ < 16) :
    (BitVec.ofNat 128 (packFields [(124, 4, typ), (96, 28, cycle), (64, 32, aw), (0, 64, bw)])).extractLsb' 124 4 =
      BitVec.ofNat 4 typ := by
  have hlow : packFields [(96, 28, cycle), (64, 32, aw), (0, 64, bw)] < 2 ^ 124 := by
    have h1 : cycle % 2 ^ 28 ≤ 2 ^ 28 - 1 := Nat.le_pred_of_lt (Nat.mod_lt _ (by decide))
    have h2 : aw % 2 ^ 32 ≤ 2 ^ 32 - 1 := Nat.le_pred_of_lt (Nat.mod_lt _ (by decide))
    have h3 : bw % 2 ^ 64 ≤ 2 ^ 64 - 1 := Nat.le_pred_of_lt (Nat.mod_lt _ (by decide))
    simp only [packFields]
    omega
  generalize hl : packFields [(96, 28, cycle), (64, 32, aw), (0, 64, bw)] = low at hlow
  have hall : packFields [(124, 4, typ), (96, 28, cycle), (64, 32, aw), (0, 64, bw)] = low + 2 ^ 124 * typ := by
    rw [packFields, hl, Nat.mod_eq_of_lt (b := 2 ^ 4) h, Nat.mul_comm, Nat.add_comm]
  apply BitVec.eq_of_toNat_eq
  rw [hall, BitVec.extractLsb'_toNat, BitVec.toNat_ofNat, BitVec.toNat_ofNat, Nat.shiftRight_eq_div_pow,
    Nat.mod_eq_of_lt (a := low + 2 ^ 124 * typ) (by omega), Nat.add_mul_div_left _ _ (by decide), Nat.div_eq_of_lt hlow, Nat.zero_add]

/-- A ring that is not frozen takes a record into its next entry (R214, R215). -/
theorem wake_ring {s : State} {r : Nat} (hf : (getR s r).ringFrozen = false) (typ aw bw : Nat) (ht : typ < 16) :
    (getR (wake s r typ aw bw) r).ringNext = ((getR s r).ringNext + 1) % 4096 ∧
      (aGet 0 (getR (wake s r typ aw bw) r).ring (getR s r).ringNext).extractLsb' 124 4 = BitVec.ofNat 4 typ := by
  simp only [wake, hf, Bool.false_eq_true, if_false, getR_setR_same, aGet_set_same, true_and]
  exact wakeRecord_type _ _ _ _ ht

theorem sample_result {s : State} {r : Nat} (hp : Bits.nat (getR s r).obsctl 39 32 ≠ 0)
    (hs : 2 ^ Bits.nat (getR s r).obsctl 39 32 ≤ (getR s r).sinceSample) :
    ∃ u, exec (.sample r) s = .next u ∧ (getR u r).sampleElem = ((getR s r).sampleElem + 1) % 256 ∧
      (getR u r).sinceSample = 0 ∧ sameBytes s u ∧ elsewhere s u r ∧
      ((getR s r).ringFrozen = false → (getR u r).ringNext = ((getR s r).ringNext + 1) % 4096 ∧
        (aGet 0 (getR u r).ring (getR s r).ringNext).extractLsb' 124 4 = 6#4) := by
  obtain ⟨f, aw, bw, hx⟩ := sample_due hp hs
  generalize hm : ({ setR s r { getR s r with sampleElem := ((getR s r).sampleElem + 1) % 256, sinceSample := 0 } with
    fresh := f } : State) = m at hx
  have hr : getR m r = { getR s r with sampleElem := ((getR s r).sampleElem + 1) % 256, sinceSample := 0 } := by
    subst hm; exact getR_setR_same ..
  have hin : Within s m r := by subst hm; exact within_setR (s := s) rfl
  obtain ⟨hbytes, helse⟩ := hin.trans (within_wake m r 6 aw bw)
  refine ⟨_, hx, ?_, ?_, hbytes, helse, fun hf => ?_⟩
  · rw [wake_keeps Region.sampleElem fun _ _ _ _ => rfl, hr]
  · rw [wake_keeps Region.sinceSample fun _ _ _ _ => rfl, hr]
  · have := wake_ring (s := m) (r := r) (by rw [hr]; exact hf) 6 aw bw (by decide)
    rwa [hr] at this

/-! ## The notice queue's consumer -/

theorem noticeReset_keeps {β : Type} (p : State → β) (hp : ∀ s g, p { s with granules := g } = p s) (s : State) (part base n i : Nat) :
    p (noticeReset s part base n i) = p s := by
  unfold noticeReset
  split
  · exact hp _ _
  · rfl

theorem noticeConsWrite_outside {s : State} {n : BitVec 5} {v : W64} (hn : (areaOf (getP s n.toNat) 4).2.2 ≠ 0)
    (hv : v.toNat ≠ memNat s.hbm ((areaOf (getP s n.toNat) 4).2.1 + 8) 8)
    (ho : v.toNat < memNat s.hbm ((areaOf (getP s n.toNat) 4).2.1 + 8) 8 ∨ memNat s.hbm (areaOf (getP s n.toNat) 4).2.1 8 < v.toNat) :
    exec (.noticeConsWrite n v) s =
      .next (partRec s n.toNat 0 0 3 ((areaOf (getP s n.toNat) 4).2.1 / 2 ^ 37) 0 (mkTrap 0x6D 0 v.toNat)) := by
  show execNoticeConsWrite n v s = _
  simp only [execNoticeConsWrite]
  rw [if_neg (by simp [hn, hv]), if_pos (by simpa using ho)]

theorem noticeConsWrite_same {s : State} {n : BitVec 5} {v : W64}
    (hv : v.toNat = memNat s.hbm ((areaOf (getP s n.toNat) 4).2.1 + 8) 8) : exec (.noticeConsWrite n v) s = .next s := by
  show execNoticeConsWrite n v s = _
  simp only [execNoticeConsWrite]
  rw [if_pos (by simp [hv])]

/-- Bytes below a write read as before it. -/
theorem memReadN_putNat_below {m : Mem} (w : memWf m = true) (v : Nat) {b n : Nat} : ∀ k a, a + k ≤ b →
    memReadN (memPutNat m b n v) a k = memReadN m a k := by
  intro k
  induction k with
  | zero => intro a _; rfl
  | succ k ih =>
    intro a h
    rw [memReadN, memReadN, ih (a + 1) (by omega), memPutNat, memRead_writeN_other _ w (by omega)]

/-- CONS moves within what has been posted: the queue has space again, and device memory stays as it is (R142, R143, R416). -/
theorem consMoved_inside {s : State} {part old v : Nat} (hn : (areaOf (getP s part) 4).2.2 ≠ 0) (hv : v ≠ old) (ho : old ≤ v)
    (hp : v ≤ memNat s.hbm (areaOf (getP s part) 4).2.1 8) :
    (consMoved s part old v).hbm = s.hbm ∧ (consMoved s part old v).regions = s.regions ∧
      (getP (consMoved s part old v) part).nqFull = false := by
  unfold consMoved
  dsimp only
  rw [if_neg (by simp [hn, hv]), if_neg (by simp only [Bool.or_eq_true, decide_eq_true_eq]; omega)]
  refine ⟨?_, ?_, by simp⟩
  · exact foldl_keeps State.hbm (fun _ _ => noticeReset_keeps State.hbm (fun _ _ => rfl) ..) _ s
  · exact foldl_keeps State.regions (fun _ _ => noticeReset_keeps State.regions (fun _ _ => rfl) ..) _ s

theorem noticeConsWrite_inside {s : State} {n : BitVec 5} {v : W64} (hn : (areaOf (getP s n.toNat) 4).2.2 ≠ 0)
    (ho : memNat s.hbm ((areaOf (getP s n.toNat) 4).2.1 + 8) 8 ≤ v.toNat)
    (hp : v.toNat ≤ memNat s.hbm (areaOf (getP s n.toNat) 4).2.1 8)
    (hw : memWf s.hbm = true) :
    ∃ u, exec (.noticeConsWrite n v) s = .next u ∧ memNat u.hbm ((areaOf (getP s n.toNat) 4).2.1 + 8) 8 = v.toNat ∧
      u.regions = s.regions ∧
      (∀ y, (y < (areaOf (getP s n.toNat) 4).2.1 + 8 ∨ (areaOf (getP s n.toNat) 4).2.1 + 16 ≤ y) →
        memRead u.hbm y = memRead s.hbm y) ∧
      (v.toNat ≠ memNat s.hbm ((areaOf (getP s n.toNat) 4).2.1 + 8) 8 → (getP u n.toNat).nqFull = false) := by
  by_cases hv : v.toNat = memNat s.hbm ((areaOf (getP s n.toNat) 4).2.1 + 8) 8
  · exact ⟨s, noticeConsWrite_same hv, hv.symm, rfl, fun _ _ => rfl, fun h => absurd hv h⟩
  · generalize ha : (areaOf (getP s n.toNat) 4).2.1 = base at *
    have hx : exec (.noticeConsWrite n v) s =
        .next (consMoved (hbmPutNat s (base + 8) 8 v.toNat) n.toNat (memNat s.hbm (base + 8) 8) v.toNat) := by
      show execNoticeConsWrite n v s = _
      simp only [execNoticeConsWrite, ha]
      rw [if_neg (by simp [hn, hv]), if_neg (by simp [ho, hp])]
    have hput : (hbmPutNat s (base + 8) 8 v.toNat).hbm = memPutNat s.hbm (base + 8) 8 v.toNat := hbmPut_hbm ..
    have hpart : getP (hbmPutNat s (base + 8) 8 v.toNat) n.toNat = getP s n.toNat := by
      simp only [getP, hbmPutNat, hbmPut_parts]
    have hprod : memNat (memPutNat s.hbm (base + 8) 8 v.toNat) base 8 = memNat s.hbm base 8 := by
      simp only [memNat, memReadN_putNat_below hw v.toNat 8 base (Nat.le_refl _)]
    obtain ⟨hm, hr, hq⟩ := consMoved_inside (s := hbmPutNat s (base + 8) 8 v.toNat) (part := n.toNat)
      (by rw [hpart]; exact hn) hv ho (by rw [hpart, ha, hput, hprod]; exact hp)
    refine ⟨_, hx, ?_, hr.trans (hbmPut_regions ..), fun y hy => ?_, fun _ => hq⟩
    · rw [hm, hput, memNat_putNat _ _ _ hw]
      exact Nat.mod_eq_of_lt v.isLt
    · rw [hm, hput, memPutNat, memRead_writeN_other _ hw (by rw [bytesOf_length]; omega)]

/-! ## A stop -/

theorem noHandler_keeps {β : Type} (p : Region → β) (hp : ∀ g b, p { g with ringFrozen := b } = p g)
    (hh : ∀ g h, p { g with helm := h } = p g) (s : State) (r code : Nat) (tval : W64) (q : Nat) :
    p (getR (noHandler s r code tval) q) = p (getR s q) := by
  unfold noHandler
  rw [graphFatal_keeps p hp hh, (recorded_faultRec _ _ _ _ _ _ _ _ (by simp) (by simp)).getR]

theorem deliver_keeps {β : Type} (p : Region → β) (hp : ∀ g b, p { g with ringFrozen := b } = p g)
    (hh : ∀ g h, p { g with helm := h } = p g) (s : State) (r : Nat) (d : Delivered) (q : Nat) :
    p (getR (deliver s r d) q) = p (getR s q) := by
  unfold deliver
  dsimp only
  split
  · exact noHandler_keeps p hp hh ..
  · exact getR_setR_keeps p (hh _ _) q

/-- A core that can take it has the trap delivered, behind those before it (R319). -/
theorem deliver_canTake {s : State} {r : Nat} (h : canTake (getH s r)) (d : Delivered) :
    (getH (deliver s r d) r).delivered = (getH s r).delivered ++ [d] := by
  obtain ⟨ht, hh⟩ := h
  have hc : (decide ((getH s r).trapvec = 0) || (getH s r).halted) = false := by simpa [hh] using ht
  simp only [deliver, hc, Bool.false_eq_true, if_false, getH_setH_same]

/-- A region whose stop has taken hold: STOP is set, and the request is no longer asked for. -/
def stopped (g : Region) (k : Nat × Nat × Nat × Nat × Nat) : Region :=
  { g with stopReq := g.stopReq.erase k, obsctl := Bits.put g.obsctl 1 1 1 }

/-- The first step of a stop: its region as it stops, and the STOP record (R210, R214). -/
def stopMarked (s : State) (r : Nat) (k : Nat × Nat × Nat × Nat × Nat) : State :=
  wake (setR s r (stopped (getR s r) k)) r 7 (nodeNum s r k.2.2.1 k.2.2.2.1 k.2.2.2.2).toNat
    (placeWord64 k.2.2.1 k.2.2.2.1 k.2.2.2.2 (16 * k.1))

theorem stopNow_eq (s : State) (r src arg e c slot : Nat) : stopNow s r (src, arg, e, c, slot) =
    let m := stopMarked s r (src, arg, e, c, slot)
    let tval := stopTval (nodeNum s r e c slot) e c slot src
    if e = 256 then m
    else deliver (faultRec m r e c slot 0 0 0 { cause := 0x02, arg := arg, tval := tval, hdr := 0 }) r
      { rank := 4, cls := 0, code := 0x02, arg := arg, tval := tval } := by
  simp [stopNow, stopMarked, stopped, obsStop, nodeNum, nodeEntry]

theorem stopMarked_keeps {β : Type} (p : Region → β) (hp : ∀ g a n w, p { g with ring := a, ringNext := n, ringWraps := w } = p g)
    (s : State) (r : Nat) (k : Nat × Nat × Nat × Nat × Nat) : p (getR (stopMarked s r k) r) = p (stopped (getR s r) k) := by
  rw [stopMarked, wake_keeps p hp, getR_setR_same]

theorem stopNow_keeps {β : Type} (p : Region → β) (hw : ∀ g a n w, p { g with ring := a, ringNext := n, ringWraps := w } = p g)
    (hp : ∀ g b, p { g with ringFrozen := b } = p g) (hh : ∀ g h, p { g with helm := h } = p g) (s : State) (r : Nat)
    (k : Nat × Nat × Nat × Nat × Nat) : p (getR (stopNow s r k) r) = p (stopped (getR s r) k) := by
  rw [stopNow_eq, ← stopMarked_keeps p hw]
  dsimp only
  split
  · rfl
  · rw [deliver_keeps p hp hh, (recorded_faultRec _ _ _ _ _ _ _ _ (by simp) (by simp)).getR]

theorem stopNow_delivers {s : State} {r src arg e c slot : Nat} (he : e ≠ 256) (h : canTake (getH s r)) :
    (getH (stopNow s r (src, arg, e, c, slot)) r).delivered = (getH s r).delivered ++
      [{ rank := 4, cls := 0, code := 0x02, arg := arg, tval := stopTval (nodeNum s r e c slot) e c slot src }] := by
  rw [stopNow_eq]
  dsimp only
  rw [if_neg he]
  have hm : getH (faultRec (stopMarked s r (src, arg, e, c, slot)) r e c slot 0 0 0
      { cause := 0x02, arg := arg, tval := stopTval (nodeNum s r e c slot) e c slot src, hdr := 0 }) r = getH s r := by
    unfold getH
    rw [(recorded_faultRec _ _ _ _ _ _ _ _ (by simp) (by simp)).getR]
    exact stopMarked_keeps Region.helm (fun _ _ _ _ => rfl) s r _
  rw [deliver_canTake (by rw [hm]; exact h), hm]

theorem regionStop_due {s : State} {r e c k : Nat} {src : BitVec 3} {arg : BitVec 13}
    (hk : (src.toNat, arg.toNat, e, c, k) ∈ (getR s r).stopReq) (hc : cycleFresh (getR s r) = true)
    (he : e < 256 → (getN s r e c).flight = none ∧ (getN s r e c).held = none) :
    exec (.regionStop r src arg e c k) s = .next (stopNow s r (src.toNat, arg.toNat, e, c, k)) := by
  have hw : stopWritten s r (src.toNat, arg.toNat, e, c, k) = true := by
    by_cases h : 256 ≤ e
    · simp [stopWritten, h]
    · obtain ⟨hf, hh⟩ := he (Nat.lt_of_not_le h)
      simp [stopWritten, hf, hh]
  show execRegionStop r src arg e c k s = _
  simp [execRegionStop, hk, hc, hw]

theorem regionStop_result {s : State} {r e c k : Nat} {src : BitVec 3} {arg : BitVec 13}
    (hk : (src.toNat, arg.toNat, e, c, k) ∈ (getR s r).stopReq) (hc : cycleFresh (getR s r) = true)
    (he : e < 256 → (getN s r e c).flight = none ∧ (getN s r e c).held = none) :
    ∃ u, exec (.regionStop r src arg e c k) s = .next u ∧ (getR u r).obsctl.getLsbD 1 = true ∧
      (getR u r).stopReq = (getR s r).stopReq.erase (src.toNat, arg.toNat, e, c, k) ∧
      (e ≠ 256 → canTake (getH s r) → ∃ d, (getH u r).delivered = (getH s r).delivered ++ [d] ∧ d.cls = 0 ∧ d.code = 0x02 ∧
        d.arg = arg.toNat ∧ d.tval = stopTval (nodeNum s r e c k) e c k src.toNat) := by
  refine ⟨_, regionStop_due hk hc he, ?_, ?_, fun h256 ht => ⟨_, stopNow_delivers h256 ht, rfl, rfl, rfl, rfl⟩⟩
  · rw [stopNow_keeps Region.obsctl (fun _ _ _ _ => rfl) (fun _ _ => rfl) (fun _ _ => rfl)]
    exact getLsbD_put_same _ (by decide)
  · rw [stopNow_keeps Region.stopReq (fun _ _ _ _ => rfl) (fun _ _ => rfl) (fun _ _ => rfl), stopped]

end Sys2Proof.Proofs
end

section
/-!
PROOF. The events of memory, power, ports, heat and retirement.
-/

namespace Sys2Proof.Proofs

open Sys2Proof Sys2Proof.Machine Sys2Proof.Claims

/-! ## Errors of memory and its spares -/

/-- An error's record, and an image that it spoils, are records alone. -/
theorem recorded_hbmError (s : State) (kind pa : Nat) :
    Recorded { s with
      poison := (if kind = 0 then [pa / 64] else (List.range 64).map (fun k => pa / 4096 * 64 + k)).foldl setAdd s.poison,
      hbmErrs := s.hbmErrs ++ [⟨pa, false, s.now, false⟩] } (hbmError s kind pa) :=
  (recorded_dieRec ..).trans (recorded_imageError ..)

/-- The lines of a metadata sector are those 64 that lie in its 4,096 bytes. -/
theorem contains_sectorLines (pa l : Nat) :
    ((List.range 64).map (fun k => pa / 4096 * 64 + k)).contains l = (l / 64 == pa / 4096) := by
  rw [Bool.eq_iff_iff]
  simp only [List.contains_iff_mem, List.mem_map, List.mem_range, beq_iff_eq]
  constructor
  · rintro ⟨k, hk, rfl⟩; omega
  · intro h; exact ⟨l % 64, Nat.mod_lt _ (by decide), by omega⟩

theorem hbmError_poison (s : State) (kind pa l : Nat) : setHas (hbmError s kind pa).poison l =
    (setHas s.poison l || if kind = 0 then l == pa / 64 else l / 64 == pa / 4096) := by
  rw [(recorded_hbmError s kind pa).poison]
  simp only [setHas_foldl_setAdd]
  split
  · rw [List.contains_cons, List.contains_nil, Bool.or_false]
  · rw [contains_sectorLines]

theorem hbmue_populated {s : State} {k : BitVec 2} {pa : BitVec 40} (hp : populated pa.toNat = true) (hk : k ≠ 3) :
    exec (.hbmue k pa) s = .next (hbmError s k.toNat pa.toNat) := by
  show execHbmue k pa s = _
  simp only [execHbmue, hp, Bool.not_true, Bool.or_false, decide_eq_true_eq]
  rw [if_neg hk]

theorem hbmue_result {s : State} {k : BitVec 2} {pa : BitVec 40} (hp : populated pa.toNat = true) (hk : k ≠ 3) :
    ∃ u, exec (.hbmue k pa) s = .next u ∧ u.regions = s.regions ∧
      ∀ l, setHas u.poison l = (setHas s.poison l || if k = 0 then l == pa.toNat / 64 else l / 64 == pa.toNat / 4096) := by
  refine ⟨_, hbmue_populated hp hk, (recorded_hbmError ..).regions, fun l => ?_⟩
  rw [hbmError_poison]
  have hz : k.toNat = 0 ↔ k = 0 := by rw [← BitVec.toNat_inj]; rfl
  simp only [hz]

theorem hbmScrub_corrected {s : State} {pa : BitVec 40} (hp : populated pa.toNat = true) :
    exec (.hbmScrub pa true) s = .next { s with hbmErrs := s.hbmErrs ++ [⟨pa.toNat, true, s.now, false⟩] } := by
  show execHbmScrub pa true s = _
  simp [execHbmScrub, hp]

theorem hbmScrub_uncorrected {s : State} {pa : BitVec 40} (hp : populated pa.toNat = true) :
    exec (.hbmScrub pa false) s = exec (.hbmue 0 pa) s := by
  rw [hbmue_populated hp (by decide)]
  show execHbmScrub pa false s = _
  simp [execHbmScrub, hp]

/-- The errors of a row once it has been spared count no more towards its sparing (R411). -/
def sparedErrs (row : Nat) (es : List HbmErr) : List HbmErr := es.map (fun e => if rowAt e.addr = row then { e with past := true } else e)

theorem rowDue_spared {s : State} {row : Nat} (es : List HbmErr) (h : s.hbmErrs = sparedErrs row es) : rowDue s row = false := by
  have hnone : (sparedErrs row es).filter (fun e => !e.past && rowAt e.addr == row) = [] := by
    simp only [sparedErrs, List.filter_eq_nil_iff, List.mem_map]
    rintro _ ⟨e, _, rfl⟩
    split <;> simp [*]
  simp only [rowDue, h, hnone, List.any_nil]

theorem rowspare_result {s : State} {pa : BitVec 40} (hp : populated pa.toNat = true) (hd : rowDue s (rowAt pa.toNat) = true)
    (hl : rowLeft s (rowAt pa.toNat) = true) :
    ∃ u, exec (.rowspare pa) s = .next u ∧ u.rowspares = s.rowspares ++ [rowAt pa.toNat] ∧ u.poison = s.poison ∧
      rowDue u (rowAt pa.toNat) = false := by
  have hr := recorded_dieRec { s with rowspares := s.rowspares ++ [rowAt pa.toNat], hbmErrs := sparedErrs (rowAt pa.toNat) s.hbmErrs }
    pa.toNat 0 0x67 (Config.pcOf (pa.toNat / 64)).toNat
  refine ⟨_, ?_, hr.rowspares, hr.poison, rowDue_spared s.hbmErrs hr.hbmErrs⟩
  show execRowspare pa s = _
  simp [execRowspare, hp, hd, hl, sparedErrs]

theorem rowspare_not_due {s : State} {pa : BitVec 40} (hd : rowDue s (rowAt pa.toNat) = false) :
    exec (.rowspare pa) s = .next s := by
  show execRowspare pa s = _
  simp [execRowspare, hd]

theorem pcspare_not_due {s : State} {n : BitVec 3} {pc : BitVec 7} (hd : pcDue s n.toNat pc.toNat = false) :
    exec (.pcspare n pc) s = .next s := by
  show execPcspare n pc s = _
  simp [execPcspare, hd]

theorem pcspare_result {s : State} {n : BitVec 3} {pc : BitVec 7} (hd : pcDue s n.toNat pc.toNat = true)
    (hs : ∀ x ∈ s.pcs, ¬ (x.1 = n.toNat ∧ x.2.1 = pc.toNat ∧ x.2.2 = true)) :
    ∃ u, exec (.pcspare n pc) s = .next u ∧
      u.pcs = s.pcs ++ [(n.toNat, pc.toNat, decide (2 ≤ (s.pcs.filter (fun x => x.1 == n.toNat && !x.2.2)).length))] := by
  have hany : s.pcs.any (fun x => x.1 == n.toNat && x.2.1 == pc.toNat && x.2.2) = false := by
    simp only [List.any_eq_false, Bool.and_eq_true, beq_iff_eq, and_assoc]
    exact hs
  show ∃ u, execPcspare n pc s = .next u ∧ _
  simp only [execPcspare, hd, hany, Bool.not_true, Bool.or_false, Bool.false_eq_true, if_false]
  refine ⟨_, rfl, ?_⟩
  split
  · exact (recorded_devRec ..).pcs
  · exact (Recorded.foldl (fun _ _ => recorded_partRec ..) _ _).pcs

/-! ## Power -/

theorem powerOn_booted {s : State} (h : s.booted = true) : exec .powerOn s = .next s := by
  show execPowerOn s = _
  simp [execPowerOn, h]

/-- The record at boot: nothing but the sediment record and the count of free values changes. -/
theorem bootRecord_eq (s : State) : ∃ f x n, bootRecord s = { s with fresh := f, sediment := x, sedSeq := n } := by
  unfold bootRecord
  dsimp only
  split <;> exact ⟨_, _, _, rfl⟩

theorem sedimentAdd_nonempty (s : State) (ltag : W64) (code cls part dev lid src : Nat) (tval : W64) :
    (sedimentAdd s ltag code cls part dev lid src tval).sediment.isEmpty = false := by
  unfold sedimentAdd
  dsimp only
  rw [Bool.eq_false_iff, ne_eq, List.isEmpty_iff, List.drop_eq_nil_iff, List.length_append, List.length_singleton]
  omega

/-- The slot of an image that came with the device (R24). -/
def romSlot (b : Bool) : Slot :=
  { image := memWriteN [] 0 (Config.romImage b), len := (Config.romImage b).length, valid := Config.fwVerify (Config.romImage b) }

theorem powerOn_first {s : State} (h : s.booted = false) : ∃ f x n, exec .powerOn s = .next (setSlot (setSlot { s with
    booted := true, fresh := f, sediment := x, sedSeq := n,
    running := !Config.fwVerify (Config.romImage false) && Config.fwVerify (Config.romImage true) } 0 (romSlot false)) 1 (romSlot true)) := by
  show ∃ f x n, execPowerOn s = _
  obtain ⟨f, x, n, hb⟩ := bootRecord_eq { s with booted := true }
  unfold romSlot
  simp only [execPowerOn, h, hb, Bool.false_eq_true, if_false]
  cases Config.fwVerify (Config.romImage false) <;> cases Config.fwVerify (Config.romImage true) <;> exact ⟨_, _, _, rfl⟩

theorem powerOn_result {s : State} (h : s.booted = false) : ∃ u, exec .powerOn s = .next u ∧ u.booted = true ∧
    u.running = (!Config.fwVerify (Config.romImage false) && Config.fwVerify (Config.romImage true)) ∧
    (vGet Slot.reset u.fw 0).valid = Config.fwVerify (Config.romImage false) ∧
    (vGet Slot.reset u.fw 1).valid = Config.fwVerify (Config.romImage true) ∧ u.hbm = s.hbm ∧ u.regions = s.regions := by
  obtain ⟨f, x, n, hx⟩ := powerOn_first h
  refine ⟨_, hx, rfl, rfl, ?_, ?_, rfl, rfl⟩
  · simp only [setSlot]
    rw [vGet_set_other _ _ _ (by decide), vGet_set_same _ _ _ (by decide), romSlot]
  · simp only [setSlot]
    rw [vGet_set_same _ _ _ (by decide), romSlot]

theorem powerwarn_result (s : State) : ∃ u, exec .powerwarn s = .next u ∧ u.nvNext = !s.nvNext ∧
    (vGet NvCopy.reset u.nvram (if s.nvNext then 1 else 0)).entries = u.sediment ∧
    copyOk (vGet NvCopy.reset u.nvram (if s.nvNext then 1 else 0)) = true ∧
    vGet NvCopy.reset u.nvram (if s.nvNext then 0 else 1) = vGet NvCopy.reset s.nvram (if s.nvNext then 0 else 1) := by
  have hne : (devRec s 0x8A 0 9 0).sediment.isEmpty = false := sedimentAdd_nonempty ..
  have h1 := (recorded_devRec s 0x8A 0 9 0).nvram
  have h2 := (recorded_devRec s 0x8A 0 9 0).nvNext
  show ∃ u, execPowerwarn s = .next u ∧ _
  unfold execPowerwarn
  generalize devRec s 0x8A 0 9 0 = t at *
  have hk : (if s.nvNext then 1 else 0) < 2 := by split <;> decide
  refine ⟨_, rfl, ?_, ?_, ?_, ?_⟩ <;> dsimp only <;> rw [h2]
  · rw [vGet_set_same _ _ _ hk]
  · rw [vGet_set_same _ _ _ hk]
    simp [copyOk, hne]
  · rw [vGet_set_other _ _ _ (by split <;> decide), h1]

/-! ## Ports -/

theorem aFind_aMap {α : Type} (f : Nat → α → α) (l : Assoc α) (n : Nat) : aFind (aMap f l) n = (aFind l n).map (f n) := by
  induction l with
  | nil => rfl
  | cons e l ih =>
    obtain ⟨k, x⟩ := e
    by_cases h : n = k
    · subst h; simp [aMap, aFind]
    · simpa [aMap, aFind, h] using ih

theorem chainDown_ports (s : State) (l port : Nat) : (chainDown s l port).ports = s.ports := by
  unfold chainDown
  split
  · rfl
  · dsimp only
    split
    · rfl
    · split
      · exact (recorded_launchRec ..).ports.trans (recorded_launchRec ..).ports
      · exact (recorded_launchRec ..).ports

/-- A graph that runs and meets a port that is down rolls back (R439). -/
theorem chainDown_rolls {s : State} {l port : Nat} {x : Launch} (h : getL s l = some x) (hm : launchMoves x = true) :
    launchIs (chainDown s l port) l (fun y => y.phase = .rolling ∧ y.fault = some 0x50) := by
  have hd : (x.phase == .dredging) = false := by
    cases hp : x.phase <;> simp [launchMoves, hp] at hm ⊢
  have hm' : launchMoves { x with chainSince := aSet x.chainSince port s.now } = true := hm
  simp only [chainDown, h, hd, hm', Bool.false_eq_true, if_false, if_true]
  exact ⟨_, getL_setL_same _ _ _, rfl, rfl⟩

/-- A port as it goes down (R439). -/
def portDown (s : State) (k : Nat) : State :=
  { s with ports := aSet s.ports k { aGet EthPort.reset s.ports k with up := false, downSince := s.now, tries := 0 } }

/-- The device's own notice of a port that no chain crosses, or each graph's, which meets the port (R420, R439). -/
def portNotices (s : State) (k : Nat) : List Nat → State
  | [] => devRec s 0x84 0 8 0
  | ls => ls.foldl (fun s l => chainDown (launchRec s l 8 0 ⟨0x84, k, 0, 0⟩) l k) s

theorem portNotices_ports (s : State) (k : Nat) (ls : List Nat) : (portNotices s k ls).ports = s.ports := by
  unfold portNotices
  split
  · exact (recorded_devRec ..).ports
  · exact foldl_keeps State.ports (fun _ _ => (chainDown_ports ..).trans (recorded_launchRec ..).ports) _ s

theorem linkdown_up {s : State} {k : BitVec 4} (h : (aGet EthPort.reset s.ports k.toNat).up = true) :
    exec (.linkdown k) s = .next (portNotices (portDown s k.toNat) k.toNat (crossing s k.toNat)) := by
  rw [← show crossing (portDown s k.toNat) k.toNat = crossing s k.toNat from rfl]
  show execLinkdown k s = _
  unfold execLinkdown
  simp only [h, Bool.not_true, Bool.false_eq_true, if_false]
  change (match crossing (portDown s k.toNat) k.toNat with | [] => _ | ls => _) = _
  cases crossing (portDown s k.toNat) k.toNat <;> rfl

theorem linkdown_result {s : State} {k : BitVec 4} (l : Nat) (x : Launch) (h : (aGet EthPort.reset s.ports k.toNat).up = true) :
    ∃ u, exec (.linkdown k) s = .next u ∧ (aGet EthPort.reset u.ports k.toNat).up = false ∧
      (aGet EthPort.reset u.ports k.toNat).downSince = s.now ∧
      (crossing s k.toNat = [l] → getL s l = some x → launchMoves x = true →
        launchIs u l (fun y => y.phase = .rolling ∧ y.fault = some 0x50)) := by
  refine ⟨_, linkdown_up h, ?_, ?_, fun hc hl hm => ?_⟩
  · simp [portNotices_ports, portDown]
  · simp [portNotices_ports, portDown]
  · rw [hc]
    exact chainDown_rolls (((recorded_launchRec ..).getL l).trans hl) hm

theorem linkdown_down {s : State} {k : BitVec 4} (h : (aGet EthPort.reset s.ports k.toNat).up = false) :
    exec (.linkdown k) s = .next s := by
  show execLinkdown k s = _
  simp [execLinkdown, h]

theorem linkup_disabled {s : State} {k : BitVec 4} (h : (aGet EthPort.reset s.ports k.toNat).disabled = true) :
    exec (.linkup k) s = .next s := by
  show execLinkup k s = _
  simp [execLinkup, h]

theorem linkup_result {s : State} {k : BitVec 4} (l : Nat) (x : Launch) (h : (aGet EthPort.reset s.ports k.toNat).up = false)
    (hd : (aGet EthPort.reset s.ports k.toNat).disabled = false) :
    ∃ u, exec (.linkup k) s = .next u ∧ (aGet EthPort.reset u.ports k.toNat).up = true ∧
      (getL s l = some x → getL u l = some { x with chainSince := aDel x.chainSince k.toNat }) := by
  show ∃ u, execLinkup k s = .next u ∧ _
  simp only [execLinkup, h, hd, Bool.or_false, Bool.false_eq_true, if_false]
  refine ⟨_, rfl, ?_, fun hl => ?_⟩
  · rw [(recorded_devRec ..).ports]
    simp
  · unfold getL at hl
    rw [(recorded_devRec ..).getL, getL, aFind_aMap, hl]
    rfl

theorem chaindownTimeout_due {s : State} {k : BitVec 4} {l t0 : Nat} {x : Launch} (hl : getL s l = some x)
    (hu : (aGet EthPort.reset s.ports k.toNat).up = false) (hf : aFind x.chainSince k.toNat = some t0) (ht : t0 + 100000000 ≤ s.now)
    (hp : isPlaced x = true) (hc : crosses x k.toNat = true) (hd : x.phase ≠ .dredging) :
    exec (.chaindownTimeout k l) s =
      .next (graphFatal (launchRec s l 8 2 ⟨0x50, 1, BitVec.ofNat 64 k.toNat, 0⟩) (x.place.headD 0) 0x50) := by
  show execChaindownTimeout k l s = _
  simp [execChaindownTimeout, hl, hu, hf, ht, hp, hc, hd]

/-! ## The governor and heat -/

/-- A region whose sensor has been read: its heat, and a new interval of its governor (R107, R380). -/
def sensed (s : State) (r : Nat) (t : Byte) : Region :=
  let g := getR s r
  { g with temperature := t.toNat, hot := if 95 ≤ t.toNat then true else if t.toNat < 90 then false else g.hot,
           tripped := 105 ≤ t.toNat || (g.tripped && 90 ≤ t.toNat), govStart := s.now, govCycles := (0, 0, 0, 0) }

/-- A step of the clock leaves the state, or writes its region's clock and counters. -/
theorem clockStep_cases (s : State) (r : Nat) (up : Bool) :
    clockStep s r up = s ∨ ∃ k c, clockStep s r up = setR s r { getR s r with clock := k, counters := c } := by
  unfold clockStep
  extract_lets g k new
  split
  · exact .inl rfl
  · exact .inr ⟨_, _, rfl⟩

theorem within_clockStep (s : State) (r : Nat) (up : Bool) : Within s (clockStep s r up) r := by
  obtain h | ⟨k, c, h⟩ := clockStep_cases s r up <;> rw [h]
  · exact Within.refl s r
  · exact within_setR rfl

theorem clockStep_keeps {β : Type} (p : Region → β) (hp : ∀ g k c, p { g with clock := k, counters := c } = p g)
    (s : State) (r : Nat) (up : Bool) (q : Nat) : p (getR (clockStep s r up) q) = p (getR s q) := by
  obtain h | ⟨k, c, h⟩ := clockStep_cases s r up <;> rw [h]
  exact getR_setR_keeps p (hp _ _ _) q

/-- The clock of a region that is neither fixed nor precise: one step, within its ends (R107). -/
theorem clockStep_clock {s : State} {r : Nat} (hf : (getR s r).gfix = false) (hp : isPrec (getR s r) = false) (up : Bool) :
    (getR (clockStep s r up) r).clock.toNat =
      if up then min 6 ((getR s r).clock.toNat + 1) else (getR s r).clock.toNat - 1 := by
  have hk : (getR s r).clock.toNat < 8 := (getR s r).clock.isLt
  generalize hn : (if up then min 6 ((getR s r).clock.toNat + 1) else (getR s r).clock.toNat - 1) = new
  have hnew : new < 8 := by subst hn; split <;> omega
  simp only [clockStep, hf, hp, hn, Bool.false_or, decide_eq_true_eq]
  split
  · exact Eq.symm ‹_›
  · rw [getR_setR_same, BitVec.toNat_ofNat, Nat.mod_eq_of_lt hnew]

theorem governor_early {s : State} {r : Nat} (b w : Nat) (t : Byte) (h : s.now < (getR s r).govStart + 50000) :
    exec (.governorDecision r b w t) s = .next s := by
  show execGovernorDecision r b w t s = _
  simp [execGovernorDecision, h]

theorem governor_other {s : State} {r b w : Nat} (t : Byte) (h : b ≠ (getR s r).govCycles.2.1 ∨ w ≠ (getR s r).govCycles.2.2.2) :
    exec (.governorDecision r b w t) s = .next s := by
  show execGovernorDecision r b w t s = _
  simp only [execGovernorDecision]
  rw [if_pos (by simp [h, or_assoc])]

/-- Below 90 °C the clock follows the interval's two fractions alone (R107). -/
theorem governor_cool {s : State} {r : Nat} {t : Byte} (hs : (getR s r).govStart + 50000 ≤ s.now) (ht : t.toNat < 90) :
    exec (.governorDecision r (getR s r).govCycles.2.1 (getR s r).govCycles.2.2.2 t) s =
      .next (match govStep { getR s r with temperature := t.toNat } with
        | some up => clockStep (setR s r (sensed s r t)) r up
        | none => setR s r (sensed s r t)) := by
  have h95 : ¬ 95 ≤ t.toNat := by omega
  have h105 : ¬ 105 ≤ t.toNat := by omega
  show execGovernorDecision r _ _ t s = _
  unfold execGovernorDecision sensed
  simp only [Nat.not_lt.2 hs, h95, h105, ht, if_true, if_false, ne_eq, not_true_eq_false, decide_false, Bool.or_false, Bool.false_eq_true,
    Bool.false_and]
  cases hl : launchOf _ r <;> cases govStep { getR s r with temperature := t.toNat } <;> rfl

/-- What the device reads of a region leaves its bytes and every other region alone. -/
def SensorRead (s u : State) (r : Nat) (t : Byte) : Prop :=
  (getR u r).temperature = t.toNat ∧ (getR u r).govStart = s.now ∧ sameBytes s u ∧ elsewhere s u r

theorem read_sensed (s : State) (r : Nat) (t : Byte) : SensorRead s (setR s r (sensed s r t)) r t := by
  refine ⟨?_, ?_, within_setR rfl⟩ <;> rw [getR_setR_same, sensed]

theorem read_clockStep (s : State) (r : Nat) (t : Byte) (up : Bool) : SensorRead s (clockStep (setR s r (sensed s r t)) r up) r t := by
  obtain ⟨ht, hg, hw⟩ := read_sensed s r t
  refine ⟨?_, ?_, Within.trans hw (within_clockStep ..)⟩
  · rw [clockStep_keeps Region.temperature fun _ _ _ => rfl, ht]
  · rw [clockStep_keeps Region.govStart fun _ _ _ => rfl, hg]

/-- A region starves: its feeders wait at its edge for at least a quarter of their cycles (R107). -/
def starves (g : Region) : Prop := g.govCycles.2.2.1 ≠ 0 ∧ g.govCycles.2.2.1 ≤ 4 * g.govCycles.2.2.2
/-- A region is ahead: it waits for its outputs for at least half of its cycles, and its feeders seldom wait (R107). -/
def isAhead (g : Region) : Prop := g.govCycles.1 ≠ 0 ∧ g.govCycles.1 ≤ 2 * g.govCycles.2.1 ∧
  (g.govCycles.2.2.1 = 0 ∨ 10 * g.govCycles.2.2.2 < g.govCycles.2.2.1)

theorem govStep_starves {g : Region} (ht : g.temperature < 90) (h : starves g) : govStep g = some true := by
  obtain ⟨h1, h2⟩ := h
  simp [govStep, h1, h2, ht]

/-- A region that does not starve steps down where it is ahead, and holds its clock elsewhere (R107). -/
theorem govStep_not_starves {g : Region} (hn : ¬ starves g) :
    (isAhead g → govStep g = some false) ∧ (¬ isAhead g → govStep g = none) := by
  unfold starves at hn
  unfold isAhead govStep
  generalize g.govCycles = c at hn ⊢
  obtain ⟨own, bout, fed, wopd⟩ := c
  have hs : (decide (fed ≠ 0) && decide (fed ≤ 4 * wopd) && decide (g.temperature < 90)) = false := by
    simp only [Bool.and_eq_false_iff, decide_eq_false_iff_not]
    exact .inl (Decidable.not_and_iff_or_not.1 hn)
  simp only [hs, Bool.false_eq_true, if_false, Bool.and_eq_true, decide_eq_true_eq, Bool.or_eq_true, and_assoc]
  exact ⟨fun h => if_pos h, fun h => if_neg h⟩

/-- Where the interval asks for a step, the clock of a region that is neither fixed nor precise makes it. -/
theorem governor_steps {s : State} {r : Nat} {t : Byte} (hs : (getR s r).govStart + 50000 ≤ s.now) (ht : t.toNat < 90)
    (hf : (getR s r).gfix = false) (hp : isPrec (getR s r) = false) {up : Bool}
    (h : govStep { getR s r with temperature := t.toNat } = some up) :
    ∃ u, exec (.governorDecision r (getR s r).govCycles.2.1 (getR s r).govCycles.2.2.2 t) s = .next u ∧ SensorRead s u r t ∧
      (getR u r).clock.toNat = if up then min 6 ((getR s r).clock.toNat + 1) else (getR s r).clock.toNat - 1 := by
  refine ⟨_, governor_cool hs ht, ?_⟩
  rw [h]
  refine ⟨read_clockStep .., ?_⟩
  rw [clockStep_clock (by rw [getR_setR_same]; exact hf) (by rw [getR_setR_same]; exact hp), getR_setR_same]
  rfl

theorem governor_holds {s : State} {r : Nat} {t : Byte} (hs : (getR s r).govStart + 50000 ≤ s.now) (ht : t.toNat < 90)
    (hn : ¬ starves (getR s r)) (h : ¬ isAhead (getR s r)) :
    ∃ u, exec (.governorDecision r (getR s r).govCycles.2.1 (getR s r).govCycles.2.2.2 t) s = .next u ∧ SensorRead s u r t ∧
      (getR u r).clock = (getR s r).clock := by
  refine ⟨_, governor_cool hs ht, ?_⟩
  rw [(govStep_not_starves (g := { getR s r with temperature := t.toNat }) hn).2 h]
  exact ⟨read_sensed .., by rw [getR_setR_same, sensed]⟩

theorem launchOf_sensed (s : State) (r : Nat) (t : Byte) : launchOf (setR s r (sensed s r t)) r = launchOf s r :=
  launchOf_congr (s := s) (setR_launches ..) (by rw [getR_setR_same, sensed])

/-- At 105 °C a graph that is not ending already meets the fatal fault of heat (R380). -/
theorem governor_trips {s : State} {r l : Nat} {x : Launch} {t : Byte} (hs : (getR s r).govStart + 50000 ≤ s.now)
    (ht : 105 ≤ t.toNat) (hl : launchOf s r = some (l, x)) (hx : x.phase ≠ .dredging) :
    exec (.governorDecision r (getR s r).govCycles.2.1 (getR s r).govCycles.2.2.2 t) s =
      .next (graphFatal (tripRec (setR s r (sensed s r t)) r t.toNat) r 0x0D) := by
  have hl' : launchOf (setR s r (sensed s r t)) r = some (l, x) := (launchOf_sensed ..).trans hl
  show execGovernorDecision r _ _ t s = _
  unfold execGovernorDecision
  simp only [Nat.not_lt.2 hs, decide_false, Bool.false_or, ne_eq, not_true_eq_false, Bool.false_eq_true, if_false, ht, if_true]
  change Host.Outcome.next (match launchOf (setR s r _) r with | none => _ | some (_, x) => _) = _
  unfold sensed at hl' ⊢
  simp only [ht, decide_true, Bool.true_or] at hl' ⊢
  rw [hl']
  simp [hx]

/-- A graph that meets a fatal fault stops, and its end is due (R376). -/
theorem graphFatal_dredges {s : State} {r l code : Nat} {x : Launch} (h : launchOf s r = some (l, x)) (hx : x.phase ≠ .dredging) :
    (graphFatal s r code).dredges = s.dredges ++ [l] ∧
      launchIs (graphFatal s r code) l (fun y => y.phase = .dredging ∧ y.fault = some code) := by
  have hg := graphFatal_placed (code := code) h hx
  refine ⟨by rw [hg.dredges, freezeRings_dredges], ?_⟩
  rw [launchIs, hg.getL, getL_congr (freezeRings_launches ..)]
  exact ⟨_, getL_setL_same .., rfl, rfl⟩

theorem governor_trips_result {s : State} {r l : Nat} {x : Launch} {t : Byte} (hs : (getR s r).govStart + 50000 ≤ s.now)
    (ht : 105 ≤ t.toNat) (hl : launchOf s r = some (l, x)) (hx : x.phase ≠ .dredging) :
    ∃ u, exec (.governorDecision r (getR s r).govCycles.2.1 (getR s r).govCycles.2.2.2 t) s = .next u ∧
      u.dredges = s.dredges ++ [l] ∧ launchIs u l (fun y => y.phase = .dredging ∧ y.fault = some 0x0D) := by
  have hr := recorded_tripRec (setR s r (sensed s r t)) r t.toNat
  have hl' : launchOf (tripRec (setR s r (sensed s r t)) r t.toNat) r = some (l, x) :=
    ((hr.launchOf r).trans (launchOf_sensed ..)).trans hl
  obtain ⟨hd, hi⟩ := graphFatal_dredges (code := 0x0D) hl' hx
  exact ⟨_, governor_trips hs ht hl hx, hd.trans (by rw [hr.dredges]; rfl), hi⟩

/-! ### A request to move for heat (R380) -/

/-- Posting a cut keeps what a launch holds beside the cut. -/
theorem postCut_launch {s : State} {l : Nat} {x : Launch} (h : getL s l = some x) (kind : Nat) (closing first : Bool) :
    ∃ c q w, getL (postCut s l kind closing first) l = some { x with cut := c, cutSeq := q, wantSnap := w } := by
  unfold postCut
  simp only [h]
  split
  · exact ⟨_, _, _, h⟩
  · rw [getL, foldl_keeps State.launches (fun _ _ => setR_launches ..), setL_launches, aFind_set_same]
    exact ⟨_, _, _, rfl⟩

theorem postNext_launch {s : State} {l : Nat} {x : Launch} (h : getL s l = some x) :
    ∃ c q w, getL (postNext s l) l = some { x with cut := c, cutSeq := q, wantSnap := w } := by
  unfold postNext
  simp only [h]
  split
  · exact ⟨_, _, _, h⟩
  · split
    · exact postCut_launch h ..
    · split
      · exact postCut_launch h ..
      · exact ⟨_, _, _, h⟩

theorem heatMove_launch (s : State) (l : Nat) (x : Launch) :
    launchIs (heatMove s l x) l (fun y => y.thermal = true ∧ y.wantEbb = true ∧ y.repost = none) := by
  obtain ⟨c, q, w, h⟩ := postNext_launch (s := setL s l { x with thermal := true, repost := none, wantEbb := true }) (getL_setL_same ..)
  exact ⟨_, h, rfl, rfl, rfl⟩

section
variable {s : State} {l w : Nat} {x : Launch} (hl : getL s l = some x) (hr : x.repost = some w)
include hl hr

theorem thermalRepost_early (hw : s.now < w) : exec (.thermalRepost l) s = .next s := by
  show execThermalRepost l s = _
  simp [execThermalRepost, hl, hr, hw]

theorem thermalRepost_cooled (hw : w ≤ s.now) (hc : ∀ q ∈ x.place, (getR s q).temperature < 95) :
    exec (.thermalRepost l) s = .next (setL s l { x with repost := none }) := by
  have hany : x.place.any (fun r => decide (95 ≤ (getR s r).temperature)) = false := by
    simpa [List.any_eq_false] using hc
  show execThermalRepost l s = _
  simp [execThermalRepost, hl, hr, Nat.not_lt.2 hw, hany]

theorem thermalRepost_hot (hw : w ≤ s.now) (hc : ∃ q ∈ x.place, 95 ≤ (getR s q).temperature) :
    exec (.thermalRepost l) s = .next (if coolPlace s l x && cuttable x then heatMove s l x
      else setL s l { x with repost := some (s.now + tenMs) }) := by
  have hany : x.place.any (fun r => decide (95 ≤ (getR s r).temperature)) = true := by
    simpa [List.any_eq_true] using hc
  show execThermalRepost l s = _
  simp only [execThermalRepost, hl, hr, Nat.not_lt.2 hw, hany, Bool.not_true, Bool.false_eq_true, if_false]
  split <;> rfl

end

/-! ## Retirement -/

/-- A state in which every region is on or offline as in another, with the same spares used. -/
def SameStanding (s u : State) : Prop := u.spares = s.spares ∧ ∀ q, (getR u q).offline = (getR s q).offline

namespace SameStanding

variable {s t u : State}

theorem refl (s : State) : SameStanding s s := ⟨rfl, fun _ => rfl⟩
theorem trans (h : SameStanding s t) (k : SameStanding t u) : SameStanding s u :=
  ⟨k.1.trans h.1, fun q => (k.2 q).trans (h.2 q)⟩

theorem of_regions (hs : u.spares = s.spares) (hr : u.regions = s.regions) : SameStanding s u :=
  ⟨hs, fun q => by rw [getR_congr hr]⟩

theorem setR {r : Nat} {x : Region} (h : x.offline = (getR s r).offline) : SameStanding s (setR s r x) :=
  ⟨rfl, fun q => getR_setR_keeps Region.offline h q⟩

theorem foldl {α : Type} {f : State → α → State} (h : ∀ s a, SameStanding s (f s a)) (l : List α) :
    ∀ s, SameStanding s (l.foldl f s) := by
  induction l with
  | nil => exact refl
  | cons a l ih => intro s; exact (h s a).trans (ih _)

end SameStanding

theorem sameStanding_blockPut (s : State) (pa n : Nat) (fs : Fields) : SameStanding s (blockPut s pa n fs) := by
  unfold blockPut
  exact SameStanding.of_regions (nudge_spares ..) (nudge_regions ..)

theorem sameStanding_intervalEnd (s : State) (r why : Nat) : SameStanding s (intervalEnd s r why) := by
  unfold intervalEnd
  extract_lets part p ar t
  have ht : SameStanding s t := by
    simp only [t]
    split
    · exact SameStanding.refl s
    · exact sameStanding_blockPut ..
  exact (ht.trans (SameStanding.of_regions rfl rfl)).trans (SameStanding.setR rfl)

theorem sameStanding_endRegion (s : State) (r : Nat) : SameStanding s (endRegion s r) :=
  SameStanding.trans (t := quietRegion s r) (SameStanding.of_regions rfl rfl) (SameStanding.setR rfl)

theorem sameStanding_complMsg (s : State) (k : Nat) (c : Comp) : SameStanding s (complMsg s k c) := by
  unfold complMsg complWrite
  dsimp only
  split
  · unfold compKeep
    split
    · dsimp only
      split <;> exact SameStanding.of_regions rfl rfl
    · exact SameStanding.of_regions rfl rfl
  · split <;> exact SameStanding.of_regions rfl rfl

theorem sameStanding_reqDone (s : State) (q : Req) (status value : Nat) : SameStanding s (reqDone s q status value) :=
  SameStanding.trans (t := { s with reqs := s.reqs.erase q }) (SameStanding.of_regions rfl rfl) (sameStanding_complMsg ..)

theorem sameStanding_launchCompl (s : State) (x : Launch) (status value : Nat) : SameStanding s (launchCompl s x status value) := by
  unfold launchCompl
  split
  · exact sameStanding_complMsg ..
  · exact SameStanding.refl s

theorem sameStanding_preemptOver (s : State) (l part : Nat) : SameStanding s (preemptOver s l part) := by
  unfold preemptOver
  dsimp only
  split
  · exact SameStanding.of_regions rfl rfl
  · exact SameStanding.refl s

/-- The end of a launch takes no region on or offline, and uses no spare. -/
theorem sameStanding_launchOver (s : State) (l status value : Nat) : SameStanding s (launchOver s l status value) := by
  unfold launchOver
  split
  · exact SameStanding.refl s
  · extract_lets rs s1 s2 s3 s4 s5
    have h1 : SameStanding s s1 := SameStanding.foldl (fun _ _ => sameStanding_intervalEnd ..) _ s
    have h2 : SameStanding s s2 := h1.trans (SameStanding.foldl sameStanding_endRegion _ _)
    have h3 : SameStanding s s3 := h2.trans (SameStanding.of_regions rfl rfl)
    have h4 : SameStanding s s4 := (h3.trans (sameStanding_preemptOver ..)).trans (sameStanding_launchCompl ..)
    have h5 : SameStanding s s5 := h4.trans (SameStanding.of_regions rfl rfl)
    exact h5.trans (SameStanding.foldl (fun _ _ => sameStanding_reqDone ..) _ _)

theorem sameStanding_dropUnfit (s : State) (part : Nat) : SameStanding s (dropUnfit s part) := by
  refine SameStanding.foldl (fun s e => ?_) _ s
  split
  · split
    · exact SameStanding.refl s
    · exact sameStanding_launchOver ..
  · exact SameStanding.refl s

theorem sparesUsed_congr {s u : State} {r : Nat} (h : u.spares = s.spares) : sparesUsed u r = sparesUsed s r := by
  rw [sparesUsed, sparesUsed, h]

theorem retire_not_due {s : State} {r : Nat} (h : retireDue (getR s r) = false) : exec (.retire r) s = .next s := by
  show execRetire r s = _
  simp [execRetire, h]

theorem retire_spare {s : State} {r : Nat} (hd : retireDue (getR s r) = true) (ho : (getR s r).offline = false)
    (hl : launchOf s r = none) (hk : sparesUsed s r < 4) :
    ∃ u, exec (.retire r) s = .next u ∧ u.spares = (r, sparesUsed s r) :: s.spares ∧ getR u r = clearedRegion (getR s r) := by
  show ∃ u, execRetire r s = .next u ∧ _
  simp only [execRetire, hd, ho, hl, hk, Bool.not_true, Bool.or_false, Bool.false_eq_true, if_false, if_true]
  have hr := recorded_placeRec s r 0x1FF 0 0 0 9 0
    { cause := 0x4F, arg := 0, tval := BitVec.ofNat 64 (64 + sparesUsed s r + 256 * (r / 64)), hdr := 0 }
  refine ⟨_, rfl, ?_, ?_⟩
  · rw [useSpare, setR_spares]
    dsimp only
    rw [hr.spares, sparesUsed_congr hr.spares]
  · simp only [useSpare, getR_setR_same, hr.getR]

theorem retire_offline {s : State} {r : Nat} (hd : retireDue (getR s r) = true) (ho : (getR s r).offline = false)
    (hl : launchOf s r = none) (hk : 4 ≤ sparesUsed s r) :
    ∃ u, exec (.retire r) s = .next u ∧ u.spares = s.spares ∧ (getR u r).offline = true := by
  show ∃ u, execRetire r s = .next u ∧ _
  simp only [execRetire, hd, ho, hl, Nat.not_lt.2 hk, Bool.not_true, Bool.or_false, Bool.false_eq_true, if_false]
  obtain ⟨hs, hq⟩ := sameStanding_dropUnfit _ _
  refine ⟨_, rfl, hs.trans (recorded_placeRec ..).spares, (hq r).trans ?_⟩
  exact congrArg Region.offline (getR_setR_same ..)

end Sys2Proof.Proofs
end

section
/-!
PROOF. The statement on what the device does of itself.
-/

namespace Sys2Proof.Proofs

open Sys2Proof Sys2Proof.Machine Sys2Proof.Claims

/-! ## What the device does of itself -/

theorem helmTimerExpiry_result {s : State} {r : Nat} (ha : (getH s r).armed = true) (ht : (getH s r).timer = 0) :
    ∃ u, exec (.helmTimerExpiry r) s = .next u ∧ (getH u r).armed = false ∧ (getH u r).status.getLsbD 9 = true ∧
      (∀ k, k ≠ 9 → (getH u r).status.getLsbD k = (getH s r).status.getLsbD k) ∧ (getH u r).node = (getH s r).node ∧
      (getH u r).pc = (getH s r).pc ∧ sameBytes s u ∧ elsewhere s u r := by
  refine ⟨_, helmTimerExpiry_due ha ht, ?_, ?_, fun k hk => ?_, ?_, ?_, within_setH ..⟩ <;> rw [getH_setH_same]
  · exact getLsbD_put_same _ (by decide)
  · exact getLsbD_put_other _ _ hk

theorem wheelRewrite_result {s : State} {r : Nat} (hw : (getR s r).rwoff = false) (hc : 4096 ≤ (getR s r).sinceWheel) :
    ∃ u, exec (.wheelRewrite r) s = .next u ∧ (getR u r).nextWheel = some (wheelFor (getR s r) (getR s r).weights) ∧
      (getR u r).weights = [] ∧ (getR u r).sinceWheel = 0 ∧ (getR u r).wheel = (getR s r).wheel ∧ sameBytes s u ∧
      elsewhere s u r := by
  refine ⟨_, wheelRewrite_due hw hc, ?_, ?_, ?_, ?_, within_setR rfl⟩ <;> rw [getR_setR_same]

theorem thermalRepost_result {s : State} {l w : Nat} {x : Launch} (hl : getL s l = some x) (hr : x.repost = some w) :
    (s.now < w → exec (.thermalRepost l) s = .next s) ∧
    (w ≤ s.now → (∀ q ∈ x.place, (getR s q).temperature < 95) →
      ∃ u, exec (.thermalRepost l) s = .next u ∧ launchIs u l (fun y => y.repost = none)) ∧
    (w ≤ s.now → (∃ q ∈ x.place, 95 ≤ (getR s q).temperature) → coolPlace s l x = true → cuttable x = true →
      ∃ u, exec (.thermalRepost l) s = .next u ∧ launchIs u l (fun y => y.thermal = true ∧ y.wantEbb = true ∧ y.repost = none)) ∧
    (w ≤ s.now → (∃ q ∈ x.place, 95 ≤ (getR s q).temperature) → coolPlace s l x = false →
      ∃ u, exec (.thermalRepost l) s = .next u ∧ launchIs u l (fun y => y.repost = some (s.now + 10000000))) := by
  refine ⟨thermalRepost_early hl hr, fun hw hc => ⟨_, thermalRepost_cooled hl hr hw hc, _, getL_setL_same .., rfl⟩,
    fun hw hc hp hk => ⟨_, thermalRepost_hot hl hr hw hc, ?_⟩, fun hw hc hp => ⟨_, thermalRepost_hot hl hr hw hc, ?_⟩⟩
  · rw [hp, hk]
    exact heatMove_launch s l x
  · rw [hp]
    exact ⟨_, getL_setL_same .., rfl⟩

/-- Settles O54, event by event: each clause is the result lemma of its event. -/
theorem deviceEvents : Obligations.DeviceEvents := by
  unfold Obligations.DeviceEvents
  refine ⟨fun s r bank n v => ?_, fun s r src arg e c k => regionStop_result, fun s k pa n pc hp => ?_, fun s => ?_,
    fun s k l x => ?_, fun s r t => ?_⟩
  · exact ⟨helmTimerExpiry_result, helmTimerExpiry_not_due, bankWakeEnd_result, wheelRewrite_result, sample_result,
      noticeConsWrite_outside, noticeConsWrite_inside⟩
  · exact ⟨hbmue_result hp, hbmScrub_corrected hp, hbmScrub_uncorrected hp, rowspare_result hp, rowspare_not_due,
      pcspare_not_due, pcspare_result⟩
  · exact ⟨powerOn_booted, powerOn_result, powerwarn_result s⟩
  · exact ⟨linkdown_result l x, fun h => ⟨linkdown_down h, linkup_disabled, linkup_result l x h⟩,
      fun t0 hl hu hf ht hp hc hd => chaindownTimeout_due hl hu hf ht hp hc hd⟩
  · refine ⟨governor_early _ _ t, fun b w h => governor_other t h, fun hs ht hf hp => ⟨?_, ?_, ?_⟩,
      fun hs ht l x hl hx => governor_trips_result hs ht hl hx, fun l x w hl hr => thermalRepost_result hl hr, retire_not_due,
      fun hd ho hl => ⟨retire_spare hd ho hl, retire_offline hd ho hl⟩⟩
    · exact fun h => governor_steps hs ht hf hp (govStep_starves ht h)
    · exact fun hn h => governor_steps hs ht hf hp ((govStep_not_starves (g := { getR s r with temperature := t.toNat }) hn).1 h)
    · exact governor_holds hs ht

end Sys2Proof.Proofs
end
